-- ==== Sys2Proof/Word.lean ====
section
/-! DEFINITION. The machine's words and their plainest arithmetic. -/

namespace Sys2Proof

/-- A scalar register, an address under computation or a device register: 64 bits. -/
abbrev Word := BitVec 64

/-- One byte of memory. -/
abbrev Byte := BitVec 8

/-- A vector register: a 128-byte image read as a little-endian bit string (R164, R173). -/
abbrev VReg := BitVec 1024

end Sys2Proof
end

