-- ==== Sys2Proof/Syntax.lean ====
section
/-! DEFINITION. Syntax: the one inductive of instructions and events, one constructor per row of the opcode table.
A word's operands are the raw fields of its encoding (R252 to R256); an event's operands are the data its agent supplies. -/

namespace Sys2Proof

/-- One step of the machine: a 32-bit Exber word with its fields, or an event of the device, the host or the fabric. -/
inductive Instr where
  /-- LD_B_H_W (R279): Loads a byte, half or word, sign-extended. -/
  | ldBHW (d a w : Nat)
  /-- LD_ACQ (R279): Sign-extending load that is an acquire at the named scope. -/
  | ldAcq (d a s w : Nat)
  /-- LD_BU_HU_WU (R279): Loads a byte, half or word, zero-extended. -/
  | ldBuHuWu (d a w : Nat)
  /-- ST_B_H_W (R279): Stores the low bits of a register as a byte, half or word. -/
  | stBHW (a b w : Nat)
  /-- ST_REL (R279): Store that is a release at the named scope. -/
  | stRel (a b s w : Nat)
  /-- AMOSWAP (R280): Atomic swap at the named scope. -/
  | amoswap (d a b s w o : Nat)
  /-- AMOADD (R280): Atomic add. -/
  | amoadd (d a b s w o : Nat)
  /-- AMOAND (R280): Atomic AND. -/
  | amoand (d a b s w o : Nat)
  /-- AMOOR (R280): Atomic OR. -/
  | amoor (d a b s w o : Nat)
  /-- AMOXOR (R280): Atomic XOR. -/
  | amoxor (d a b s w o : Nat)
  /-- AMOMIN (R280): Atomic signed minimum. -/
  | amomin (d a b s w o : Nat)
  /-- AMOMAX (R280): Atomic signed maximum. -/
  | amomax (d a b s w o : Nat)
  /-- AMOMINU (R280): Atomic unsigned minimum. -/
  | amominu (d a b s w o : Nat)
  /-- AMOMAXU (R280): Atomic unsigned maximum. -/
  | amomaxu (d a b s w o : Nat)
  /-- CAS (R280): Atomic compare-and-swap against s[d]. -/
  | cas (d a b s w o : Nat)
  /-- VSETL (R283): Sets VTYPE and the effective VLMAX, and enqueues a configuration entry that sets each row's VL and STRIP. -/
  | vsetl (d a v : Nat)
  /-- VLOOP (R286): Opens a hardware strip-mined loop over n elements, checking its body. -/
  | vloop (a : Nat)
  /-- VNEXT (R286): Closes a VLOOP body; met on its own, it traps. -/
  | vnext
  /-- VSETTL (R284): Requests a new tile length, dropping or adding clusters of the grant. -/
  | vsettl (d a : Nat)
  /-- VSETMT (R285): Writes VMT from an immediate. -/
  | vsetmt (m : Nat)
  /-- VDEAD (R287): Marks the selected vector registers dead in each row. -/
  | vdead (a : Nat)
  /-- ICPF (R288): Hints the fetch agent to fill an instruction line. -/
  | icpf (a i : Nat)
  /-- CWAIT (R289): Waits until the named copy tokens retire, then acquires their writes at system scope. -/
  | cwait (k : Nat)
  /-- VADD_I (R294): Typed integer add, vector b. -/
  | vaddI (d a b f m : Nat)
  /-- VSUB_I (R294): Typed integer subtract, vector b. -/
  | vsubI (d a b f m : Nat)
  /-- VMUL_I (R294): Typed integer multiply, vector b. -/
  | vmulI (d a b f m : Nat)
  /-- VMULH_I (R294): Typed integer high multiply, vector b. -/
  | vmulhI (d a b f m : Nat)
  /-- VMIN_I (R294): Typed integer minimum, vector b. -/
  | vminI (d a b f m : Nat)
  /-- VMAX_I (R294): Typed integer maximum, vector b. -/
  | vmaxI (d a b f m : Nat)
  /-- VMACC_I (R294): Typed integer multiply-accumulate, vector b. -/
  | vmaccI (d a b f m : Nat)
  /-- VDIV_I (R294): Typed integer divide, vector b. -/
  | vdivI (d a b f m : Nat)
  /-- VADD_I_S (R294): Typed integer add, scalar b. -/
  | vaddIS (d a b f m : Nat)
  /-- VSUB_I_S (R294): Typed integer subtract, scalar b. -/
  | vsubIS (d a b f m : Nat)
  /-- VMUL_I_S (R294): Typed integer multiply, scalar b. -/
  | vmulIS (d a b f m : Nat)
  /-- VMULH_I_S (R294): Typed integer high multiply, scalar b. -/
  | vmulhIS (d a b f m : Nat)
  /-- VMIN_I_S (R294): Typed integer minimum, scalar b. -/
  | vminIS (d a b f m : Nat)
  /-- VMAX_I_S (R294): Typed integer maximum, scalar b. -/
  | vmaxIS (d a b f m : Nat)
  /-- VMACC_I_S (R294): Typed integer multiply-accumulate, scalar b. -/
  | vmaccIS (d a b f m : Nat)
  /-- VDIV_I_S (R294): Typed integer divide, scalar b. -/
  | vdivIS (d a b f m : Nat)
  /-- VADD_F (R295): Typed floating add, vector b. -/
  | vaddF (d a b f m : Nat)
  /-- VSUB_F (R295): Typed floating subtract, vector b. -/
  | vsubF (d a b f m : Nat)
  /-- VMUL_F (R295): Typed floating multiply, vector b. -/
  | vmulF (d a b f m : Nat)
  /-- VDIV_F (R295): Typed floating divide, vector b. -/
  | vdivF (d a b f m : Nat)
  /-- VMIN_F (R296): Typed floating minimum, vector b. -/
  | vminF (d a b f m : Nat)
  /-- VMAX_F (R296): Typed floating maximum, vector b. -/
  | vmaxF (d a b f m : Nat)
  /-- VFMA_F (R295): Typed fused multiply-add, vector b. -/
  | vfmaF (d a b f m : Nat)
  /-- VSQRT_F (R295): Typed floating square root. -/
  | vsqrtF (d a f m : Nat)
  /-- VADD_F_S (R295): Typed floating add, scalar b. -/
  | vaddFS (d a b f m : Nat)
  /-- VSUB_F_S (R295): Typed floating subtract, scalar b. -/
  | vsubFS (d a b f m : Nat)
  /-- VMUL_F_S (R295): Typed floating multiply, scalar b. -/
  | vmulFS (d a b f m : Nat)
  /-- VDIV_F_S (R295): Typed floating divide, scalar b. -/
  | vdivFS (d a b f m : Nat)
  /-- VMIN_F_S (R296): Typed floating minimum, scalar b. -/
  | vminFS (d a b f m : Nat)
  /-- VMAX_F_S (R296): Typed floating maximum, scalar b. -/
  | vmaxFS (d a b f m : Nat)
  /-- VFMA_F_S (R295): Typed fused multiply-add, scalar b. -/
  | vfmaFS (d a b f m : Nat)
  /-- VAND (R297): Bitwise AND at SEW, vector b. -/
  | vand (d a b m : Nat)
  /-- VOR (R297): Bitwise OR at SEW, vector b. -/
  | vor (d a b m : Nat)
  /-- VXOR (R297): Bitwise XOR at SEW, vector b. -/
  | vxor (d a b m : Nat)
  /-- VNOT (R297): Bitwise NOT at SEW. -/
  | vnot (d a m : Nat)
  /-- VSLL (R297): Shift left at SEW, vector b. -/
  | vsll (d a b m : Nat)
  /-- VSRL (R297): Logical shift right, vector b. -/
  | vsrl (d a b m : Nat)
  /-- VSRA (R297): Arithmetic shift right, vector b. -/
  | vsra (d a b m : Nat)
  /-- VAND_S (R297): Bitwise AND, scalar b. -/
  | vandS (d a b m : Nat)
  /-- VOR_S (R297): Bitwise OR, scalar b. -/
  | vorS (d a b m : Nat)
  /-- VXOR_S (R297): Bitwise XOR, scalar b. -/
  | vxorS (d a b m : Nat)
  /-- VSLL_S (R297): Shift left, scalar b. -/
  | vsllS (d a b m : Nat)
  /-- VSRL_S (R297): Logical shift right, scalar b. -/
  | vsrlS (d a b m : Nat)
  /-- VSRA_S (R297): Arithmetic shift right, scalar b. -/
  | vsraS (d a b m : Nat)
  /-- VCMPEQ (R298): Compares for equality into a mask, vector b. -/
  | vcmpeq (d a b f m : Nat)
  /-- VCMPNE (R298): Compares for inequality into a mask, vector b. -/
  | vcmpne (d a b f m : Nat)
  /-- VCMPLT (R298): Compares less-than into a mask, vector b. -/
  | vcmplt (d a b f m : Nat)
  /-- VCMPLE (R298): Compares less-or-equal into a mask, vector b. -/
  | vcmple (d a b f m : Nat)
  /-- VCMPGT (R298): Compares greater-than into a mask, vector b. -/
  | vcmpgt (d a b f m : Nat)
  /-- VCMPGE (R298): Compares greater-or-equal into a mask, vector b. -/
  | vcmpge (d a b f m : Nat)
  /-- VCMPUN (R298): Sets the mask bit where either operand is NaN, vector b. -/
  | vcmpun (d a b f m : Nat)
  /-- VCMPEQ_S (R298): Compares for equality, scalar b. -/
  | vcmpeqS (d a b f m : Nat)
  /-- VCMPNE_S (R298): Compares for inequality, scalar b. -/
  | vcmpneS (d a b f m : Nat)
  /-- VCMPLT_S (R298): Compares less-than, scalar b. -/
  | vcmpltS (d a b f m : Nat)
  /-- VCMPLE_S (R298): Compares less-or-equal, scalar b. -/
  | vcmpleS (d a b f m : Nat)
  /-- VCMPGT_S (R298): Compares greater-than, scalar b. -/
  | vcmpgtS (d a b f m : Nat)
  /-- VCMPGE_S (R298): Compares greater-or-equal, scalar b. -/
  | vcmpgeS (d a b f m : Nat)
  /-- VCMPUN_S (R298): Unordered compare, scalar b. -/
  | vcmpunS (d a b f m : Nat)
  /-- MAND (R299): Mask AND. -/
  | mand (d a b : Nat)
  /-- MOR (R299): Mask OR. -/
  | mor (d a b : Nat)
  /-- MXOR (R299): Mask XOR. -/
  | mxor (d a b : Nat)
  /-- MANDN (R299): Mask AND-NOT. -/
  | mandn (d a b : Nat)
  /-- MNOT (R299): Mask NOT. -/
  | mnot (d a : Nat)
  /-- MPOPC (R299): Counts the set mask bits below VL into a scalar register. -/
  | mpopc (d a : Nat)
  /-- MFIRST (R299): Returns the index of the first set mask bit, or all ones. -/
  | mfirst (d a : Nat)
  /-- VMERGE (R300): Selects elements from va or vb by mask. -/
  | vmerge (d a b m : Nat)
  /-- VMV (R300): Moves vector elements. -/
  | vmv (d a m : Nat)
  /-- VBCAST (R300): Broadcasts a scalar into the active elements. -/
  | vbcast (d b m : Nat)
  /-- VEXT (R300): Extracts one element of the home row into a scalar register. -/
  | vext (d a b : Nat)
  /-- VCVT (R301): Typed conversion, including CB2 decoding. -/
  | vcvt (d a f m : Nat)
  /-- VCLASS (R302): Classifies floating elements into one-hot bits. -/
  | vclass (d a f m : Nat)
  /-- VRECPE (R303): Reciprocal estimate. -/
  | vrecpe (d a f m : Nat)
  /-- VEXP2E (R304): Power-of-two estimate. -/
  | vexp2e (d a f m : Nat)
  /-- VSADD (R305): Saturating add, vector b. -/
  | vsadd (d a b f m : Nat)
  /-- VSSUB (R305): Saturating subtract, vector b. -/
  | vssub (d a b f m : Nat)
  /-- VSMUL (R305): Fixed-point rounding multiply, vector b. -/
  | vsmul (d a b f m : Nat)
  /-- VSMACC (R305): Fixed-point multiply-accumulate, vector b. -/
  | vsmacc (d a b f m : Nat)
  /-- VSSRA (R305): Rounding arithmetic shift, vector b. -/
  | vssra (d a b f m : Nat)
  /-- VSSRL (R305): Rounding logical shift, vector b. -/
  | vssrl (d a b f m : Nat)
  /-- VNCLIP (R305): Narrowing clip with rounding, vector b. -/
  | vnclip (d a b f m : Nat)
  /-- VAVG (R305): Rounding average, vector b. -/
  | vavg (d a b f m : Nat)
  /-- VSADD_S (R305): Saturating add, scalar b. -/
  | vsaddS (d a b f m : Nat)
  /-- VSSUB_S (R305): Saturating subtract, scalar b. -/
  | vssubS (d a b f m : Nat)
  /-- VSMUL_S (R305): Fixed-point multiply, scalar b. -/
  | vsmulS (d a b f m : Nat)
  /-- VSMACC_S (R305): Fixed-point multiply-accumulate, scalar b. -/
  | vsmaccS (d a b f m : Nat)
  /-- VSSRA_S (R305): Rounding arithmetic shift, scalar b. -/
  | vssraS (d a b f m : Nat)
  /-- VSSRL_S (R305): Rounding logical shift, scalar b. -/
  | vssrlS (d a b f m : Nat)
  /-- VNCLIP_S (R305): Narrowing clip, scalar b. -/
  | vnclipS (d a b f m : Nat)
  /-- VAVG_S (R305): Rounding average, scalar b. -/
  | vavgS (d a b f m : Nat)
  /-- VREDSUM_O (R306): Ordered sum reduction into element 0. -/
  | vredsumO (d a b f m : Nat)
  /-- VREDSUM_U (R306): Unordered sum reduction in any tree. -/
  | vredsumU (d a b f m : Nat)
  /-- VREDMIN (R306): Minimum reduction. -/
  | vredmin (d a b f m : Nat)
  /-- VREDMAX (R306): Maximum reduction. -/
  | vredmax (d a b f m : Nat)
  /-- VREDAND (R306): AND reduction. -/
  | vredand (d a b f m : Nat)
  /-- VREDOR (R306): OR reduction. -/
  | vredor (d a b f m : Nat)
  /-- VREDXOR (R306): XOR reduction. -/
  | vredxor (d a b f m : Nat)
  /-- VSCAN_O (R308): Ordered inclusive prefix sum. -/
  | vscanO (d a f m : Nat)
  /-- VSCAN_FAST (R308): Prefix sum in any tree per element. -/
  | vscanFast (d a f m : Nat)
  /-- VIOTA (R309): Counts the set active mask bits below each element. -/
  | viota (d a m : Nat)
  /-- VID (R309): Writes STRIP + e to each active element. -/
  | vid (d m : Nat)
  /-- RNGGEN (R309): Writes Opal random values by linear coordinate. -/
  | rnggen (d a b m : Nat)
  /-- VCOMPRESS (R310): Packs the selected elements to the front. -/
  | vcompress (d a m : Nat)
  /-- VEXPAND (R310): Spreads packed elements into the selected positions. -/
  | vexpand (d a m : Nat)
  /-- VSLIDEUP (R311): Slides elements up by a scalar amount. -/
  | vslideup (d a b m : Nat)
  /-- VSLIDEDN (R311): Slides elements down by a scalar amount. -/
  | vslidedn (d a b m : Nat)
  /-- VSLIDE1UP (R311): Slides up by one, inserting a scalar. -/
  | vslide1up (d a b m : Nat)
  /-- VSLIDE1DN (R311): Slides down by one, inserting a scalar. -/
  | vslide1dn (d a b m : Nat)
  /-- VPERM (R311): Permutes elements by an index vector. -/
  | vperm (d a b m : Nat)
  /-- XCHG (R312): Exchanges whole register groups between the rows of a tile by rotate, butterfly or broadcast. -/
  | xchg (d a b : Nat)
  /-- VLD (R321): Ordered unit-stride load. -/
  | vld (d a s m e : Nat)
  /-- VLDU (R321): Unordered unit-stride load. -/
  | vldu (d a s m e : Nat)
  /-- VLDF (R322): Fault-only-first unit-stride load. -/
  | vldf (d a s m e : Nat)
  /-- VST (R323): Ordered unit-stride store. -/
  | vst (d a s m e : Nat)
  /-- VSTU (R323): Unordered unit-stride store. -/
  | vstu (d a s m e : Nat)
  /-- VLDS (R321): Ordered strided load. -/
  | vlds (d a b s m e : Nat)
  /-- VLDSU (R321): Unordered strided load. -/
  | vldsu (d a b s m e : Nat)
  /-- VLDSF (R322): Fault-only-first strided load. -/
  | vldsf (d a b s m e : Nat)
  /-- VSTS (R323): Ordered strided store. -/
  | vsts (d a b s m e : Nat)
  /-- VSTSU (R323): Unordered strided store. -/
  | vstsu (d a b s m e : Nat)
  /-- VLDX (R321): Ordered indexed gather. -/
  | vldx (d a b m e : Nat)
  /-- VLDXU (R321): Unordered indexed gather. -/
  | vldxu (d a b m e : Nat)
  /-- VSTX (R323): Ordered indexed scatter. -/
  | vstx (d a b m e : Nat)
  /-- VSTXU (R323): Unordered indexed scatter. -/
  | vstxu (d a b m e : Nat)
  /-- VAMOADD_I (R326): Ordered vector integer atomic add. -/
  | vamoaddI (d a b m e : Nat)
  /-- VAMOADDU_I (R326): Unordered vector integer atomic add. -/
  | vamoadduI (d a b m e : Nat)
  /-- VAMOADD_F (R326): Ordered vector floating atomic add with RNE. -/
  | vamoaddF (d a b m e : Nat)
  /-- VAMOADDU_F (R326): Unordered vector floating atomic add. -/
  | vamoadduF (d a b m e : Nat)
  /-- VAMOSWAP (R326): Ordered vector atomic swap. -/
  | vamoswap (d a b m e : Nat)
  /-- VAMOSWAPU (R326): Unordered vector atomic swap. -/
  | vamoswapu (d a b m e : Nat)
  /-- VAMOMIN (R326): Ordered vector atomic signed minimum. -/
  | vamomin (d a b m e : Nat)
  /-- VAMOMINU (R326): Unordered vector atomic signed minimum. -/
  | vamominu (d a b m e : Nat)
  /-- VAMOMAX (R326): Ordered vector atomic signed maximum. -/
  | vamomax (d a b m e : Nat)
  /-- VAMOMAXU (R326): Unordered vector atomic signed maximum. -/
  | vamomaxu (d a b m e : Nat)
  /-- VAMOAND (R326): Ordered vector atomic AND. -/
  | vamoand (d a b m e : Nat)
  /-- VAMOANDU (R326): Unordered vector atomic AND. -/
  | vamoandu (d a b m e : Nat)
  /-- VAMOOR (R326): Ordered vector atomic OR. -/
  | vamoor (d a b m e : Nat)
  /-- VAMOORU (R326): Unordered vector atomic OR. -/
  | vamooru (d a b m e : Nat)
  /-- VAMOXOR (R326): Ordered vector atomic XOR. -/
  | vamoxor (d a b m e : Nat)
  /-- VAMOXORU (R326): Unordered vector atomic XOR. -/
  | vamoxoru (d a b m e : Nat)
  /-- MROW (R337): Multiplies a register row of A by a tile buffer into an FP32 accumulator group. -/
  | mrow (d a n f : Nat)
  /-- MROWM (R337): Multiplies a row of A read from memory by a tile buffer. -/
  | mrowm (d a n f : Nat)
  /-- MROWX (R339): Exact E4M3 row product into an FX64 accumulator with saturation. -/
  | mrowx (d a n f : Nat)
  /-- MXRD (R340): Reads an FX64 group out, rounding into a floating format. -/
  | mxrd (d a f : Nat)
  /-- MXCLR (R341): Clears an FX64 group and its overflow bit. -/
  | mxclr (a : Nat)
  /-- MTLOAD (R335): Loads and decodes a tile into a tile buffer of every row, tile row by tile row. -/
  | mtload (n a b f : Nat)
  /-- CBLOAD (R334): Replaces the hart's codebook table and empties its CB2 tile buffers. -/
  | cbload (a : Nat)
  /-- COPY (R347): Plain tensor copy on a token. -/
  | copy (a b c k : Nat)
  /-- COPYR_O (R348): Ordered fold of source strips into the destination. -/
  | copyrO (a b c k : Nat)
  /-- COPYR_U (R348): Unordered fold of source strips into the destination. -/
  | copyrU (a b c k : Nat)
  /-- COPY_Z (R349): Compresses the source into KBC blocks of a surface. -/
  | copyZ (a b c k : Nat)
  /-- COPY_MIG (R350): Copies whole pages for migration, ignoring MIG at supervisor level. -/
  | copyMig (a b c k : Nat)
  /-- PUSHQ (R352): Pushes a marker or token-query word into an input FIFO. -/
  | pushq (a b : Nat)
  /-- POPQ (R352): Waits for and pops the oldest output-FIFO result. -/
  | popq (d b : Nat)
  /-- VSEND (R353): Sends active elements to harts named by node indices. -/
  | vsend (a b m : Nat)
  /-- VRECV (R354): Takes arrivals from the hart's buffer into a register. -/
  | vrecv (a b : Nat)
  /-- FRED (R355): Contributes bytes of a register group to a reduction tree. -/
  | fred (a b c : Nat)
  /-- FREDW (R355): Waits for and collects the result of the hart's reduction round. -/
  | fredw (a b c : Nat)
  /-- LDSTAND_LATEST (R357): Installs a LATEST standing subscription on a doubleword. -/
  | ldstandLatest (a b c : Nat)
  /-- LDSTAND_QUEUE (R357): Installs a QUEUE standing subscription on a slot pair. -/
  | ldstandQueue (a b c : Nat)
  /-- SLOTRD (R359): Reads a subscription slot, waiting unless NOWAIT, and acquires. -/
  | slotrd (a b c : Nat)
  /-- UNSUB (R360): Removes a subscription after its earlier pushes are delivered. -/
  | unsub (a b : Nat)
  /-- STEPINV (R361): Removes the function's read-only cache lines at the named scope. -/
  | stepinv (s : Nat)
  /-- SMAX (R365): Returns the key and pattern of the largest logit. -/
  | smax (a b : Nat)
  /-- SKTH (R366): Returns the k-th largest candidate word. -/
  | skth (a b c : Nat)
  /-- SWGT (R367): Writes UQ1.31 exponential weights of logits. -/
  | swgt (a b c : Nat)
  /-- STOPP (R369): Returns the top-p cutoff candidate word. -/
  | stopp (a b c : Nat)
  /-- SDRAW (R371): Draws a token index with the Opal generator, or returns the shard total. -/
  | sdraw (a b c : Nat)
  /-- SDRAW_HW (R371): Draws with the core's entropy source in place of Opal. -/
  | sdrawHw (a b c : Nat)
  /-- PBIND (R106): Binds a stream record and returns a handle and status. -/
  | pbind (a b : Nat)
  /-- PAPP (R110): Appends an item at a time to a stream. -/
  | papp (a b c : Nat)
  /-- PLD (R117): Loads the item covering a time at a requested level, with its span. -/
  | pld (a b c : Nat)
  /-- PSYNC (R115): Waits until the merges of the accepted appends have run. -/
  | psync (b : Nat)
  /-- PSTAT (R375): Returns a stream's status word. -/
  | pstat (a b : Nat)
  /-- PFREE (R107): Frees a stream handle after its accepted commands. -/
  | pfree (b : Nat)
  /-- KVMAP (R132): Returns the virtual address of a KV row. -/
  | kvmap (a b c : Nat)
  /-- KVLD (R133): Direct-form delivery of a position range of KV rows. -/
  | kvld (a b c : Nat)
  /-- KVLD_B (R133): Batch-form step over a scratchpad batch list, parking absent pages. -/
  | kvldB (a b : Nat)
  /-- KVAPP (R132): Appends a token's rows to a sequence, allocating or faulting COW. -/
  | kvapp (a b c : Nat)
  /-- KVFORK (R132): Forks a sequence by sharing its pages. -/
  | kvfork (b c : Nat)
  /-- KVREL (R132): Releases a sequence, freeing pages whose count reaches zero. -/
  | kvrel (b : Nat)
  /-- KVCOW (R132): Copies a shared block into private pages. -/
  | kvcow (b c : Nat)
  /-- KVFORK_M (R132): Manager fork into another function's sequence from the physical function's pool. -/
  | kvforkM (b c : Nat)
  /-- FENCE_SV (R208): Orders earlier scalar accesses before later vector accesses. -/
  | fenceSv (s : Nat)
  /-- FENCE_VS (R208): Orders earlier vector accesses before later scalar accesses. -/
  | fenceVs (s : Nat)
  /-- FENCE_SVB (R208): Both typed fences plus a tile barrier. -/
  | fenceSvb (s : Nat)
  /-- FENCE_REL (R202): Scalar release fence. -/
  | fenceRel (s : Nat)
  /-- FENCE_ACQ (R202): Scalar acquire fence. -/
  | fenceAcq (s : Nat)
  /-- FENCE_ROW (R206): Row-scope fence in every row. -/
  | fenceRow (s : Nat)
  /-- VBAR (R206): Tile barrier across all rows. -/
  | vbar (s : Nat)
  /-- GBAR (R382): Gang barrier episode with release on arrival and acquire on departure. -/
  | gbar (s : Nat)
  /-- ADDI (R275): Adds a sign-extended immediate to a register. -/
  | addi (d a i : Nat)
  /-- ORI (R275): ORs a zero-extended immediate into a register. -/
  | ori (d a i : Nat)
  /-- LUI (R275): Loads a sign-extended immediate shifted left by 16. -/
  | lui (d i : Nat)
  /-- J (R277): Jumps PC-relative by a word offset. -/
  | j (o : Nat)
  /-- JAL (R277): Writes the return address to s1 and jumps. -/
  | jal (o : Nat)
  /-- ST_D (R279): Stores a doubleword at base plus offset. -/
  | stD (d a i : Nat)
  /-- LD_D (R279): Loads a doubleword from base plus offset. -/
  | ldD (d a i : Nat)
  /-- BEQ (R276): Branches when the two registers are equal. -/
  | beq (a b o : Nat)
  /-- BNE (R276): Branches when the two registers are not equal. -/
  | bne (a b o : Nat)
  /-- BLT (R276): Branches on signed less-than. -/
  | blt (a b o : Nat)
  /-- BGE (R276): Branches on signed greater-or-equal. -/
  | bge (a b o : Nat)
  /-- BLTU (R276): Branches on unsigned less-than. -/
  | bltu (a b o : Nat)
  /-- BGEU (R276): Branches on unsigned greater-or-equal. -/
  | bgeu (a b o : Nat)
  /-- ADD (R273): Adds two registers modulo 2^64. -/
  | add (d a b : Nat)
  /-- SUB (R273): Subtracts two registers. -/
  | sub (d a b : Nat)
  /-- AND (R273): Bitwise AND of two registers. -/
  | and (d a b : Nat)
  /-- OR (R273): Bitwise OR of two registers. -/
  | or (d a b : Nat)
  /-- XOR (R273): Bitwise XOR of two registers. -/
  | xor (d a b : Nat)
  /-- SLL (R273): Shifts left by a register amount. -/
  | sll (d a b : Nat)
  /-- SRL (R273): Shifts right logically by a register amount. -/
  | srl (d a b : Nat)
  /-- SRA (R273): Shifts right arithmetically by a register amount. -/
  | sra (d a b : Nat)
  /-- SLT (R273): Sets 1 on signed less-than. -/
  | slt (d a b : Nat)
  /-- SLTU (R273): Sets 1 on unsigned less-than. -/
  | sltu (d a b : Nat)
  /-- SEQ (R273): Sets 1 on equality. -/
  | seq (d a b : Nat)
  /-- MIN (R273): Signed minimum. -/
  | min (d a b : Nat)
  /-- MAX (R273): Signed maximum. -/
  | max (d a b : Nat)
  /-- MINU (R273): Unsigned minimum. -/
  | minu (d a b : Nat)
  /-- MAXU (R273): Unsigned maximum. -/
  | maxu (d a b : Nat)
  /-- MUL (R273): Low 64 bits of the product. -/
  | mul (d a b : Nat)
  /-- MULH (R273): High 64 bits of the signed product. -/
  | mulh (d a b : Nat)
  /-- MULHU (R273): High 64 bits of the unsigned product. -/
  | mulhu (d a b : Nat)
  /-- DIV (R274): Signed division rounding toward zero, with fixed results for zero and overflow. -/
  | div (d a b : Nat)
  /-- DIVU (R274): Unsigned division. -/
  | divu (d a b : Nat)
  /-- REM (R274): Signed remainder. -/
  | rem (d a b : Nat)
  /-- REMU (R274): Unsigned remainder. -/
  | remu (d a b : Nat)
  /-- CLZ (R273): Counts leading zero bits. -/
  | clz (d a : Nat)
  /-- CTZ (R273): Counts trailing zero bits. -/
  | ctz (d a : Nat)
  /-- POPC (R273): Counts one bits. -/
  | popc (d a : Nat)
  /-- JALR (R277): Jumps to a register target and writes the return address, trapping on a misaligned target. -/
  | jalr (d a : Nat)
  /-- SLLI (R273): Shifts left by an immediate. -/
  | slli (d a n : Nat)
  /-- SRLI (R273): Shifts right logically by an immediate. -/
  | srli (d a n : Nat)
  /-- SRAI (R273): Shifts right arithmetically by an immediate. -/
  | srai (d a n : Nat)
  /-- CSRR (R281): Reads a control register. -/
  | csrr (d n : Nat)
  /-- CSRW (R281): Writes a control register. -/
  | csrw (a n : Nat)
  /-- CSRS (R281): Sets bits of a control register. -/
  | csrs (a n : Nat)
  /-- CSRC (R281): Clears bits of a control register. -/
  | csrc (a n : Nat)
  /-- CSRRW (R281): Swaps a control register with a scalar register. -/
  | csrrw (d a n : Nat)
  /-- HALT (R387): Ends the hart after its queue entries and copies complete. -/
  | halt
  /-- YIELD (R386): Ranks the hart as most recently issued. -/
  | yield
  /-- TRAP (R386): Commits and raises the software trap with its immediate. -/
  | trap (i : Nat)
  /-- ERET (R388): Returns from a trap, restoring the image when IMAGE = 1. -/
  | eret
  /-- GLAUNCH (R383): Submits a launch record from the device and returns the scheduler's decision. -/
  | glaunch (d a : Nat)
  /-- FREPLAY (R93): Replays every request parked under an open FID. -/
  | freplay (a : Nat)
  /-- FCONV (R93): Converts an open FID's requests into traps or XLATE statuses. -/
  | fconv (a : Nat)
  /-- HEATAGE (R385): Halves HEAT over a range of frames. -/
  | heatage (a b : Nat)
  /-- HSTOP (R389): Performs a hart reset of the issuing hart. -/
  | hstop
  /-- POWER_ON (R15): Power is applied and the bring-up sequence starts at stage 1: base rails and clock come up and the management controller starts from flash. -/
  | powerOn
  /-- BRINGUP_STAGE (R15): A bring-up stage (2 to 6) starts when the previous stage completes; a failure leaves IDSTAT.STAGE at that stage and sets IDSTAT.FAIL, and stage 6 sets STAGE 7. Operands: whether the stage completed. -/
  | bringupStage (ok : Bool)
  /-- DEVICE_RESET (R72): A conventional reset stops everything and restarts bring-up at stage 3 while keeping the repair state; DEVTIME keeps counting. -/
  | deviceReset
  /-- THERMAL_WARNING (R13): TMAX reaches 95 °C: THERMSTAT.WARN is set and a thermal event goes to the physical function's MSI-X thermal vector. Operands: the sensor reading in degrees. -/
  | thermalWarning (tmax : Nat)
  /-- THERMAL_CAP (R13): TMAX reaches 105 °C: PWRSTAT.THERM is set and the LANES cap becomes 8. Operands: the sensor reading. -/
  | thermalCap (tmax : Nat)
  /-- THERMAL_CAP_CLEAR (R13): TMAX falls below 100 °C: THERM clears and the LANES cap returns to 16. Operands: the sensor reading. -/
  | thermalCapClear (tmax : Nat)
  /-- THERMAL_TRIP (R13): TMAX reaches 115 °C: all clocks stop, THERMSTAT.TRIP is set and the device enters device reset. Operands: the sensor reading. -/
  | thermalTrip (tmax : Nat)
  /-- PEAK_CURRENT_GUARD (R9): Demanded core current would exceed 9,000 A: the guard inserts issue bubbles in the lane clusters and adds 1 to PWRSTAT.GUARDCNT. Operands: the demanded core current. -/
  | peakCurrentGuard (amps : Nat)
  /-- LANES_DECREASE (R11): After each 100 µs with AVGW above LIMW and LANES above 4, LANES drops by 4 and the lanes above the new count are gated at the next element-group boundary. Operands: the running average in W. -/
  | lanesDecrease (avgw : Nat)
  /-- LANES_INCREASE (R11): After each 1 ms with AVGW below 0.95 × LIMW and LANES below the cap, LANES rises by 4. Operands: the running average in W. -/
  | lanesIncrease (avgw : Nat)
  /-- PWRCTL_WRITE (R10): A write to PWRCTL.LIMW stores the package limit, clamped to the range 1,800 W to 4,500 W. Operands: the value written. -/
  | pwrctlWrite (val : Nat)
  /-- PWRSTAT_WRITE (R16): A write of 1 to any bit of PWRSTAT.GUARDCNT clears the field. -/
  | pwrstatWrite (val : Nat)
  /-- THERMSTAT_WRITE (R13): A write of 1 clears THERMSTAT.TRIP or THERMSTAT.WARN. -/
  | thermstatWrite (val : Nat)
  /-- MEMORY_REQUEST (R20): A memory request reaches its LLC home slice; on a miss only the named sectors are fetched from HBM, and a failed sector check makes the controller fetch the whole line and apply the line code. Operands: requesting die, granule field, physical line address, hart, what the codes find (1 an error corrected, 2 one that is not), whether it is a write: of the hart's oldest served store, and the data array whose code finds the error (0 HBM or LLC, 1 L2, 2 scratchpad, 3 scalar registers, 4 vector registers). -/
  | memoryRequest (die gran addr hart : Nat) (err : Nat := 0) (write : Bool := false) (array : Nat := 0)
  /-- LINE_WRITEBACK (R26): An evicted dirty LLC line is written back, whole, or merged with the absent sectors that the memory controller reads and re-encoded with the line code. Operands: the evicted line. -/
  | lineWriteback (line : Nat)
  /-- MEMERR_WRITE (R21): A write of 1 to any bit of MEMERR.ZEROGRAN clears the field. -/
  | memerrWrite (val : Nat)
  /-- ROW_REPAIR (R39): A DRAM row becomes failing and is repaired live using the first available stage: post-package repair, a remap entry or a spare sub-channel. Operands: the failing DRAM row. -/
  | rowRepair (stack subch bank row : Nat)
  /-- SPARE_COPY_COMPLETE (R39): The about 15 ms copy of a stage 3 repair ends, and the spare sub-channel takes over the logical bank. Operands: the logical bank being copied. -/
  | spareCopyComplete (bank : Nat)
  /-- MACHINE_CHECK (R234): An uncorrectable error in a tag or control array writes a KIND 0x23 record and stops the affected gangs with DEVFAULT, or resets the device when the array is on a base die. Operands: 0 core, 1 compute die, 2 base die; its number; the unit kind. -/
  | machineCheck (scope index unit : Nat)
  /-- SURFTAB_WRITE (R28): A write to SURFTAB stores TBASE, and stores COUNT clamped to 1,024. Operands: function and value. -/
  | surftabWrite (fn val : Nat)
  /-- SURFFLUSH_WRITE (R36): A write to SURFFLUSH starts invalidating cached surface records and aperture copies, for one surface or all, and BUSY reads 1. -/
  | surfflushWrite (fn val : Nat)
  /-- SURFFLUSH_COMPLETE (R36): The last aperture copy of the named surfaces is gone on every die, and SURFFLUSH.BUSY clears. -/
  | surfflushComplete (fn : Nat)
  /-- DECOMPRESS_RETRY (R33): A decode transaction finds a changed generation or exceeds 4,096 base cycles and starts again, and after the fourth failure it raises the decompression fault TORN. Operands: the hart whose decode transaction failed to validate. -/
  | decompressRetry (hart : Nat)
  /-- FABCFG_WRITE (R48): A write to FABCFG stores DEVID and REQTO, where a REQTO of 0 stores 1. -/
  | fabcfgWrite (val : Nat)
  /-- FABPART_WRITE (R48): A write to FABPARTf stores PART and stores TREEQ clamped to 256. -/
  | fabpartWrite (fn val : Nat)
  /-- FABPSTAT_WRITE (R48): A write of 1 to FABPSTATn.RETRY or CRCERR clears that field. -/
  | fabpstatWrite (port val : Nat)
  /-- FLIT_RECEIVE (R47): A flit arrives at an Ngarok port; a reserved KIND is discarded and counted in CRCERR. Operands: receiving port and the KIND field. -/
  | flitReceive (port kind : Nat)
  /-- FRAME_REPLAY (R48): A frame fails its CRC and is replayed from the port's 64-flit buffer, and RETRY is incremented. Operands: the port, and the place of the frame in the buffer. -/
  | frameReplay (port : Nat) (idx : Nat := 0)
  /-- PORT_RETRAIN (R48): After 16 consecutive failed replays the port retrains, and it runs on 4 lanes with DEGRADED = 1 when one lane cannot be trained. Operands: lanes trained, 8 or 4. -/
  | portRetrain (port : Nat) (lanes : Nat)
  /-- PORT_DOWN_TIMEOUT (R48): A port stays down longer than REQTO, and its outstanding requests complete with status LINK. -/
  | portDownTimeout (port : Nat)
  /-- REMOTE_REQUEST (R50): A fabric read, write, atomic or subscription request reaches its home device, is checked by partition and is served at the home slice. Operands: flit kind, requester device, its partition and function, local address, size, data, poison of the sectors, half of a byte (4-bit store) and tag. -/
  | remoteRequest (kind src part fn addr bytes data : Nat) (poison half tag : Nat := 0)
  /-- FABRIC_RESPONSE (R51): A response reaches the requester; a nonzero status raises the precise fabric fault. Operands: request number, status of R51, data, poison of the sectors. -/
  | fabricResponse (req status data poison : Nat)
  /-- FABRIC_REQUEST_TIMEOUT (R51): A remote request gets no response within REQTO and completes with status TIMEOUT. -/
  | fabricRequestTimeout (req : Nat)
  /-- TREE_INSTALL (R54): A TREESET write naming a record with VALID = 1 makes the device read and check the record and node list and install the tree, or report a failure status in TREESTAT. Operands: function and the record address written to TREESET. -/
  | treeInstall (fn addr : Nat)
  /-- TREE_TEARDOWN_COMMAND (R54): A TREESET write naming a record with VALID = 0 tears down an owned tree and releases its id and quota, or reports that another function owns it. -/
  | treeTeardownCommand (fn addr : Nat)
  /-- REDUCTION_OPERAND (R57): An operand reaches a tree node; once every child's operand is present the node combines them in child order and sends the result up, and the root sends it down to every leaf. Operands: the operand of one child at one node. -/
  | reductionOperand (tree node child : Nat) (data : Nat) (poison flags : Nat)
  /-- REDUCTION_RESULT (R57): The root's result and flags reach a leaf, and that leaf's waiting FREDW completes. Operands: the result that reaches a leaf. -/
  | reductionResult (tree node data poison flags : Nat)
  /-- REDUCTION_TIMEOUT (R59): A node's timer passes TIMEOUT before it holds every child's operand, and the node sends teardown flits to its parent and children. -/
  | reductionTimeout (tree node : Nat)
  /-- TEARDOWN_FLIT (R59): A teardown flit reaches a node, which forwards it to its other neighbours; VALID of the tree clears and waiting FREDWs complete with TIMEOUT. Operands: tree, node, and the neighbour that sent it. -/
  | teardownFlit (tree node : Nat) (src : Nat := 0)
  /-- HOST_MEM_READ (R62): The host reads a line through CXL.mem, and the home enters the line in its snoop filter. -/
  | hostMemRead (addr : Nat) (cacheable : Bool)
  /-- HOST_MEM_WRITE (R66): The host writes a line through CXL.mem, and the write commits at the home in the line's order. Operands: device physical address, length in bytes, data. -/
  | hostMemWrite (addr len data : Nat)
  /-- BISNP_RESPONSE (R62): The host answers a back-invalidation, and the device-side write to the filtered line may then commit. -/
  | bisnpResponse (line : Nat)
  /-- LAUNCH_PUSH (R67): The push of a full-line write to a live window line reaches the scheduler, which copies the record, marks the line busy and checks, admits, queues or refuses the launch, or reports LINEBUSY. Operands: function, window line, the 512-bit record. -/
  | launchPush (fn line : Nat) (record : Nat)
  /-- GANG_COMPLETION (R69): A gang ends, and the scheduler writes its 32-byte completion record as a system-scope release, frees its line and sends MSI-X when IRQ = 1. -/
  | gangCompletion (gang : Nat)
  /-- MSIX_UNMASK (R71): A masked MSI-X vector with its pending bit set is unmasked, and its message is sent. -/
  | msixUnmask (fn vector : Nat)
  /-- VFCFG_WRITE (R64): The physical function writes VFCFGv, setting quotas, LWIN, LLEV and ENABLE; the scheduler installs, removes or moves the window subscriptions to match. Operands: virtual function, doubleword index 0 to 3, value. -/
  | vfcfgWrite (vf word val : Nat)
  /-- VF_RESET (R75): An FLR or a write of VFCFG.RESET starts a function-level reset: RESETTING is set, work is refused, harts stop, copies drain and the function's state is cleared in order. -/
  | vfReset (vf : Nat)
  /-- VF_RESET_COMPLETE (R75): The last step of a virtual-function reset is done: the physical function receives MSI-X vector 3 and RESETTING clears. -/
  | vfResetComplete (vf : Nat)
  /-- LAUNCHWIN_WRITE (R65): The physical function writes LAUNCHWIN.LWIN, and the scheduler moves its window subscriptions to the new window. -/
  | launchwinWrite (val : Nat)
  /-- LAUNCHSTAT_WRITE (R67): A write of 1 to any bit of LAUNCHSTAT.PARTIAL clears the field. -/
  | launchstatWrite (fn val : Nat)
  /-- GANG_RESET (R73): A write to GANGRESET stops every hart of the gang on the named line, drains its copies, removes its subscriptions and times out its tree rounds, or removes a queued gang. Operands: function and the value written to GANGRESET. -/
  | gangReset (fn val : Nat)
  /-- QOSCTX_WRITE (R77): A write to QOSCTXf,c stores BORROW, DEPTH and RATE under the clamps and the cap of 2,048 on the sum of guaranteed-class RATE. -/
  | qosctxWrite (fn cls val : Nat)
  /-- L2_PORT_SERVE (R76): An L2 slice port serves a waiting request that holds its tokens, in class order and then oldest first. -/
  | l2PortServe (port : Nat)
  /-- LENDER_ACTIVE (R78): A context whose bucket fed spill pool c gets a waiting request; pool c stops lending and is emptied, and its borrowed requests are served after the lender's. -/
  | lenderActive (port fn cls : Nat)
  /-- SPILL_POOL_RELEND (R78): The lender has had no waiting request for 1,024 mesh cycles, and pool c lends again. -/
  | spillPoolRelend (port cls : Nat)
  /-- XLINV_WRITE (R87): A write to XLINV starts the invalidation of cached translations over 2^LOG2N pages from VA, and BUSY is set. -/
  | xlinvWrite (fn val : Nat)
  /-- XLINV_COMPLETE (R87): No cached copy of a translation in the range remains and every request that used one has completed, so BUSY clears and the range's instruction-cache lines are removed. -/
  | xlinvComplete (fn : Nat)
  /-- FAULT_RECORD_WRITE (R92): A fault record that waited because the ring was full is written once EN is 1 and the ring has room, and TAIL advances as a release. -/
  | faultRecordWrite (fn : Nat)
  /-- FQCFG_WRITE (R91): A write to FQCFG stores BASE, LOG2SZ and EN; EN stores 0 when the frame is not owned, and ERR is then set. -/
  | fqcfgWrite (fn val : Nat)
  /-- FQPTR_WRITE (R91): A write to FQPTR.HEAD stores the value modulo the ring size, which frees room for waiting records. -/
  | fqptrWrite (fn val : Nat)
  /-- HRANGE_WRITE (R85): A write to HRANGEf,i stores the range, and stores EN = 0 when the enabled far-tier ranges would exceed FARQ. Operands: function, range, doubleword 0 or 1, value. -/
  | hrangeWrite (fn idx word val : Nat)
  /-- HEATCFG_WRITE (R100): A write to HEATCFG stores EN, stores H clamped to 4–16 and stores PHASE modulo 2^H. -/
  | heatcfgWrite (val : Nat)
  /-- SCHEDCFG_WRITE (R141): A write to SCHEDCFG stores PRWAIT (0 stores 1), GCLUST and GSLOTS; set bits stay set while a guaranteed gang is admitted. -/
  | schedcfgWrite (val : Nat)
  /-- SCHEDSTAT_WRITE (R141): A write of 1 to any bit of SCHEDSTAT.PREEMPT clears the field. -/
  | schedstatWrite (val : Nat)
  /-- GANG_PLACE (R149): The head of a class queue becomes placeable and is placed; its harts start at ENTRY with s3 = ARG and their scratchpad zeroed. -/
  | gangPlace (gang : Nat)
  /-- GANG_PREEMPT (R152): A high or normal head has waited PRWAIT, so it pre-empts lower-class gangs until it is placeable, saving all their harts. Operands: the gang at the head of its queue that has waited PRWAIT. -/
  | gangPreempt (gang : Nat)
  /-- ROW_RESTORE (R163): An eligible cluster with a free row context appears, and a suspended evicted row is restored onto it and resumes. -/
  | rowRestore (hart row : Nat)
  /-- BUDGET_EXHAUSTED (R148): A gang's cycle or byte totals, or a guaranteed hart's placed cycles Q, pass the budget, and the gang is stopped with STATUS BUDGET. -/
  | budgetExhausted (gang : Nat)
  /-- STARVATION_PROMOTE (R151): A row has had a ready block for 4,096 cycles without issuing, and it ranks ahead of every other row of its class. -/
  | starvationPromote (hart row : Nat)
  /-- ICACHE_FILL (R154): An instruction-cache fill completes and is delivered to every core of the die that holds a hart of the gang, which unfreezes the sequencer that missed. Operands: die, function and line virtual address. -/
  | icacheFill (die fn addr : Nat)
  /-- VLOOP_STRIP_DEAL (R162): A cluster of the grant finishes its strip, and the next strip is dealt to it with its VL and STRIP fixed, resumed strips first. -/
  | vloopStripDeal (hart row : Nat)
  /-- SAVECFG_WRITE (R228): A write to SAVECFG stores BASE, ROWS and LOG2N with their clamps, and is discarded while any gang of the function is placed or queued. -/
  | savecfgWrite (fn val : Nat)
  /-- AGATE_MERGE (R113): The combine unit merges the two oldest items of the lowest overfull level with the combiner, or discards at the top level, and updates the slot stamps. -/
  | agateMerge (fn handle : Nat)
  /-- KVPOOL_WRITE (R122): A write to KVPOOL stores its fields with clamps unless EN = 1; EN going from 0 to 1 sets BUSY and starts zeroing the metadata area. -/
  | kvpoolWrite (fn val : Nat)
  /-- KVMETA_WRITE (R122): A write to KVMETA stores BASE and stores LOG2SEQ clamped to 10–20, and is discarded while EN = 1. -/
  | kvmetaWrite (fn val : Nat)
  /-- KVPOOL_INIT_COMPLETE (R122): Garnet finishes zeroing the metadata area and marking every page free, and BUSY clears. -/
  | kvpoolInitComplete (fn : Nat)
  /-- TIMING_ERROR_REPLAY (R195): A timing error is detected in a matrix slice or lane unit; the operation is replayed and REPLAYS counts it, or in approximate mode a low-bit error is left in place and LEFT counts it. Operands: whether the error is left in place under approximate mode. -/
  | timingErrorReplay (left : Bool)
  /-- OSCNT_WRITE (R195): A write of 1 to OSCNT.LEFT or OSCNT.REPLAYS clears that field. -/
  | oscntWrite (val : Nat)
  /-- FRSTAT_WRITE (R384): A write of 1 to any bit of FRSTAT.STALECNT clears the field. -/
  | frstatWrite (fn val : Nat)
  /-- SUBSCRIPTION_PUSH (R358): A push for a committed write reaches its slot, or the saved image of the slot, and updates it in LATEST or QUEUE mode. -/
  | subscriptionPush
  /-- VSEND_ARRIVAL (R353): A sent element reaches the receiving hart's 256-entry arrival buffer. Operands: receiving hart and element, and from another device the flit's source device, partition and tag. -/
  | vsendArrival (fn core slot data : Nat) (poison : Bool) (src part tag : Nat := 0)
  /-- COPY_RETIRE (R351): Every write of a copy has been performed at system scope, or the copy ends on a failure; it retires with its token status word and releases its scoreboard entry and mask entry. -/
  | copyRetire (hart token : Nat)
  /-- FIFO_RESULT (R352): A marker or token-query result, or a Garnet status word, enters its output FIFO once the commands it waits for have completed. Operands: hart and input FIFO 0 to 3. -/
  | fifoResult (hart fifo : Nat)
  /-- REGISTER_WRITE (R63): A write to a BAR0 register that has no behaviour of its own stores its writable bits; unassigned offsets, and read-only copies in a virtual function, discard the write. Operands: function, BAR0 offset, value. -/
  | registerWrite (fn off val : Nat)
  /-- ROW_DISPATCH (R269): A row dispatches the oldest queued vector entry, making the dispatch checks and executing it on its elements. -/
  | rowDispatch (hart row : Nat)
  /-- ILLEGAL_INSTRUCTION (R268): The scalar unit decodes a word that no table assigns and raises the illegal-instruction trap with TVAL holding the word. -/
  | illegalInstruction (word : Nat)
  /-- POWER_REMOVAL (R13): Power is removed from the module, which clears THERMSTAT.TRIP and loses all state. -/
  | powerRemoval
  /-- DEVTIME_ADVANCE (R18): DEVTIME advances by 1 every 2 base cycles and wraps after 2^64 ns. -/
  | devtimeAdvance
  /-- BUCKET_ACCRUE (R78): Each token bucket accrues RATE tokens per 1,024 mesh cycles up to DEPTH, and the overflow goes to the class spill pool. -/
  | bucketAccrue (port : Nat)
  /-- LINK_TRAINED (R48): An Ngarok port finishes training, sets UP and begins carrying traffic on 8 or 4 lanes. -/
  | linkTrained (port lanes : Nat)
  /-- CXL_PORT_DOWN (R60): A CXL port goes down, and engines on its base die send CXL.cache traffic through the lowest-numbered port that is up. -/
  | cxlPortDown (port : Nat)
  /-- CXL_PORT_UP (R60): A CXL port trains and comes up, and CXL.cache traffic of its base die returns to it. Operands: the port, and whether its link trains to CXL.io only (R61). -/
  | cxlPortUp (port : Nat) (ioOnly : Bool := false)
  /-- CXL_CACHE_RESPONSE (R212): The host answers a CXL.cache read or acknowledges a device write to far-tier or host memory. -/
  | cxlCacheResponse (req data poison : Nat)
deriving DecidableEq, Repr

end Sys2Proof
end

