-- ==== Sys2Proof/WellFormed.lean ====
section
/-! DEFINITION. Well-formed words: every field within its bits, and the checks of decode that depend on the word alone (R253 to R269). -/

namespace Sys2Proof

/-- The control-register numbers R170 lists. -/
def csrListed (n : Nat) : Bool := decide (n ≤ 0x012) || (decide (0x100 ≤ n) && decide (n ≤ 0x106))

/-- The control registers that R170 marks read-only: vl, vlmax, vtype, tl, strip, vloopn and vdead. -/
def csrReadOnly (n : Nat) : Bool := [0x000, 0x001, 0x002, 0x004, 0x006, 0x007, 0x00D].contains n

/-- The control registers a write form may name. -/
def csrWritable (n : Nat) : Bool := csrListed n && !csrReadOnly n

/-- Is this step a word of the instruction set (rather than an event)? -/
def Instr.isWord : Instr → Bool
  | .powerOn => false
  | .bringupStage _ => false
  | .deviceReset => false
  | .thermalWarning _ => false
  | .thermalCap _ => false
  | .thermalCapClear _ => false
  | .thermalTrip _ => false
  | .peakCurrentGuard _ => false
  | .lanesDecrease _ => false
  | .lanesIncrease _ => false
  | .pwrctlWrite _ => false
  | .pwrstatWrite _ => false
  | .thermstatWrite _ => false
  | .memoryRequest _ _ _ _ _ _ _ => false
  | .lineWriteback _ => false
  | .memerrWrite _ => false
  | .rowRepair _ _ _ _ => false
  | .spareCopyComplete _ => false
  | .machineCheck _ _ _ => false
  | .surftabWrite _ _ => false
  | .surfflushWrite _ _ => false
  | .surfflushComplete _ => false
  | .decompressRetry _ => false
  | .fabcfgWrite _ => false
  | .fabpartWrite _ _ => false
  | .fabpstatWrite _ _ => false
  | .flitReceive _ _ => false
  | .frameReplay _ _ => false
  | .portRetrain _ _ => false
  | .portDownTimeout _ => false
  | .remoteRequest _ _ _ _ _ _ _ _ _ _ => false
  | .fabricResponse _ _ _ _ => false
  | .fabricRequestTimeout _ => false
  | .treeInstall _ _ => false
  | .treeTeardownCommand _ _ => false
  | .reductionOperand _ _ _ _ _ _ => false
  | .reductionResult _ _ _ _ _ => false
  | .reductionTimeout _ _ => false
  | .teardownFlit _ _ _ => false
  | .hostMemRead _ _ => false
  | .hostMemWrite _ _ _ => false
  | .bisnpResponse _ => false
  | .launchPush _ _ _ => false
  | .gangCompletion _ => false
  | .msixUnmask _ _ => false
  | .vfcfgWrite _ _ _ => false
  | .vfReset _ => false
  | .vfResetComplete _ => false
  | .launchwinWrite _ => false
  | .launchstatWrite _ _ => false
  | .gangReset _ _ => false
  | .qosctxWrite _ _ _ => false
  | .l2PortServe _ => false
  | .lenderActive _ _ _ => false
  | .spillPoolRelend _ _ => false
  | .xlinvWrite _ _ => false
  | .xlinvComplete _ => false
  | .faultRecordWrite _ => false
  | .fqcfgWrite _ _ => false
  | .fqptrWrite _ _ => false
  | .hrangeWrite _ _ _ _ => false
  | .heatcfgWrite _ => false
  | .schedcfgWrite _ => false
  | .schedstatWrite _ => false
  | .gangPlace _ => false
  | .gangPreempt _ => false
  | .rowRestore _ _ => false
  | .budgetExhausted _ => false
  | .starvationPromote _ _ => false
  | .icacheFill _ _ _ => false
  | .vloopStripDeal _ _ => false
  | .savecfgWrite _ _ => false
  | .agateMerge _ _ => false
  | .kvpoolWrite _ _ => false
  | .kvmetaWrite _ _ => false
  | .kvpoolInitComplete _ => false
  | .timingErrorReplay _ => false
  | .oscntWrite _ => false
  | .frstatWrite _ _ => false
  | .subscriptionPush => false
  | .vsendArrival _ _ _ _ _ _ _ _ => false
  | .copyRetire _ _ => false
  | .fifoResult _ _ => false
  | .registerWrite _ _ _ => false
  | .rowDispatch _ _ => false
  | .illegalInstruction _ => false
  | .powerRemoval => false
  | .devtimeAdvance => false
  | .bucketAccrue _ => false
  | .linkTrained _ _ => false
  | .cxlPortDown _ => false
  | .cxlPortUp _ _ => false
  | .cxlCacheResponse _ _ _ => false
  | _ => true

/-- Every field within its width and every check of decode passed; an event has no encoding and is well formed. -/
def Instr.wf : Instr → Bool
  | .ldBHW d a w => decide (d < 32) && decide (a < 32) && decide (w < 4) && decide (w ≤ 2)
  | .ldAcq d a s w => decide (d < 32) && decide (a < 32) && decide (s < 8) && decide (w < 4) && decide (s ≤ 6)
  | .ldBuHuWu d a w => decide (d < 32) && decide (a < 32) && decide (w < 4) && decide (w ≤ 2)
  | .stBHW a b w => decide (a < 32) && decide (b < 32) && decide (w < 4) && decide (w ≤ 2)
  | .stRel a b s w => decide (a < 32) && decide (b < 32) && decide (s < 8) && decide (w < 4) && decide (s ≤ 6)
  | .amoswap d a b s w o => decide (d < 32) && decide (a < 32) && decide (b < 32) && decide (s < 8) && decide (w < 4) && decide (o < 4) && decide (2 ≤ w) && decide (s ≤ 6)
  | .amoadd d a b s w o => decide (d < 32) && decide (a < 32) && decide (b < 32) && decide (s < 8) && decide (w < 4) && decide (o < 4) && decide (2 ≤ w) && decide (s ≤ 6)
  | .amoand d a b s w o => decide (d < 32) && decide (a < 32) && decide (b < 32) && decide (s < 8) && decide (w < 4) && decide (o < 4) && decide (2 ≤ w) && decide (s ≤ 6)
  | .amoor d a b s w o => decide (d < 32) && decide (a < 32) && decide (b < 32) && decide (s < 8) && decide (w < 4) && decide (o < 4) && decide (2 ≤ w) && decide (s ≤ 6)
  | .amoxor d a b s w o => decide (d < 32) && decide (a < 32) && decide (b < 32) && decide (s < 8) && decide (w < 4) && decide (o < 4) && decide (2 ≤ w) && decide (s ≤ 6)
  | .amomin d a b s w o => decide (d < 32) && decide (a < 32) && decide (b < 32) && decide (s < 8) && decide (w < 4) && decide (o < 4) && decide (2 ≤ w) && decide (s ≤ 6)
  | .amomax d a b s w o => decide (d < 32) && decide (a < 32) && decide (b < 32) && decide (s < 8) && decide (w < 4) && decide (o < 4) && decide (2 ≤ w) && decide (s ≤ 6)
  | .amominu d a b s w o => decide (d < 32) && decide (a < 32) && decide (b < 32) && decide (s < 8) && decide (w < 4) && decide (o < 4) && decide (2 ≤ w) && decide (s ≤ 6)
  | .amomaxu d a b s w o => decide (d < 32) && decide (a < 32) && decide (b < 32) && decide (s < 8) && decide (w < 4) && decide (o < 4) && decide (2 ≤ w) && decide (s ≤ 6)
  | .cas d a b s w o => decide (d < 32) && decide (a < 32) && decide (b < 32) && decide (s < 8) && decide (w < 4) && decide (o < 4) && decide (2 ≤ w) && decide (s ≤ 6)
  | .vsetl d a v => decide (d < 32) && decide (a < 32) && decide (v < 64) && decide (v % 8 ≤ 3) && decide (v / 8 ≤ 3)
  | .vloop a => decide (a < 32)
  | .vnext => true
  | .vsettl d a => decide (d < 32) && decide (a < 32)
  | .vsetmt m => decide (m < 4)
  | .vdead a => decide (a < 32)
  | .icpf a i => decide (a < 32) && decide (i < 65536)
  | .cwait k => decide (k < 256)
  | .vaddI d a b f m => decide (d < 32) && decide (a < 32) && decide (b < 32) && decide (f < 32) && decide (m < 8)
  | .vsubI d a b f m => decide (d < 32) && decide (a < 32) && decide (b < 32) && decide (f < 32) && decide (m < 8)
  | .vmulI d a b f m => decide (d < 32) && decide (a < 32) && decide (b < 32) && decide (f < 32) && decide (m < 8)
  | .vmulhI d a b f m => decide (d < 32) && decide (a < 32) && decide (b < 32) && decide (f < 32) && decide (m < 8)
  | .vminI d a b f m => decide (d < 32) && decide (a < 32) && decide (b < 32) && decide (f < 32) && decide (m < 8)
  | .vmaxI d a b f m => decide (d < 32) && decide (a < 32) && decide (b < 32) && decide (f < 32) && decide (m < 8)
  | .vmaccI d a b f m => decide (d < 32) && decide (a < 32) && decide (b < 32) && decide (f < 32) && decide (m < 8)
  | .vdivI d a b f m => decide (d < 32) && decide (a < 32) && decide (b < 32) && decide (f < 32) && decide (m < 8)
  | .vaddIS d a b f m => decide (d < 32) && decide (a < 32) && decide (b < 32) && decide (f < 32) && decide (m < 8)
  | .vsubIS d a b f m => decide (d < 32) && decide (a < 32) && decide (b < 32) && decide (f < 32) && decide (m < 8)
  | .vmulIS d a b f m => decide (d < 32) && decide (a < 32) && decide (b < 32) && decide (f < 32) && decide (m < 8)
  | .vmulhIS d a b f m => decide (d < 32) && decide (a < 32) && decide (b < 32) && decide (f < 32) && decide (m < 8)
  | .vminIS d a b f m => decide (d < 32) && decide (a < 32) && decide (b < 32) && decide (f < 32) && decide (m < 8)
  | .vmaxIS d a b f m => decide (d < 32) && decide (a < 32) && decide (b < 32) && decide (f < 32) && decide (m < 8)
  | .vmaccIS d a b f m => decide (d < 32) && decide (a < 32) && decide (b < 32) && decide (f < 32) && decide (m < 8)
  | .vdivIS d a b f m => decide (d < 32) && decide (a < 32) && decide (b < 32) && decide (f < 32) && decide (m < 8)
  | .vaddF d a b f m => decide (d < 32) && decide (a < 32) && decide (b < 32) && decide (f < 32) && decide (m < 8)
  | .vsubF d a b f m => decide (d < 32) && decide (a < 32) && decide (b < 32) && decide (f < 32) && decide (m < 8)
  | .vmulF d a b f m => decide (d < 32) && decide (a < 32) && decide (b < 32) && decide (f < 32) && decide (m < 8)
  | .vdivF d a b f m => decide (d < 32) && decide (a < 32) && decide (b < 32) && decide (f < 32) && decide (m < 8)
  | .vminF d a b f m => decide (d < 32) && decide (a < 32) && decide (b < 32) && decide (f < 32) && decide (m < 8)
  | .vmaxF d a b f m => decide (d < 32) && decide (a < 32) && decide (b < 32) && decide (f < 32) && decide (m < 8)
  | .vfmaF d a b f m => decide (d < 32) && decide (a < 32) && decide (b < 32) && decide (f < 32) && decide (m < 8)
  | .vsqrtF d a f m => decide (d < 32) && decide (a < 32) && decide (f < 32) && decide (m < 8)
  | .vaddFS d a b f m => decide (d < 32) && decide (a < 32) && decide (b < 32) && decide (f < 32) && decide (m < 8)
  | .vsubFS d a b f m => decide (d < 32) && decide (a < 32) && decide (b < 32) && decide (f < 32) && decide (m < 8)
  | .vmulFS d a b f m => decide (d < 32) && decide (a < 32) && decide (b < 32) && decide (f < 32) && decide (m < 8)
  | .vdivFS d a b f m => decide (d < 32) && decide (a < 32) && decide (b < 32) && decide (f < 32) && decide (m < 8)
  | .vminFS d a b f m => decide (d < 32) && decide (a < 32) && decide (b < 32) && decide (f < 32) && decide (m < 8)
  | .vmaxFS d a b f m => decide (d < 32) && decide (a < 32) && decide (b < 32) && decide (f < 32) && decide (m < 8)
  | .vfmaFS d a b f m => decide (d < 32) && decide (a < 32) && decide (b < 32) && decide (f < 32) && decide (m < 8)
  | .vand d a b m => decide (d < 32) && decide (a < 32) && decide (b < 32) && decide (m < 8)
  | .vor d a b m => decide (d < 32) && decide (a < 32) && decide (b < 32) && decide (m < 8)
  | .vxor d a b m => decide (d < 32) && decide (a < 32) && decide (b < 32) && decide (m < 8)
  | .vnot d a m => decide (d < 32) && decide (a < 32) && decide (m < 8)
  | .vsll d a b m => decide (d < 32) && decide (a < 32) && decide (b < 32) && decide (m < 8)
  | .vsrl d a b m => decide (d < 32) && decide (a < 32) && decide (b < 32) && decide (m < 8)
  | .vsra d a b m => decide (d < 32) && decide (a < 32) && decide (b < 32) && decide (m < 8)
  | .vandS d a b m => decide (d < 32) && decide (a < 32) && decide (b < 32) && decide (m < 8)
  | .vorS d a b m => decide (d < 32) && decide (a < 32) && decide (b < 32) && decide (m < 8)
  | .vxorS d a b m => decide (d < 32) && decide (a < 32) && decide (b < 32) && decide (m < 8)
  | .vsllS d a b m => decide (d < 32) && decide (a < 32) && decide (b < 32) && decide (m < 8)
  | .vsrlS d a b m => decide (d < 32) && decide (a < 32) && decide (b < 32) && decide (m < 8)
  | .vsraS d a b m => decide (d < 32) && decide (a < 32) && decide (b < 32) && decide (m < 8)
  | .vcmpeq d a b f m => decide (d < 32) && decide (a < 32) && decide (b < 32) && decide (f < 32) && decide (m < 8) && decide (1 ≤ d) && decide (d ≤ 7)
  | .vcmpne d a b f m => decide (d < 32) && decide (a < 32) && decide (b < 32) && decide (f < 32) && decide (m < 8) && decide (1 ≤ d) && decide (d ≤ 7)
  | .vcmplt d a b f m => decide (d < 32) && decide (a < 32) && decide (b < 32) && decide (f < 32) && decide (m < 8) && decide (1 ≤ d) && decide (d ≤ 7)
  | .vcmple d a b f m => decide (d < 32) && decide (a < 32) && decide (b < 32) && decide (f < 32) && decide (m < 8) && decide (1 ≤ d) && decide (d ≤ 7)
  | .vcmpgt d a b f m => decide (d < 32) && decide (a < 32) && decide (b < 32) && decide (f < 32) && decide (m < 8) && decide (1 ≤ d) && decide (d ≤ 7)
  | .vcmpge d a b f m => decide (d < 32) && decide (a < 32) && decide (b < 32) && decide (f < 32) && decide (m < 8) && decide (1 ≤ d) && decide (d ≤ 7)
  | .vcmpun d a b f m => decide (d < 32) && decide (a < 32) && decide (b < 32) && decide (f < 32) && decide (m < 8) && decide (1 ≤ d) && decide (d ≤ 7)
  | .vcmpeqS d a b f m => decide (d < 32) && decide (a < 32) && decide (b < 32) && decide (f < 32) && decide (m < 8) && decide (1 ≤ d) && decide (d ≤ 7)
  | .vcmpneS d a b f m => decide (d < 32) && decide (a < 32) && decide (b < 32) && decide (f < 32) && decide (m < 8) && decide (1 ≤ d) && decide (d ≤ 7)
  | .vcmpltS d a b f m => decide (d < 32) && decide (a < 32) && decide (b < 32) && decide (f < 32) && decide (m < 8) && decide (1 ≤ d) && decide (d ≤ 7)
  | .vcmpleS d a b f m => decide (d < 32) && decide (a < 32) && decide (b < 32) && decide (f < 32) && decide (m < 8) && decide (1 ≤ d) && decide (d ≤ 7)
  | .vcmpgtS d a b f m => decide (d < 32) && decide (a < 32) && decide (b < 32) && decide (f < 32) && decide (m < 8) && decide (1 ≤ d) && decide (d ≤ 7)
  | .vcmpgeS d a b f m => decide (d < 32) && decide (a < 32) && decide (b < 32) && decide (f < 32) && decide (m < 8) && decide (1 ≤ d) && decide (d ≤ 7)
  | .vcmpunS d a b f m => decide (d < 32) && decide (a < 32) && decide (b < 32) && decide (f < 32) && decide (m < 8) && decide (1 ≤ d) && decide (d ≤ 7)
  | .mand d a b => decide (d < 32) && decide (a < 32) && decide (b < 32) && decide (1 ≤ d) && decide (d ≤ 7) && decide (a ≤ 7) && decide (b ≤ 7)
  | .mor d a b => decide (d < 32) && decide (a < 32) && decide (b < 32) && decide (1 ≤ d) && decide (d ≤ 7) && decide (a ≤ 7) && decide (b ≤ 7)
  | .mxor d a b => decide (d < 32) && decide (a < 32) && decide (b < 32) && decide (1 ≤ d) && decide (d ≤ 7) && decide (a ≤ 7) && decide (b ≤ 7)
  | .mandn d a b => decide (d < 32) && decide (a < 32) && decide (b < 32) && decide (1 ≤ d) && decide (d ≤ 7) && decide (a ≤ 7) && decide (b ≤ 7)
  | .mnot d a => decide (d < 32) && decide (a < 32) && decide (1 ≤ d) && decide (d ≤ 7) && decide (a ≤ 7)
  | .mpopc d a => decide (d < 32) && decide (a < 32) && decide (a ≤ 7)
  | .mfirst d a => decide (d < 32) && decide (a < 32) && decide (a ≤ 7)
  | .vmerge d a b m => decide (d < 32) && decide (a < 32) && decide (b < 32) && decide (m < 8) && decide (1 ≤ m)
  | .vmv d a m => decide (d < 32) && decide (a < 32) && decide (m < 8)
  | .vbcast d b m => decide (d < 32) && decide (b < 32) && decide (m < 8)
  | .vext d a b => decide (d < 32) && decide (a < 32) && decide (b < 32)
  | .vcvt d a f m => decide (d < 32) && decide (a < 32) && decide (f < 32) && decide (m < 8)
  | .vclass d a f m => decide (d < 32) && decide (a < 32) && decide (f < 32) && decide (m < 8)
  | .vrecpe d a f m => decide (d < 32) && decide (a < 32) && decide (f < 32) && decide (m < 8)
  | .vexp2e d a f m => decide (d < 32) && decide (a < 32) && decide (f < 32) && decide (m < 8)
  | .vsadd d a b f m => decide (d < 32) && decide (a < 32) && decide (b < 32) && decide (f < 32) && decide (m < 8)
  | .vssub d a b f m => decide (d < 32) && decide (a < 32) && decide (b < 32) && decide (f < 32) && decide (m < 8)
  | .vsmul d a b f m => decide (d < 32) && decide (a < 32) && decide (b < 32) && decide (f < 32) && decide (m < 8)
  | .vsmacc d a b f m => decide (d < 32) && decide (a < 32) && decide (b < 32) && decide (f < 32) && decide (m < 8)
  | .vssra d a b f m => decide (d < 32) && decide (a < 32) && decide (b < 32) && decide (f < 32) && decide (m < 8)
  | .vssrl d a b f m => decide (d < 32) && decide (a < 32) && decide (b < 32) && decide (f < 32) && decide (m < 8)
  | .vnclip d a b f m => decide (d < 32) && decide (a < 32) && decide (b < 32) && decide (f < 32) && decide (m < 8)
  | .vavg d a b f m => decide (d < 32) && decide (a < 32) && decide (b < 32) && decide (f < 32) && decide (m < 8)
  | .vsaddS d a b f m => decide (d < 32) && decide (a < 32) && decide (b < 32) && decide (f < 32) && decide (m < 8)
  | .vssubS d a b f m => decide (d < 32) && decide (a < 32) && decide (b < 32) && decide (f < 32) && decide (m < 8)
  | .vsmulS d a b f m => decide (d < 32) && decide (a < 32) && decide (b < 32) && decide (f < 32) && decide (m < 8)
  | .vsmaccS d a b f m => decide (d < 32) && decide (a < 32) && decide (b < 32) && decide (f < 32) && decide (m < 8)
  | .vssraS d a b f m => decide (d < 32) && decide (a < 32) && decide (b < 32) && decide (f < 32) && decide (m < 8)
  | .vssrlS d a b f m => decide (d < 32) && decide (a < 32) && decide (b < 32) && decide (f < 32) && decide (m < 8)
  | .vnclipS d a b f m => decide (d < 32) && decide (a < 32) && decide (b < 32) && decide (f < 32) && decide (m < 8)
  | .vavgS d a b f m => decide (d < 32) && decide (a < 32) && decide (b < 32) && decide (f < 32) && decide (m < 8)
  | .vredsumO d a b f m => decide (d < 32) && decide (a < 32) && decide (b < 32) && decide (f < 32) && decide (m < 8)
  | .vredsumU d a b f m => decide (d < 32) && decide (a < 32) && decide (b < 32) && decide (f < 32) && decide (m < 8)
  | .vredmin d a b f m => decide (d < 32) && decide (a < 32) && decide (b < 32) && decide (f < 32) && decide (m < 8)
  | .vredmax d a b f m => decide (d < 32) && decide (a < 32) && decide (b < 32) && decide (f < 32) && decide (m < 8)
  | .vredand d a b f m => decide (d < 32) && decide (a < 32) && decide (b < 32) && decide (f < 32) && decide (m < 8)
  | .vredor d a b f m => decide (d < 32) && decide (a < 32) && decide (b < 32) && decide (f < 32) && decide (m < 8)
  | .vredxor d a b f m => decide (d < 32) && decide (a < 32) && decide (b < 32) && decide (f < 32) && decide (m < 8)
  | .vscanO d a f m => decide (d < 32) && decide (a < 32) && decide (f < 32) && decide (m < 8)
  | .vscanFast d a f m => decide (d < 32) && decide (a < 32) && decide (f < 32) && decide (m < 8)
  | .viota d a m => decide (d < 32) && decide (a < 32) && decide (m < 8) && decide (a ≤ 7)
  | .vid d m => decide (d < 32) && decide (m < 8)
  | .rnggen d a b m => decide (d < 32) && decide (a < 32) && decide (b < 32) && decide (m < 8)
  | .vcompress d a m => decide (d < 32) && decide (a < 32) && decide (m < 8) && decide (1 ≤ m)
  | .vexpand d a m => decide (d < 32) && decide (a < 32) && decide (m < 8) && decide (1 ≤ m)
  | .vslideup d a b m => decide (d < 32) && decide (a < 32) && decide (b < 32) && decide (m < 8)
  | .vslidedn d a b m => decide (d < 32) && decide (a < 32) && decide (b < 32) && decide (m < 8)
  | .vslide1up d a b m => decide (d < 32) && decide (a < 32) && decide (b < 32) && decide (m < 8)
  | .vslide1dn d a b m => decide (d < 32) && decide (a < 32) && decide (b < 32) && decide (m < 8)
  | .vperm d a b m => decide (d < 32) && decide (a < 32) && decide (b < 32) && decide (m < 8)
  | .xchg d a b => decide (d < 32) && decide (a < 32) && decide (b < 32)
  | .vld d a s m e => decide (d < 32) && decide (a < 32) && decide (s < 8) && decide (m < 8) && decide (e < 8) && decide (e ≤ 4) && (decide (e ≠ 4) || decide (s = 0))
  | .vldu d a s m e => decide (d < 32) && decide (a < 32) && decide (s < 8) && decide (m < 8) && decide (e < 8) && decide (e ≤ 4) && (decide (e ≠ 4) || decide (s = 0))
  | .vldf d a s m e => decide (d < 32) && decide (a < 32) && decide (s < 8) && decide (m < 8) && decide (e < 8) && decide (e ≤ 4) && (decide (e ≠ 4) || decide (s = 0))
  | .vst d a s m e => decide (d < 32) && decide (a < 32) && decide (s < 8) && decide (m < 8) && decide (e < 8) && decide (e ≤ 4) && (decide (e ≠ 4) || decide (s = 0))
  | .vstu d a s m e => decide (d < 32) && decide (a < 32) && decide (s < 8) && decide (m < 8) && decide (e < 8) && decide (e ≤ 4) && (decide (e ≠ 4) || decide (s = 0))
  | .vlds d a b s m e => decide (d < 32) && decide (a < 32) && decide (b < 32) && decide (s < 8) && decide (m < 8) && decide (e < 8) && decide (e ≤ 3)
  | .vldsu d a b s m e => decide (d < 32) && decide (a < 32) && decide (b < 32) && decide (s < 8) && decide (m < 8) && decide (e < 8) && decide (e ≤ 3)
  | .vldsf d a b s m e => decide (d < 32) && decide (a < 32) && decide (b < 32) && decide (s < 8) && decide (m < 8) && decide (e < 8) && decide (e ≤ 3)
  | .vsts d a b s m e => decide (d < 32) && decide (a < 32) && decide (b < 32) && decide (s < 8) && decide (m < 8) && decide (e < 8) && decide (e ≤ 3)
  | .vstsu d a b s m e => decide (d < 32) && decide (a < 32) && decide (b < 32) && decide (s < 8) && decide (m < 8) && decide (e < 8) && decide (e ≤ 3)
  | .vldx d a b m e => decide (d < 32) && decide (a < 32) && decide (b < 32) && decide (m < 8) && decide (e < 8) && decide (e ≤ 3)
  | .vldxu d a b m e => decide (d < 32) && decide (a < 32) && decide (b < 32) && decide (m < 8) && decide (e < 8) && decide (e ≤ 3)
  | .vstx d a b m e => decide (d < 32) && decide (a < 32) && decide (b < 32) && decide (m < 8) && decide (e < 8) && decide (e ≤ 3)
  | .vstxu d a b m e => decide (d < 32) && decide (a < 32) && decide (b < 32) && decide (m < 8) && decide (e < 8) && decide (e ≤ 3)
  | .vamoaddI d a b m e => decide (d < 32) && decide (a < 32) && decide (b < 32) && decide (m < 8) && decide (e < 8) && decide (2 ≤ e) && decide (e ≤ 3)
  | .vamoadduI d a b m e => decide (d < 32) && decide (a < 32) && decide (b < 32) && decide (m < 8) && decide (e < 8) && decide (2 ≤ e) && decide (e ≤ 3)
  | .vamoaddF d a b m e => decide (d < 32) && decide (a < 32) && decide (b < 32) && decide (m < 8) && decide (e < 8) && decide (1 ≤ e) && decide (e ≤ 2)
  | .vamoadduF d a b m e => decide (d < 32) && decide (a < 32) && decide (b < 32) && decide (m < 8) && decide (e < 8) && decide (1 ≤ e) && decide (e ≤ 2)
  | .vamoswap d a b m e => decide (d < 32) && decide (a < 32) && decide (b < 32) && decide (m < 8) && decide (e < 8) && decide (2 ≤ e) && decide (e ≤ 3)
  | .vamoswapu d a b m e => decide (d < 32) && decide (a < 32) && decide (b < 32) && decide (m < 8) && decide (e < 8) && decide (2 ≤ e) && decide (e ≤ 3)
  | .vamomin d a b m e => decide (d < 32) && decide (a < 32) && decide (b < 32) && decide (m < 8) && decide (e < 8) && decide (2 ≤ e) && decide (e ≤ 3)
  | .vamominu d a b m e => decide (d < 32) && decide (a < 32) && decide (b < 32) && decide (m < 8) && decide (e < 8) && decide (2 ≤ e) && decide (e ≤ 3)
  | .vamomax d a b m e => decide (d < 32) && decide (a < 32) && decide (b < 32) && decide (m < 8) && decide (e < 8) && decide (2 ≤ e) && decide (e ≤ 3)
  | .vamomaxu d a b m e => decide (d < 32) && decide (a < 32) && decide (b < 32) && decide (m < 8) && decide (e < 8) && decide (2 ≤ e) && decide (e ≤ 3)
  | .vamoand d a b m e => decide (d < 32) && decide (a < 32) && decide (b < 32) && decide (m < 8) && decide (e < 8) && decide (2 ≤ e) && decide (e ≤ 3)
  | .vamoandu d a b m e => decide (d < 32) && decide (a < 32) && decide (b < 32) && decide (m < 8) && decide (e < 8) && decide (2 ≤ e) && decide (e ≤ 3)
  | .vamoor d a b m e => decide (d < 32) && decide (a < 32) && decide (b < 32) && decide (m < 8) && decide (e < 8) && decide (2 ≤ e) && decide (e ≤ 3)
  | .vamooru d a b m e => decide (d < 32) && decide (a < 32) && decide (b < 32) && decide (m < 8) && decide (e < 8) && decide (2 ≤ e) && decide (e ≤ 3)
  | .vamoxor d a b m e => decide (d < 32) && decide (a < 32) && decide (b < 32) && decide (m < 8) && decide (e < 8) && decide (2 ≤ e) && decide (e ≤ 3)
  | .vamoxoru d a b m e => decide (d < 32) && decide (a < 32) && decide (b < 32) && decide (m < 8) && decide (e < 8) && decide (2 ≤ e) && decide (e ≤ 3)
  | .mrow d a n f => decide (d < 32) && decide (a < 32) && decide (n < 2) && decide (f < 32)
  | .mrowm d a n f => decide (d < 32) && decide (a < 32) && decide (n < 2) && decide (f < 32)
  | .mrowx d a n f => decide (d < 32) && decide (a < 32) && decide (n < 2) && decide (f < 32)
  | .mxrd d a f => decide (d < 32) && decide (a < 32) && decide (f < 32)
  | .mxclr a => decide (a < 32)
  | .mtload n a b f => decide (n < 2) && decide (a < 32) && decide (b < 32) && decide (f < 32)
  | .cbload a => decide (a < 32)
  | .copy a b c k => decide (a < 32) && decide (b < 32) && decide (c < 32) && decide (k < 8) && decide (c % 4 = 0) && decide (4 ≤ c) && decide (c ≤ 28)
  | .copyrO a b c k => decide (a < 32) && decide (b < 32) && decide (c < 32) && decide (k < 8) && decide (c % 4 = 0) && decide (4 ≤ c) && decide (c ≤ 28)
  | .copyrU a b c k => decide (a < 32) && decide (b < 32) && decide (c < 32) && decide (k < 8) && decide (c % 4 = 0) && decide (4 ≤ c) && decide (c ≤ 28)
  | .copyZ a b c k => decide (a < 32) && decide (b < 32) && decide (c < 32) && decide (k < 8) && decide (c % 4 = 0) && decide (4 ≤ c) && decide (c ≤ 28)
  | .copyMig a b c k => decide (a < 32) && decide (b < 32) && decide (c < 32) && decide (k < 8) && decide (c % 4 = 0) && decide (4 ≤ c) && decide (c ≤ 28)
  | .pushq a b => decide (a < 32) && decide (b < 32) && decide (a ≤ 3)
  | .popq d b => decide (d < 32) && decide (b < 32) && decide (4 ≤ b) && decide (b ≤ 7)
  | .vsend a b m => decide (a < 32) && decide (b < 32) && decide (m < 8)
  | .vrecv a b => decide (a < 32) && decide (b < 32)
  | .fred a b c => decide (a < 32) && decide (b < 32) && decide (c < 32)
  | .fredw a b c => decide (a < 32) && decide (b < 32) && decide (c < 32)
  | .ldstandLatest a b c => decide (a < 32) && decide (b < 32) && decide (c < 32)
  | .ldstandQueue a b c => decide (a < 32) && decide (b < 32) && decide (c < 32)
  | .slotrd a b c => decide (a < 32) && decide (b < 32) && decide (c < 32)
  | .unsub a b => decide (a < 32) && decide (b < 32)
  | .stepinv s => decide (s < 8) && decide (4 ≤ s) && decide (s ≤ 6)
  | .smax a b => decide (a < 32) && decide (b < 32)
  | .skth a b c => decide (a < 32) && decide (b < 32) && decide (c < 32)
  | .swgt a b c => decide (a < 32) && decide (b < 32) && decide (c < 32)
  | .stopp a b c => decide (a < 32) && decide (b < 32) && decide (c < 32)
  | .sdraw a b c => decide (a < 32) && decide (b < 32) && decide (c < 32)
  | .sdrawHw a b c => decide (a < 32) && decide (b < 32) && decide (c < 32)
  | .pbind a b => decide (a < 32) && decide (b < 32)
  | .papp a b c => decide (a < 32) && decide (b < 32) && decide (c < 32)
  | .pld a b c => decide (a < 32) && decide (b < 32) && decide (c < 32)
  | .psync b => decide (b < 32)
  | .pstat a b => decide (a < 32) && decide (b < 32)
  | .pfree b => decide (b < 32)
  | .kvmap a b c => decide (a < 32) && decide (b < 32) && decide (c < 32)
  | .kvld a b c => decide (a < 32) && decide (b < 32) && decide (c < 32)
  | .kvldB a b => decide (a < 32) && decide (b < 32)
  | .kvapp a b c => decide (a < 32) && decide (b < 32) && decide (c < 32)
  | .kvfork b c => decide (b < 32) && decide (c < 32)
  | .kvrel b => decide (b < 32)
  | .kvcow b c => decide (b < 32) && decide (c < 32)
  | .kvforkM b c => decide (b < 32) && decide (c < 32)
  | .fenceSv s => decide (s < 8) && decide (s ≤ 6)
  | .fenceVs s => decide (s < 8) && decide (s ≤ 6)
  | .fenceSvb s => decide (s < 8) && decide (s ≤ 6)
  | .fenceRel s => decide (s < 8) && decide (s ≤ 6)
  | .fenceAcq s => decide (s < 8) && decide (s ≤ 6)
  | .fenceRow s => decide (s < 8) && decide (s ≤ 6)
  | .vbar s => decide (s < 8) && decide (s ≤ 6)
  | .gbar s => decide (s < 8) && decide (1 ≤ s) && decide (s ≤ 6)
  | .addi d a i => decide (d < 32) && decide (a < 32) && decide (i < 65536)
  | .ori d a i => decide (d < 32) && decide (a < 32) && decide (i < 65536)
  | .lui d i => decide (d < 32) && decide (i < 65536)
  | .j o => decide (o < 67108864)
  | .jal o => decide (o < 67108864)
  | .stD d a i => decide (d < 32) && decide (a < 32) && decide (i < 65536)
  | .ldD d a i => decide (d < 32) && decide (a < 32) && decide (i < 65536)
  | .beq a b o => decide (a < 32) && decide (b < 32) && decide (o < 65536)
  | .bne a b o => decide (a < 32) && decide (b < 32) && decide (o < 65536)
  | .blt a b o => decide (a < 32) && decide (b < 32) && decide (o < 65536)
  | .bge a b o => decide (a < 32) && decide (b < 32) && decide (o < 65536)
  | .bltu a b o => decide (a < 32) && decide (b < 32) && decide (o < 65536)
  | .bgeu a b o => decide (a < 32) && decide (b < 32) && decide (o < 65536)
  | .add d a b => decide (d < 32) && decide (a < 32) && decide (b < 32)
  | .sub d a b => decide (d < 32) && decide (a < 32) && decide (b < 32)
  | .and d a b => decide (d < 32) && decide (a < 32) && decide (b < 32)
  | .or d a b => decide (d < 32) && decide (a < 32) && decide (b < 32)
  | .xor d a b => decide (d < 32) && decide (a < 32) && decide (b < 32)
  | .sll d a b => decide (d < 32) && decide (a < 32) && decide (b < 32)
  | .srl d a b => decide (d < 32) && decide (a < 32) && decide (b < 32)
  | .sra d a b => decide (d < 32) && decide (a < 32) && decide (b < 32)
  | .slt d a b => decide (d < 32) && decide (a < 32) && decide (b < 32)
  | .sltu d a b => decide (d < 32) && decide (a < 32) && decide (b < 32)
  | .seq d a b => decide (d < 32) && decide (a < 32) && decide (b < 32)
  | .min d a b => decide (d < 32) && decide (a < 32) && decide (b < 32)
  | .max d a b => decide (d < 32) && decide (a < 32) && decide (b < 32)
  | .minu d a b => decide (d < 32) && decide (a < 32) && decide (b < 32)
  | .maxu d a b => decide (d < 32) && decide (a < 32) && decide (b < 32)
  | .mul d a b => decide (d < 32) && decide (a < 32) && decide (b < 32)
  | .mulh d a b => decide (d < 32) && decide (a < 32) && decide (b < 32)
  | .mulhu d a b => decide (d < 32) && decide (a < 32) && decide (b < 32)
  | .div d a b => decide (d < 32) && decide (a < 32) && decide (b < 32)
  | .divu d a b => decide (d < 32) && decide (a < 32) && decide (b < 32)
  | .rem d a b => decide (d < 32) && decide (a < 32) && decide (b < 32)
  | .remu d a b => decide (d < 32) && decide (a < 32) && decide (b < 32)
  | .clz d a => decide (d < 32) && decide (a < 32)
  | .ctz d a => decide (d < 32) && decide (a < 32)
  | .popc d a => decide (d < 32) && decide (a < 32)
  | .jalr d a => decide (d < 32) && decide (a < 32)
  | .slli d a n => decide (d < 32) && decide (a < 32) && decide (n < 64)
  | .srli d a n => decide (d < 32) && decide (a < 32) && decide (n < 64)
  | .srai d a n => decide (d < 32) && decide (a < 32) && decide (n < 64)
  | .csrr d n => decide (d < 32) && decide (n < 4096) && csrListed n
  | .csrw a n => decide (a < 32) && decide (n < 4096) && csrWritable n
  | .csrs a n => decide (a < 32) && decide (n < 4096) && csrWritable n
  | .csrc a n => decide (a < 32) && decide (n < 4096) && csrWritable n
  | .csrrw d a n => decide (d < 32) && decide (a < 32) && decide (n < 4096) && csrWritable n
  | .halt => true
  | .yield => true
  | .trap i => decide (i < 32768)
  | .eret => true
  | .glaunch d a => decide (d < 32) && decide (a < 32)
  | .freplay a => decide (a < 32)
  | .fconv a => decide (a < 32)
  | .heatage a b => decide (a < 32) && decide (b < 32)
  | .hstop => true
  | .powerOn => true
  | .bringupStage _ => true
  | .deviceReset => true
  | .thermalWarning _ => true
  | .thermalCap _ => true
  | .thermalCapClear _ => true
  | .thermalTrip _ => true
  | .peakCurrentGuard _ => true
  | .lanesDecrease _ => true
  | .lanesIncrease _ => true
  | .pwrctlWrite _ => true
  | .pwrstatWrite _ => true
  | .thermstatWrite _ => true
  | .memoryRequest _ _ _ _ _ _ _ => true
  | .lineWriteback _ => true
  | .memerrWrite _ => true
  | .rowRepair _ _ _ _ => true
  | .spareCopyComplete _ => true
  | .machineCheck _ _ _ => true
  | .surftabWrite _ _ => true
  | .surfflushWrite _ _ => true
  | .surfflushComplete _ => true
  | .decompressRetry _ => true
  | .fabcfgWrite _ => true
  | .fabpartWrite _ _ => true
  | .fabpstatWrite _ _ => true
  | .flitReceive _ _ => true
  | .frameReplay _ _ => true
  | .portRetrain _ _ => true
  | .portDownTimeout _ => true
  | .remoteRequest _ _ _ _ _ _ _ _ _ _ => true
  | .fabricResponse _ _ _ _ => true
  | .fabricRequestTimeout _ => true
  | .treeInstall _ _ => true
  | .treeTeardownCommand _ _ => true
  | .reductionOperand _ _ _ _ _ _ => true
  | .reductionResult _ _ _ _ _ => true
  | .reductionTimeout _ _ => true
  | .teardownFlit _ _ _ => true
  | .hostMemRead _ _ => true
  | .hostMemWrite _ _ _ => true
  | .bisnpResponse _ => true
  | .launchPush _ _ _ => true
  | .gangCompletion _ => true
  | .msixUnmask _ _ => true
  | .vfcfgWrite _ _ _ => true
  | .vfReset _ => true
  | .vfResetComplete _ => true
  | .launchwinWrite _ => true
  | .launchstatWrite _ _ => true
  | .gangReset _ _ => true
  | .qosctxWrite _ _ _ => true
  | .l2PortServe _ => true
  | .lenderActive _ _ _ => true
  | .spillPoolRelend _ _ => true
  | .xlinvWrite _ _ => true
  | .xlinvComplete _ => true
  | .faultRecordWrite _ => true
  | .fqcfgWrite _ _ => true
  | .fqptrWrite _ _ => true
  | .hrangeWrite _ _ _ _ => true
  | .heatcfgWrite _ => true
  | .schedcfgWrite _ => true
  | .schedstatWrite _ => true
  | .gangPlace _ => true
  | .gangPreempt _ => true
  | .rowRestore _ _ => true
  | .budgetExhausted _ => true
  | .starvationPromote _ _ => true
  | .icacheFill _ _ _ => true
  | .vloopStripDeal _ _ => true
  | .savecfgWrite _ _ => true
  | .agateMerge _ _ => true
  | .kvpoolWrite _ _ => true
  | .kvmetaWrite _ _ => true
  | .kvpoolInitComplete _ => true
  | .timingErrorReplay _ => true
  | .oscntWrite _ => true
  | .frstatWrite _ _ => true
  | .subscriptionPush => true
  | .vsendArrival _ _ _ _ _ _ _ _ => true
  | .copyRetire _ _ => true
  | .fifoResult _ _ => true
  | .registerWrite _ _ _ => true
  | .rowDispatch _ _ => true
  | .illegalInstruction _ => true
  | .powerRemoval => true
  | .devtimeAdvance => true
  | .bucketAccrue _ => true
  | .linkTrained _ _ => true
  | .cxlPortDown _ => true
  | .cxlPortUp _ _ => true
  | .cxlCacheResponse _ _ _ => true

end Sys2Proof
end

