-- ==== Sys2Proof/Decode.lean ====
section
/-! DEFINITION. Decoding of words (R251 to R268), total on any bytes, and the encoder written from the same tables. -/

namespace Sys2Proof

/-- Why bytes decode to no instruction. -/
inductive DecodeError where
  /-- fewer than four bytes remain -/
  | tooShort
  /-- a word that no table assigns, or that fails a check of decode (R268) -/
  | unassigned (word : Nat)
deriving DecidableEq, Repr

/-- The field of n bits of w that starts at bit lo. -/
def fieldAt (w lo n : Nat) : Nat := w / 2 ^ lo % 2 ^ n

/-- Words of major 0x01 (ADD, SUB, AND, OR, XOR, SLL …), before the checks of `Instr.wf`. -/
noncomputable def decodeMajor01 (w : Nat) : Option Instr :=
  match fieldAt w 6 5 with
  | 0 =>
    match fieldAt w 0 6 with
    | 0 => some (.add (fieldAt w 21 5) (fieldAt w 16 5) (fieldAt w 11 5))
    | 1 => some (.sub (fieldAt w 21 5) (fieldAt w 16 5) (fieldAt w 11 5))
    | 2 => some (.and (fieldAt w 21 5) (fieldAt w 16 5) (fieldAt w 11 5))
    | 3 => some (.or (fieldAt w 21 5) (fieldAt w 16 5) (fieldAt w 11 5))
    | 4 => some (.xor (fieldAt w 21 5) (fieldAt w 16 5) (fieldAt w 11 5))
    | 5 => some (.sll (fieldAt w 21 5) (fieldAt w 16 5) (fieldAt w 11 5))
    | 6 => some (.srl (fieldAt w 21 5) (fieldAt w 16 5) (fieldAt w 11 5))
    | 7 => some (.sra (fieldAt w 21 5) (fieldAt w 16 5) (fieldAt w 11 5))
    | 8 => some (.slt (fieldAt w 21 5) (fieldAt w 16 5) (fieldAt w 11 5))
    | 9 => some (.sltu (fieldAt w 21 5) (fieldAt w 16 5) (fieldAt w 11 5))
    | 10 => some (.seq (fieldAt w 21 5) (fieldAt w 16 5) (fieldAt w 11 5))
    | 11 => some (.min (fieldAt w 21 5) (fieldAt w 16 5) (fieldAt w 11 5))
    | 12 => some (.max (fieldAt w 21 5) (fieldAt w 16 5) (fieldAt w 11 5))
    | 13 => some (.minu (fieldAt w 21 5) (fieldAt w 16 5) (fieldAt w 11 5))
    | 14 => some (.maxu (fieldAt w 21 5) (fieldAt w 16 5) (fieldAt w 11 5))
    | 16 => some (.mul (fieldAt w 21 5) (fieldAt w 16 5) (fieldAt w 11 5))
    | 17 => some (.mulh (fieldAt w 21 5) (fieldAt w 16 5) (fieldAt w 11 5))
    | 18 => some (.mulhu (fieldAt w 21 5) (fieldAt w 16 5) (fieldAt w 11 5))
    | 19 => some (.div (fieldAt w 21 5) (fieldAt w 16 5) (fieldAt w 11 5))
    | 20 => some (.divu (fieldAt w 21 5) (fieldAt w 16 5) (fieldAt w 11 5))
    | 21 => some (.rem (fieldAt w 21 5) (fieldAt w 16 5) (fieldAt w 11 5))
    | 22 => some (.remu (fieldAt w 21 5) (fieldAt w 16 5) (fieldAt w 11 5))
    | 24 => if fieldAt w 11 5 = 0 then some (.clz (fieldAt w 21 5) (fieldAt w 16 5)) else none
    | 25 => if fieldAt w 11 5 = 0 then some (.ctz (fieldAt w 21 5) (fieldAt w 16 5)) else none
    | 26 => if fieldAt w 11 5 = 0 then some (.popc (fieldAt w 21 5) (fieldAt w 16 5)) else none
    | 32 => if fieldAt w 11 5 = 0 then some (.jalr (fieldAt w 21 5) (fieldAt w 16 5)) else none
    | _ => none
  | 1 => if fieldAt w 11 5 = 0 then some (.slli (fieldAt w 21 5) (fieldAt w 16 5) (fieldAt w 0 6)) else none
  | 2 => if fieldAt w 11 5 = 0 then some (.srli (fieldAt w 21 5) (fieldAt w 16 5) (fieldAt w 0 6)) else none
  | 3 => if fieldAt w 11 5 = 0 then some (.srai (fieldAt w 21 5) (fieldAt w 16 5) (fieldAt w 0 6)) else none
  | _ => none

/-- Words of major 0x02 (ADDI), before the checks of `Instr.wf`. -/
def decodeMajor02 (w : Nat) : Option Instr :=
  some (.addi (fieldAt w 21 5) (fieldAt w 16 5) (fieldAt w 0 16))

/-- Words of major 0x03 (ORI), before the checks of `Instr.wf`. -/
def decodeMajor03 (w : Nat) : Option Instr :=
  some (.ori (fieldAt w 21 5) (fieldAt w 16 5) (fieldAt w 0 16))

/-- Words of major 0x04 (LUI), before the checks of `Instr.wf`. -/
def decodeMajor04 (w : Nat) : Option Instr :=
  if fieldAt w 16 5 = 0 then some (.lui (fieldAt w 21 5) (fieldAt w 0 16)) else none

/-- Words of major 0x05 (J), before the checks of `Instr.wf`. -/
def decodeMajor05 (w : Nat) : Option Instr :=
  some (.j (fieldAt w 0 26))

/-- Words of major 0x06 (JAL), before the checks of `Instr.wf`. -/
def decodeMajor06 (w : Nat) : Option Instr :=
  some (.jal (fieldAt w 0 26))

/-- Words of major 0x07 (ST_D), before the checks of `Instr.wf`. -/
def decodeMajor07 (w : Nat) : Option Instr :=
  some (.stD (fieldAt w 21 5) (fieldAt w 16 5) (fieldAt w 0 16))

/-- Words of major 0x08 (BEQ), before the checks of `Instr.wf`. -/
def decodeMajor08 (w : Nat) : Option Instr :=
  some (.beq (fieldAt w 21 5) (fieldAt w 16 5) (fieldAt w 0 16))

/-- Words of major 0x09 (BNE), before the checks of `Instr.wf`. -/
def decodeMajor09 (w : Nat) : Option Instr :=
  some (.bne (fieldAt w 21 5) (fieldAt w 16 5) (fieldAt w 0 16))

/-- Words of major 0x0a (BLT), before the checks of `Instr.wf`. -/
def decodeMajor0A (w : Nat) : Option Instr :=
  some (.blt (fieldAt w 21 5) (fieldAt w 16 5) (fieldAt w 0 16))

/-- Words of major 0x0b (LD_D), before the checks of `Instr.wf`. -/
def decodeMajor0B (w : Nat) : Option Instr :=
  some (.ldD (fieldAt w 21 5) (fieldAt w 16 5) (fieldAt w 0 16))

/-- Words of major 0x0c (BGE), before the checks of `Instr.wf`. -/
def decodeMajor0C (w : Nat) : Option Instr :=
  some (.bge (fieldAt w 21 5) (fieldAt w 16 5) (fieldAt w 0 16))

/-- Words of major 0x0d (BLTU), before the checks of `Instr.wf`. -/
def decodeMajor0D (w : Nat) : Option Instr :=
  some (.bltu (fieldAt w 21 5) (fieldAt w 16 5) (fieldAt w 0 16))

/-- Words of major 0x0e (BGEU), before the checks of `Instr.wf`. -/
def decodeMajor0E (w : Nat) : Option Instr :=
  some (.bgeu (fieldAt w 21 5) (fieldAt w 16 5) (fieldAt w 0 16))

/-- Words of major 0x0f (LD_B_H_W, LD_ACQ, LD_BU_HU_WU, ST_B_H_W, ST_REL, AMOSWAP …), before the checks of `Instr.wf`. -/
def decodeMajor0F (w : Nat) : Option Instr :=
  match fieldAt w 0 4 with
  | 0 =>
    match fieldAt w 4 2 with
    | 0 => if fieldAt w 11 5 = 0 ∧ fieldAt w 8 3 = 0 then some (.ldBHW (fieldAt w 21 5) (fieldAt w 16 5) (fieldAt w 6 2)) else none
    | 1 => if fieldAt w 11 5 = 0 then some (.ldAcq (fieldAt w 21 5) (fieldAt w 16 5) (fieldAt w 8 3) (fieldAt w 6 2)) else none
    | _ => none
  | 1 =>
    match fieldAt w 4 2 with
    | 0 => if fieldAt w 11 5 = 0 ∧ fieldAt w 8 3 = 0 then some (.ldBuHuWu (fieldAt w 21 5) (fieldAt w 16 5) (fieldAt w 6 2)) else none
    | _ => none
  | 2 =>
    match fieldAt w 4 2 with
    | 0 => if fieldAt w 21 5 = 0 ∧ fieldAt w 8 3 = 0 then some (.stBHW (fieldAt w 16 5) (fieldAt w 11 5) (fieldAt w 6 2)) else none
    | 2 => if fieldAt w 21 5 = 0 then some (.stRel (fieldAt w 16 5) (fieldAt w 11 5) (fieldAt w 8 3) (fieldAt w 6 2)) else none
    | _ => none
  | 3 => some (.amoswap (fieldAt w 21 5) (fieldAt w 16 5) (fieldAt w 11 5) (fieldAt w 8 3) (fieldAt w 6 2) (fieldAt w 4 2))
  | 4 => some (.amoadd (fieldAt w 21 5) (fieldAt w 16 5) (fieldAt w 11 5) (fieldAt w 8 3) (fieldAt w 6 2) (fieldAt w 4 2))
  | 5 => some (.amoand (fieldAt w 21 5) (fieldAt w 16 5) (fieldAt w 11 5) (fieldAt w 8 3) (fieldAt w 6 2) (fieldAt w 4 2))
  | 6 => some (.amoor (fieldAt w 21 5) (fieldAt w 16 5) (fieldAt w 11 5) (fieldAt w 8 3) (fieldAt w 6 2) (fieldAt w 4 2))
  | 7 => some (.amoxor (fieldAt w 21 5) (fieldAt w 16 5) (fieldAt w 11 5) (fieldAt w 8 3) (fieldAt w 6 2) (fieldAt w 4 2))
  | 8 => some (.amomin (fieldAt w 21 5) (fieldAt w 16 5) (fieldAt w 11 5) (fieldAt w 8 3) (fieldAt w 6 2) (fieldAt w 4 2))
  | 9 => some (.amomax (fieldAt w 21 5) (fieldAt w 16 5) (fieldAt w 11 5) (fieldAt w 8 3) (fieldAt w 6 2) (fieldAt w 4 2))
  | 10 => some (.amominu (fieldAt w 21 5) (fieldAt w 16 5) (fieldAt w 11 5) (fieldAt w 8 3) (fieldAt w 6 2) (fieldAt w 4 2))
  | 11 => some (.amomaxu (fieldAt w 21 5) (fieldAt w 16 5) (fieldAt w 11 5) (fieldAt w 8 3) (fieldAt w 6 2) (fieldAt w 4 2))
  | 12 => some (.cas (fieldAt w 21 5) (fieldAt w 16 5) (fieldAt w 11 5) (fieldAt w 8 3) (fieldAt w 6 2) (fieldAt w 4 2))
  | _ => none

/-- Words of major 0x10 (VSETL), before the checks of `Instr.wf`. -/
def decodeMajor10 (w : Nat) : Option Instr :=
  if fieldAt w 6 10 = 0 then some (.vsetl (fieldAt w 21 5) (fieldAt w 16 5) (fieldAt w 0 6)) else none

/-- Words of major 0x11 (VLOOP), before the checks of `Instr.wf`. -/
def decodeMajor11 (w : Nat) : Option Instr :=
  if fieldAt w 21 5 = 0 ∧ fieldAt w 0 16 = 0 then some (.vloop (fieldAt w 16 5)) else none

/-- Words of major 0x12 (VNEXT), before the checks of `Instr.wf`. -/
def decodeMajor12 (w : Nat) : Option Instr :=
  if fieldAt w 21 5 = 0 ∧ fieldAt w 16 5 = 0 ∧ fieldAt w 0 16 = 0 then some (.vnext) else none

/-- Words of major 0x13 (VSETTL), before the checks of `Instr.wf`. -/
def decodeMajor13 (w : Nat) : Option Instr :=
  if fieldAt w 0 16 = 0 then some (.vsettl (fieldAt w 21 5) (fieldAt w 16 5)) else none

/-- Words of major 0x14 (VSETMT), before the checks of `Instr.wf`. -/
def decodeMajor14 (w : Nat) : Option Instr :=
  if fieldAt w 21 5 = 0 ∧ fieldAt w 16 5 = 0 ∧ fieldAt w 2 14 = 0 then some (.vsetmt (fieldAt w 0 2)) else none

/-- Words of major 0x15 (VDEAD), before the checks of `Instr.wf`. -/
def decodeMajor15 (w : Nat) : Option Instr :=
  if fieldAt w 21 5 = 0 ∧ fieldAt w 0 16 = 0 then some (.vdead (fieldAt w 16 5)) else none

/-- Words of major 0x16 (ICPF), before the checks of `Instr.wf`. -/
def decodeMajor16 (w : Nat) : Option Instr :=
  if fieldAt w 21 5 = 0 then some (.icpf (fieldAt w 16 5) (fieldAt w 0 16)) else none

/-- Words of major 0x17 (CWAIT), before the checks of `Instr.wf`. -/
def decodeMajor17 (w : Nat) : Option Instr :=
  if fieldAt w 21 5 = 0 ∧ fieldAt w 16 5 = 0 ∧ fieldAt w 8 8 = 0 then some (.cwait (fieldAt w 0 8)) else none

/-- Words of major 0x18 (VADD_I, VSUB_I, VMUL_I, VMULH_I, VMIN_I, VMAX_I …), before the checks of `Instr.wf`. -/
def decodeMajor18 (w : Nat) : Option Instr :=
  match fieldAt w 0 3 with
  | 0 => some (.vaddI (fieldAt w 21 5) (fieldAt w 16 5) (fieldAt w 11 5) (fieldAt w 6 5) (fieldAt w 3 3))
  | 1 => some (.vsubI (fieldAt w 21 5) (fieldAt w 16 5) (fieldAt w 11 5) (fieldAt w 6 5) (fieldAt w 3 3))
  | 2 => some (.vmulI (fieldAt w 21 5) (fieldAt w 16 5) (fieldAt w 11 5) (fieldAt w 6 5) (fieldAt w 3 3))
  | 3 => some (.vmulhI (fieldAt w 21 5) (fieldAt w 16 5) (fieldAt w 11 5) (fieldAt w 6 5) (fieldAt w 3 3))
  | 4 => some (.vminI (fieldAt w 21 5) (fieldAt w 16 5) (fieldAt w 11 5) (fieldAt w 6 5) (fieldAt w 3 3))
  | 5 => some (.vmaxI (fieldAt w 21 5) (fieldAt w 16 5) (fieldAt w 11 5) (fieldAt w 6 5) (fieldAt w 3 3))
  | 6 => some (.vmaccI (fieldAt w 21 5) (fieldAt w 16 5) (fieldAt w 11 5) (fieldAt w 6 5) (fieldAt w 3 3))
  | 7 => some (.vdivI (fieldAt w 21 5) (fieldAt w 16 5) (fieldAt w 11 5) (fieldAt w 6 5) (fieldAt w 3 3))
  | _ => none

/-- Words of major 0x19 (VADD_I_S, VSUB_I_S, VMUL_I_S, VMULH_I_S, VMIN_I_S, VMAX_I_S …), before the checks of `Instr.wf`. -/
def decodeMajor19 (w : Nat) : Option Instr :=
  match fieldAt w 0 3 with
  | 0 => some (.vaddIS (fieldAt w 21 5) (fieldAt w 16 5) (fieldAt w 11 5) (fieldAt w 6 5) (fieldAt w 3 3))
  | 1 => some (.vsubIS (fieldAt w 21 5) (fieldAt w 16 5) (fieldAt w 11 5) (fieldAt w 6 5) (fieldAt w 3 3))
  | 2 => some (.vmulIS (fieldAt w 21 5) (fieldAt w 16 5) (fieldAt w 11 5) (fieldAt w 6 5) (fieldAt w 3 3))
  | 3 => some (.vmulhIS (fieldAt w 21 5) (fieldAt w 16 5) (fieldAt w 11 5) (fieldAt w 6 5) (fieldAt w 3 3))
  | 4 => some (.vminIS (fieldAt w 21 5) (fieldAt w 16 5) (fieldAt w 11 5) (fieldAt w 6 5) (fieldAt w 3 3))
  | 5 => some (.vmaxIS (fieldAt w 21 5) (fieldAt w 16 5) (fieldAt w 11 5) (fieldAt w 6 5) (fieldAt w 3 3))
  | 6 => some (.vmaccIS (fieldAt w 21 5) (fieldAt w 16 5) (fieldAt w 11 5) (fieldAt w 6 5) (fieldAt w 3 3))
  | 7 => some (.vdivIS (fieldAt w 21 5) (fieldAt w 16 5) (fieldAt w 11 5) (fieldAt w 6 5) (fieldAt w 3 3))
  | _ => none

/-- Words of major 0x1a (VADD_F, VSUB_F, VMUL_F, VDIV_F, VMIN_F, VMAX_F …), before the checks of `Instr.wf`. -/
def decodeMajor1A (w : Nat) : Option Instr :=
  match fieldAt w 0 3 with
  | 0 => some (.vaddF (fieldAt w 21 5) (fieldAt w 16 5) (fieldAt w 11 5) (fieldAt w 6 5) (fieldAt w 3 3))
  | 1 => some (.vsubF (fieldAt w 21 5) (fieldAt w 16 5) (fieldAt w 11 5) (fieldAt w 6 5) (fieldAt w 3 3))
  | 2 => some (.vmulF (fieldAt w 21 5) (fieldAt w 16 5) (fieldAt w 11 5) (fieldAt w 6 5) (fieldAt w 3 3))
  | 3 => some (.vdivF (fieldAt w 21 5) (fieldAt w 16 5) (fieldAt w 11 5) (fieldAt w 6 5) (fieldAt w 3 3))
  | 4 => some (.vminF (fieldAt w 21 5) (fieldAt w 16 5) (fieldAt w 11 5) (fieldAt w 6 5) (fieldAt w 3 3))
  | 5 => some (.vmaxF (fieldAt w 21 5) (fieldAt w 16 5) (fieldAt w 11 5) (fieldAt w 6 5) (fieldAt w 3 3))
  | 6 => some (.vfmaF (fieldAt w 21 5) (fieldAt w 16 5) (fieldAt w 11 5) (fieldAt w 6 5) (fieldAt w 3 3))
  | 7 => if fieldAt w 11 5 = 0 then some (.vsqrtF (fieldAt w 21 5) (fieldAt w 16 5) (fieldAt w 6 5) (fieldAt w 3 3)) else none
  | _ => none

/-- Words of major 0x1b (VADD_F_S, VSUB_F_S, VMUL_F_S, VDIV_F_S, VMIN_F_S, VMAX_F_S …), before the checks of `Instr.wf`. -/
def decodeMajor1B (w : Nat) : Option Instr :=
  match fieldAt w 0 3 with
  | 0 => some (.vaddFS (fieldAt w 21 5) (fieldAt w 16 5) (fieldAt w 11 5) (fieldAt w 6 5) (fieldAt w 3 3))
  | 1 => some (.vsubFS (fieldAt w 21 5) (fieldAt w 16 5) (fieldAt w 11 5) (fieldAt w 6 5) (fieldAt w 3 3))
  | 2 => some (.vmulFS (fieldAt w 21 5) (fieldAt w 16 5) (fieldAt w 11 5) (fieldAt w 6 5) (fieldAt w 3 3))
  | 3 => some (.vdivFS (fieldAt w 21 5) (fieldAt w 16 5) (fieldAt w 11 5) (fieldAt w 6 5) (fieldAt w 3 3))
  | 4 => some (.vminFS (fieldAt w 21 5) (fieldAt w 16 5) (fieldAt w 11 5) (fieldAt w 6 5) (fieldAt w 3 3))
  | 5 => some (.vmaxFS (fieldAt w 21 5) (fieldAt w 16 5) (fieldAt w 11 5) (fieldAt w 6 5) (fieldAt w 3 3))
  | 6 => some (.vfmaFS (fieldAt w 21 5) (fieldAt w 16 5) (fieldAt w 11 5) (fieldAt w 6 5) (fieldAt w 3 3))
  | _ => none

/-- Words of major 0x1c (VAND, VOR, VXOR, VNOT, VSLL, VSRL …), before the checks of `Instr.wf`. -/
def decodeMajor1C (w : Nat) : Option Instr :=
  match fieldAt w 0 3 with
  | 0 => if fieldAt w 6 5 = 0 then some (.vand (fieldAt w 21 5) (fieldAt w 16 5) (fieldAt w 11 5) (fieldAt w 3 3)) else none
  | 1 => if fieldAt w 6 5 = 0 then some (.vor (fieldAt w 21 5) (fieldAt w 16 5) (fieldAt w 11 5) (fieldAt w 3 3)) else none
  | 2 => if fieldAt w 6 5 = 0 then some (.vxor (fieldAt w 21 5) (fieldAt w 16 5) (fieldAt w 11 5) (fieldAt w 3 3)) else none
  | 3 => if fieldAt w 11 5 = 0 ∧ fieldAt w 6 5 = 0 then some (.vnot (fieldAt w 21 5) (fieldAt w 16 5) (fieldAt w 3 3)) else none
  | 4 => if fieldAt w 6 5 = 0 then some (.vsll (fieldAt w 21 5) (fieldAt w 16 5) (fieldAt w 11 5) (fieldAt w 3 3)) else none
  | 5 => if fieldAt w 6 5 = 0 then some (.vsrl (fieldAt w 21 5) (fieldAt w 16 5) (fieldAt w 11 5) (fieldAt w 3 3)) else none
  | 6 => if fieldAt w 6 5 = 0 then some (.vsra (fieldAt w 21 5) (fieldAt w 16 5) (fieldAt w 11 5) (fieldAt w 3 3)) else none
  | _ => none

/-- Words of major 0x1d (VAND_S, VOR_S, VXOR_S, VSLL_S, VSRL_S, VSRA_S), before the checks of `Instr.wf`. -/
def decodeMajor1D (w : Nat) : Option Instr :=
  match fieldAt w 0 3 with
  | 0 => if fieldAt w 6 5 = 0 then some (.vandS (fieldAt w 21 5) (fieldAt w 16 5) (fieldAt w 11 5) (fieldAt w 3 3)) else none
  | 1 => if fieldAt w 6 5 = 0 then some (.vorS (fieldAt w 21 5) (fieldAt w 16 5) (fieldAt w 11 5) (fieldAt w 3 3)) else none
  | 2 => if fieldAt w 6 5 = 0 then some (.vxorS (fieldAt w 21 5) (fieldAt w 16 5) (fieldAt w 11 5) (fieldAt w 3 3)) else none
  | 4 => if fieldAt w 6 5 = 0 then some (.vsllS (fieldAt w 21 5) (fieldAt w 16 5) (fieldAt w 11 5) (fieldAt w 3 3)) else none
  | 5 => if fieldAt w 6 5 = 0 then some (.vsrlS (fieldAt w 21 5) (fieldAt w 16 5) (fieldAt w 11 5) (fieldAt w 3 3)) else none
  | 6 => if fieldAt w 6 5 = 0 then some (.vsraS (fieldAt w 21 5) (fieldAt w 16 5) (fieldAt w 11 5) (fieldAt w 3 3)) else none
  | _ => none

/-- Words of major 0x1e (VCMPEQ, VCMPNE, VCMPLT, VCMPLE, VCMPGT, VCMPGE …), before the checks of `Instr.wf`. -/
def decodeMajor1E (w : Nat) : Option Instr :=
  match fieldAt w 0 3 with
  | 0 => some (.vcmpeq (fieldAt w 21 5) (fieldAt w 16 5) (fieldAt w 11 5) (fieldAt w 6 5) (fieldAt w 3 3))
  | 1 => some (.vcmpne (fieldAt w 21 5) (fieldAt w 16 5) (fieldAt w 11 5) (fieldAt w 6 5) (fieldAt w 3 3))
  | 2 => some (.vcmplt (fieldAt w 21 5) (fieldAt w 16 5) (fieldAt w 11 5) (fieldAt w 6 5) (fieldAt w 3 3))
  | 3 => some (.vcmple (fieldAt w 21 5) (fieldAt w 16 5) (fieldAt w 11 5) (fieldAt w 6 5) (fieldAt w 3 3))
  | 4 => some (.vcmpgt (fieldAt w 21 5) (fieldAt w 16 5) (fieldAt w 11 5) (fieldAt w 6 5) (fieldAt w 3 3))
  | 5 => some (.vcmpge (fieldAt w 21 5) (fieldAt w 16 5) (fieldAt w 11 5) (fieldAt w 6 5) (fieldAt w 3 3))
  | 6 => some (.vcmpun (fieldAt w 21 5) (fieldAt w 16 5) (fieldAt w 11 5) (fieldAt w 6 5) (fieldAt w 3 3))
  | _ => none

/-- Words of major 0x1f (VCMPEQ_S, VCMPNE_S, VCMPLT_S, VCMPLE_S, VCMPGT_S, VCMPGE_S …), before the checks of `Instr.wf`. -/
def decodeMajor1F (w : Nat) : Option Instr :=
  match fieldAt w 0 3 with
  | 0 => some (.vcmpeqS (fieldAt w 21 5) (fieldAt w 16 5) (fieldAt w 11 5) (fieldAt w 6 5) (fieldAt w 3 3))
  | 1 => some (.vcmpneS (fieldAt w 21 5) (fieldAt w 16 5) (fieldAt w 11 5) (fieldAt w 6 5) (fieldAt w 3 3))
  | 2 => some (.vcmpltS (fieldAt w 21 5) (fieldAt w 16 5) (fieldAt w 11 5) (fieldAt w 6 5) (fieldAt w 3 3))
  | 3 => some (.vcmpleS (fieldAt w 21 5) (fieldAt w 16 5) (fieldAt w 11 5) (fieldAt w 6 5) (fieldAt w 3 3))
  | 4 => some (.vcmpgtS (fieldAt w 21 5) (fieldAt w 16 5) (fieldAt w 11 5) (fieldAt w 6 5) (fieldAt w 3 3))
  | 5 => some (.vcmpgeS (fieldAt w 21 5) (fieldAt w 16 5) (fieldAt w 11 5) (fieldAt w 6 5) (fieldAt w 3 3))
  | 6 => some (.vcmpunS (fieldAt w 21 5) (fieldAt w 16 5) (fieldAt w 11 5) (fieldAt w 6 5) (fieldAt w 3 3))
  | _ => none

/-- Words of major 0x20 (MAND, MOR, MXOR, MANDN, MNOT, MPOPC …), before the checks of `Instr.wf`. -/
def decodeMajor20 (w : Nat) : Option Instr :=
  match fieldAt w 0 3 with
  | 0 => if fieldAt w 6 5 = 0 ∧ fieldAt w 3 3 = 0 then some (.mand (fieldAt w 21 5) (fieldAt w 16 5) (fieldAt w 11 5)) else none
  | 1 => if fieldAt w 6 5 = 0 ∧ fieldAt w 3 3 = 0 then some (.mor (fieldAt w 21 5) (fieldAt w 16 5) (fieldAt w 11 5)) else none
  | 2 => if fieldAt w 6 5 = 0 ∧ fieldAt w 3 3 = 0 then some (.mxor (fieldAt w 21 5) (fieldAt w 16 5) (fieldAt w 11 5)) else none
  | 3 => if fieldAt w 6 5 = 0 ∧ fieldAt w 3 3 = 0 then some (.mandn (fieldAt w 21 5) (fieldAt w 16 5) (fieldAt w 11 5)) else none
  | 4 => if fieldAt w 11 5 = 0 ∧ fieldAt w 6 5 = 0 ∧ fieldAt w 3 3 = 0 then some (.mnot (fieldAt w 21 5) (fieldAt w 16 5)) else none
  | 5 => if fieldAt w 11 5 = 0 ∧ fieldAt w 6 5 = 0 ∧ fieldAt w 3 3 = 0 then some (.mpopc (fieldAt w 21 5) (fieldAt w 16 5)) else none
  | 6 => if fieldAt w 11 5 = 0 ∧ fieldAt w 6 5 = 0 ∧ fieldAt w 3 3 = 0 then some (.mfirst (fieldAt w 21 5) (fieldAt w 16 5)) else none
  | _ => none

/-- Words of major 0x21 (VMERGE, VMV, VBCAST, VEXT, VCVT, VCLASS …), before the checks of `Instr.wf`. -/
def decodeMajor21 (w : Nat) : Option Instr :=
  match fieldAt w 0 3 with
  | 0 => if fieldAt w 6 5 = 0 then some (.vmerge (fieldAt w 21 5) (fieldAt w 16 5) (fieldAt w 11 5) (fieldAt w 3 3)) else none
  | 1 => if fieldAt w 11 5 = 0 ∧ fieldAt w 6 5 = 0 then some (.vmv (fieldAt w 21 5) (fieldAt w 16 5) (fieldAt w 3 3)) else none
  | 2 => if fieldAt w 16 5 = 0 ∧ fieldAt w 6 5 = 0 then some (.vbcast (fieldAt w 21 5) (fieldAt w 11 5) (fieldAt w 3 3)) else none
  | 3 => if fieldAt w 6 5 = 0 ∧ fieldAt w 3 3 = 0 then some (.vext (fieldAt w 21 5) (fieldAt w 16 5) (fieldAt w 11 5)) else none
  | 4 => if fieldAt w 11 5 = 0 then some (.vcvt (fieldAt w 21 5) (fieldAt w 16 5) (fieldAt w 6 5) (fieldAt w 3 3)) else none
  | 5 => if fieldAt w 11 5 = 0 then some (.vclass (fieldAt w 21 5) (fieldAt w 16 5) (fieldAt w 6 5) (fieldAt w 3 3)) else none
  | 6 => if fieldAt w 11 5 = 0 then some (.vrecpe (fieldAt w 21 5) (fieldAt w 16 5) (fieldAt w 6 5) (fieldAt w 3 3)) else none
  | 7 => if fieldAt w 11 5 = 0 then some (.vexp2e (fieldAt w 21 5) (fieldAt w 16 5) (fieldAt w 6 5) (fieldAt w 3 3)) else none
  | _ => none

/-- Words of major 0x22 (VSADD, VSSUB, VSMUL, VSMACC, VSSRA, VSSRL …), before the checks of `Instr.wf`. -/
def decodeMajor22 (w : Nat) : Option Instr :=
  match fieldAt w 0 3 with
  | 0 => some (.vsadd (fieldAt w 21 5) (fieldAt w 16 5) (fieldAt w 11 5) (fieldAt w 6 5) (fieldAt w 3 3))
  | 1 => some (.vssub (fieldAt w 21 5) (fieldAt w 16 5) (fieldAt w 11 5) (fieldAt w 6 5) (fieldAt w 3 3))
  | 2 => some (.vsmul (fieldAt w 21 5) (fieldAt w 16 5) (fieldAt w 11 5) (fieldAt w 6 5) (fieldAt w 3 3))
  | 3 => some (.vsmacc (fieldAt w 21 5) (fieldAt w 16 5) (fieldAt w 11 5) (fieldAt w 6 5) (fieldAt w 3 3))
  | 4 => some (.vssra (fieldAt w 21 5) (fieldAt w 16 5) (fieldAt w 11 5) (fieldAt w 6 5) (fieldAt w 3 3))
  | 5 => some (.vssrl (fieldAt w 21 5) (fieldAt w 16 5) (fieldAt w 11 5) (fieldAt w 6 5) (fieldAt w 3 3))
  | 6 => some (.vnclip (fieldAt w 21 5) (fieldAt w 16 5) (fieldAt w 11 5) (fieldAt w 6 5) (fieldAt w 3 3))
  | 7 => some (.vavg (fieldAt w 21 5) (fieldAt w 16 5) (fieldAt w 11 5) (fieldAt w 6 5) (fieldAt w 3 3))
  | _ => none

/-- Words of major 0x23 (VSADD_S, VSSUB_S, VSMUL_S, VSMACC_S, VSSRA_S, VSSRL_S …), before the checks of `Instr.wf`. -/
def decodeMajor23 (w : Nat) : Option Instr :=
  match fieldAt w 0 3 with
  | 0 => some (.vsaddS (fieldAt w 21 5) (fieldAt w 16 5) (fieldAt w 11 5) (fieldAt w 6 5) (fieldAt w 3 3))
  | 1 => some (.vssubS (fieldAt w 21 5) (fieldAt w 16 5) (fieldAt w 11 5) (fieldAt w 6 5) (fieldAt w 3 3))
  | 2 => some (.vsmulS (fieldAt w 21 5) (fieldAt w 16 5) (fieldAt w 11 5) (fieldAt w 6 5) (fieldAt w 3 3))
  | 3 => some (.vsmaccS (fieldAt w 21 5) (fieldAt w 16 5) (fieldAt w 11 5) (fieldAt w 6 5) (fieldAt w 3 3))
  | 4 => some (.vssraS (fieldAt w 21 5) (fieldAt w 16 5) (fieldAt w 11 5) (fieldAt w 6 5) (fieldAt w 3 3))
  | 5 => some (.vssrlS (fieldAt w 21 5) (fieldAt w 16 5) (fieldAt w 11 5) (fieldAt w 6 5) (fieldAt w 3 3))
  | 6 => some (.vnclipS (fieldAt w 21 5) (fieldAt w 16 5) (fieldAt w 11 5) (fieldAt w 6 5) (fieldAt w 3 3))
  | 7 => some (.vavgS (fieldAt w 21 5) (fieldAt w 16 5) (fieldAt w 11 5) (fieldAt w 6 5) (fieldAt w 3 3))
  | _ => none

/-- Words of major 0x24 (VREDSUM_O, VREDSUM_U, VREDMIN, VREDMAX, VREDAND, VREDOR …), before the checks of `Instr.wf`. -/
def decodeMajor24 (w : Nat) : Option Instr :=
  match fieldAt w 0 3 with
  | 0 => some (.vredsumO (fieldAt w 21 5) (fieldAt w 16 5) (fieldAt w 11 5) (fieldAt w 6 5) (fieldAt w 3 3))
  | 1 => some (.vredsumU (fieldAt w 21 5) (fieldAt w 16 5) (fieldAt w 11 5) (fieldAt w 6 5) (fieldAt w 3 3))
  | 2 => some (.vredmin (fieldAt w 21 5) (fieldAt w 16 5) (fieldAt w 11 5) (fieldAt w 6 5) (fieldAt w 3 3))
  | 3 => some (.vredmax (fieldAt w 21 5) (fieldAt w 16 5) (fieldAt w 11 5) (fieldAt w 6 5) (fieldAt w 3 3))
  | 4 => some (.vredand (fieldAt w 21 5) (fieldAt w 16 5) (fieldAt w 11 5) (fieldAt w 6 5) (fieldAt w 3 3))
  | 5 => some (.vredor (fieldAt w 21 5) (fieldAt w 16 5) (fieldAt w 11 5) (fieldAt w 6 5) (fieldAt w 3 3))
  | 6 => some (.vredxor (fieldAt w 21 5) (fieldAt w 16 5) (fieldAt w 11 5) (fieldAt w 6 5) (fieldAt w 3 3))
  | _ => none

/-- Words of major 0x25 (VSCAN_O, VSCAN_FAST, VIOTA, VID, RNGGEN, VCOMPRESS …), before the checks of `Instr.wf`. -/
def decodeMajor25 (w : Nat) : Option Instr :=
  match fieldAt w 0 3 with
  | 0 => if fieldAt w 11 5 = 0 then some (.vscanO (fieldAt w 21 5) (fieldAt w 16 5) (fieldAt w 6 5) (fieldAt w 3 3)) else none
  | 1 => if fieldAt w 11 5 = 0 then some (.vscanFast (fieldAt w 21 5) (fieldAt w 16 5) (fieldAt w 6 5) (fieldAt w 3 3)) else none
  | 2 => if fieldAt w 11 5 = 0 ∧ fieldAt w 6 5 = 0 then some (.viota (fieldAt w 21 5) (fieldAt w 16 5) (fieldAt w 3 3)) else none
  | 3 => if fieldAt w 16 5 = 0 ∧ fieldAt w 11 5 = 0 ∧ fieldAt w 6 5 = 0 then some (.vid (fieldAt w 21 5) (fieldAt w 3 3)) else none
  | 4 => if fieldAt w 6 5 = 0 then some (.rnggen (fieldAt w 21 5) (fieldAt w 16 5) (fieldAt w 11 5) (fieldAt w 3 3)) else none
  | 5 => if fieldAt w 11 5 = 0 ∧ fieldAt w 6 5 = 0 then some (.vcompress (fieldAt w 21 5) (fieldAt w 16 5) (fieldAt w 3 3)) else none
  | 6 => if fieldAt w 11 5 = 0 ∧ fieldAt w 6 5 = 0 then some (.vexpand (fieldAt w 21 5) (fieldAt w 16 5) (fieldAt w 3 3)) else none
  | _ => none

/-- Words of major 0x26 (VSLIDEUP, VSLIDEDN, VSLIDE1UP, VSLIDE1DN, VPERM, XCHG), before the checks of `Instr.wf`. -/
def decodeMajor26 (w : Nat) : Option Instr :=
  match fieldAt w 0 3 with
  | 0 => if fieldAt w 6 5 = 0 then some (.vslideup (fieldAt w 21 5) (fieldAt w 16 5) (fieldAt w 11 5) (fieldAt w 3 3)) else none
  | 1 => if fieldAt w 6 5 = 0 then some (.vslidedn (fieldAt w 21 5) (fieldAt w 16 5) (fieldAt w 11 5) (fieldAt w 3 3)) else none
  | 2 => if fieldAt w 6 5 = 0 then some (.vslide1up (fieldAt w 21 5) (fieldAt w 16 5) (fieldAt w 11 5) (fieldAt w 3 3)) else none
  | 3 => if fieldAt w 6 5 = 0 then some (.vslide1dn (fieldAt w 21 5) (fieldAt w 16 5) (fieldAt w 11 5) (fieldAt w 3 3)) else none
  | 4 => if fieldAt w 6 5 = 0 then some (.vperm (fieldAt w 21 5) (fieldAt w 16 5) (fieldAt w 11 5) (fieldAt w 3 3)) else none
  | 6 => if fieldAt w 6 5 = 0 ∧ fieldAt w 3 3 = 0 then some (.xchg (fieldAt w 21 5) (fieldAt w 16 5) (fieldAt w 11 5)) else none
  | _ => none

/-- Words of major 0x28 (VLD, VLDU, VLDF), before the checks of `Instr.wf`. -/
def decodeMajor28 (w : Nat) : Option Instr :=
  match fieldAt w 6 2 with
  | 0 => if fieldAt w 11 5 = 0 then some (.vld (fieldAt w 21 5) (fieldAt w 16 5) (fieldAt w 8 3) (fieldAt w 3 3) (fieldAt w 0 3)) else none
  | 1 => if fieldAt w 11 5 = 0 then some (.vldu (fieldAt w 21 5) (fieldAt w 16 5) (fieldAt w 8 3) (fieldAt w 3 3) (fieldAt w 0 3)) else none
  | 2 => if fieldAt w 11 5 = 0 then some (.vldf (fieldAt w 21 5) (fieldAt w 16 5) (fieldAt w 8 3) (fieldAt w 3 3) (fieldAt w 0 3)) else none
  | _ => none

/-- Words of major 0x29 (VST, VSTU), before the checks of `Instr.wf`. -/
def decodeMajor29 (w : Nat) : Option Instr :=
  match fieldAt w 6 2 with
  | 0 => if fieldAt w 11 5 = 0 then some (.vst (fieldAt w 21 5) (fieldAt w 16 5) (fieldAt w 8 3) (fieldAt w 3 3) (fieldAt w 0 3)) else none
  | 1 => if fieldAt w 11 5 = 0 then some (.vstu (fieldAt w 21 5) (fieldAt w 16 5) (fieldAt w 8 3) (fieldAt w 3 3) (fieldAt w 0 3)) else none
  | _ => none

/-- Words of major 0x2a (VLDS, VLDSU, VLDSF), before the checks of `Instr.wf`. -/
def decodeMajor2A (w : Nat) : Option Instr :=
  match fieldAt w 6 2 with
  | 0 => some (.vlds (fieldAt w 21 5) (fieldAt w 16 5) (fieldAt w 11 5) (fieldAt w 8 3) (fieldAt w 3 3) (fieldAt w 0 3))
  | 1 => some (.vldsu (fieldAt w 21 5) (fieldAt w 16 5) (fieldAt w 11 5) (fieldAt w 8 3) (fieldAt w 3 3) (fieldAt w 0 3))
  | 2 => some (.vldsf (fieldAt w 21 5) (fieldAt w 16 5) (fieldAt w 11 5) (fieldAt w 8 3) (fieldAt w 3 3) (fieldAt w 0 3))
  | _ => none

/-- Words of major 0x2b (VSTS, VSTSU), before the checks of `Instr.wf`. -/
def decodeMajor2B (w : Nat) : Option Instr :=
  match fieldAt w 6 2 with
  | 0 => some (.vsts (fieldAt w 21 5) (fieldAt w 16 5) (fieldAt w 11 5) (fieldAt w 8 3) (fieldAt w 3 3) (fieldAt w 0 3))
  | 1 => some (.vstsu (fieldAt w 21 5) (fieldAt w 16 5) (fieldAt w 11 5) (fieldAt w 8 3) (fieldAt w 3 3) (fieldAt w 0 3))
  | _ => none

/-- Words of major 0x2c (VLDX, VLDXU), before the checks of `Instr.wf`. -/
def decodeMajor2C (w : Nat) : Option Instr :=
  match fieldAt w 6 2 with
  | 0 => if fieldAt w 8 3 = 0 then some (.vldx (fieldAt w 21 5) (fieldAt w 16 5) (fieldAt w 11 5) (fieldAt w 3 3) (fieldAt w 0 3)) else none
  | 1 => if fieldAt w 8 3 = 0 then some (.vldxu (fieldAt w 21 5) (fieldAt w 16 5) (fieldAt w 11 5) (fieldAt w 3 3) (fieldAt w 0 3)) else none
  | _ => none

/-- Words of major 0x2d (VSTX, VSTXU), before the checks of `Instr.wf`. -/
def decodeMajor2D (w : Nat) : Option Instr :=
  match fieldAt w 6 2 with
  | 0 => if fieldAt w 8 3 = 0 then some (.vstx (fieldAt w 21 5) (fieldAt w 16 5) (fieldAt w 11 5) (fieldAt w 3 3) (fieldAt w 0 3)) else none
  | 1 => if fieldAt w 8 3 = 0 then some (.vstxu (fieldAt w 21 5) (fieldAt w 16 5) (fieldAt w 11 5) (fieldAt w 3 3) (fieldAt w 0 3)) else none
  | _ => none

/-- Words of major 0x2e (VAMOADD_I, VAMOADDU_I, VAMOADD_F, VAMOADDU_F, VAMOSWAP, VAMOSWAPU …), before the checks of `Instr.wf`. -/
def decodeMajor2E (w : Nat) : Option Instr :=
  match fieldAt w 8 3 with
  | 0 =>
    match fieldAt w 6 2 with
    | 0 => some (.vamoaddI (fieldAt w 21 5) (fieldAt w 16 5) (fieldAt w 11 5) (fieldAt w 3 3) (fieldAt w 0 3))
    | 1 => some (.vamoadduI (fieldAt w 21 5) (fieldAt w 16 5) (fieldAt w 11 5) (fieldAt w 3 3) (fieldAt w 0 3))
    | _ => none
  | 1 =>
    match fieldAt w 6 2 with
    | 0 => some (.vamoaddF (fieldAt w 21 5) (fieldAt w 16 5) (fieldAt w 11 5) (fieldAt w 3 3) (fieldAt w 0 3))
    | 1 => some (.vamoadduF (fieldAt w 21 5) (fieldAt w 16 5) (fieldAt w 11 5) (fieldAt w 3 3) (fieldAt w 0 3))
    | _ => none
  | 2 =>
    match fieldAt w 6 2 with
    | 0 => some (.vamoswap (fieldAt w 21 5) (fieldAt w 16 5) (fieldAt w 11 5) (fieldAt w 3 3) (fieldAt w 0 3))
    | 1 => some (.vamoswapu (fieldAt w 21 5) (fieldAt w 16 5) (fieldAt w 11 5) (fieldAt w 3 3) (fieldAt w 0 3))
    | _ => none
  | 3 =>
    match fieldAt w 6 2 with
    | 0 => some (.vamomin (fieldAt w 21 5) (fieldAt w 16 5) (fieldAt w 11 5) (fieldAt w 3 3) (fieldAt w 0 3))
    | 1 => some (.vamominu (fieldAt w 21 5) (fieldAt w 16 5) (fieldAt w 11 5) (fieldAt w 3 3) (fieldAt w 0 3))
    | _ => none
  | 4 =>
    match fieldAt w 6 2 with
    | 0 => some (.vamomax (fieldAt w 21 5) (fieldAt w 16 5) (fieldAt w 11 5) (fieldAt w 3 3) (fieldAt w 0 3))
    | 1 => some (.vamomaxu (fieldAt w 21 5) (fieldAt w 16 5) (fieldAt w 11 5) (fieldAt w 3 3) (fieldAt w 0 3))
    | _ => none
  | 5 =>
    match fieldAt w 6 2 with
    | 0 => some (.vamoand (fieldAt w 21 5) (fieldAt w 16 5) (fieldAt w 11 5) (fieldAt w 3 3) (fieldAt w 0 3))
    | 1 => some (.vamoandu (fieldAt w 21 5) (fieldAt w 16 5) (fieldAt w 11 5) (fieldAt w 3 3) (fieldAt w 0 3))
    | _ => none
  | 6 =>
    match fieldAt w 6 2 with
    | 0 => some (.vamoor (fieldAt w 21 5) (fieldAt w 16 5) (fieldAt w 11 5) (fieldAt w 3 3) (fieldAt w 0 3))
    | 1 => some (.vamooru (fieldAt w 21 5) (fieldAt w 16 5) (fieldAt w 11 5) (fieldAt w 3 3) (fieldAt w 0 3))
    | _ => none
  | 7 =>
    match fieldAt w 6 2 with
    | 0 => some (.vamoxor (fieldAt w 21 5) (fieldAt w 16 5) (fieldAt w 11 5) (fieldAt w 3 3) (fieldAt w 0 3))
    | 1 => some (.vamoxoru (fieldAt w 21 5) (fieldAt w 16 5) (fieldAt w 11 5) (fieldAt w 3 3) (fieldAt w 0 3))
    | _ => none
  | _ => none

/-- Words of major 0x30 (MROW, MROWM, MROWX, MXRD, MXCLR), before the checks of `Instr.wf`. -/
def decodeMajor30 (w : Nat) : Option Instr :=
  match fieldAt w 0 3 with
  | 0 => if fieldAt w 12 4 = 0 ∧ fieldAt w 3 3 = 0 then some (.mrow (fieldAt w 21 5) (fieldAt w 16 5) (fieldAt w 11 1) (fieldAt w 6 5)) else none
  | 1 => if fieldAt w 12 4 = 0 ∧ fieldAt w 3 3 = 0 then some (.mrowm (fieldAt w 21 5) (fieldAt w 16 5) (fieldAt w 11 1) (fieldAt w 6 5)) else none
  | 2 => if fieldAt w 12 4 = 0 ∧ fieldAt w 3 3 = 0 then some (.mrowx (fieldAt w 21 5) (fieldAt w 16 5) (fieldAt w 11 1) (fieldAt w 6 5)) else none
  | 3 => if fieldAt w 12 4 = 0 ∧ fieldAt w 11 1 = 0 ∧ fieldAt w 3 3 = 0 then some (.mxrd (fieldAt w 21 5) (fieldAt w 16 5) (fieldAt w 6 5)) else none
  | 4 => if fieldAt w 22 4 = 0 ∧ fieldAt w 21 1 = 0 ∧ fieldAt w 12 4 = 0 ∧ fieldAt w 11 1 = 0 ∧ fieldAt w 6 5 = 0 ∧ fieldAt w 3 3 = 0 then some (.mxclr (fieldAt w 16 5)) else none
  | _ => none

/-- Words of major 0x31 (MTLOAD, CBLOAD), before the checks of `Instr.wf`. -/
def decodeMajor31 (w : Nat) : Option Instr :=
  match fieldAt w 0 3 with
  | 0 => if fieldAt w 22 4 = 0 ∧ fieldAt w 3 3 = 0 then some (.mtload (fieldAt w 21 1) (fieldAt w 16 5) (fieldAt w 11 5) (fieldAt w 6 5)) else none
  | 1 => if fieldAt w 22 4 = 0 ∧ fieldAt w 21 1 = 0 ∧ fieldAt w 12 4 = 0 ∧ fieldAt w 11 1 = 0 ∧ fieldAt w 6 5 = 0 ∧ fieldAt w 3 3 = 0 then some (.cbload (fieldAt w 16 5)) else none
  | _ => none

/-- Words of major 0x34 (COPY, COPYR_O, COPYR_U, COPY_Z, COPY_MIG), before the checks of `Instr.wf`. -/
def decodeMajor34 (w : Nat) : Option Instr :=
  match fieldAt w 0 8 with
  | 0 => some (.copy (fieldAt w 21 5) (fieldAt w 16 5) (fieldAt w 11 5) (fieldAt w 8 3))
  | 1 => some (.copyrO (fieldAt w 21 5) (fieldAt w 16 5) (fieldAt w 11 5) (fieldAt w 8 3))
  | 2 => some (.copyrU (fieldAt w 21 5) (fieldAt w 16 5) (fieldAt w 11 5) (fieldAt w 8 3))
  | 3 => some (.copyZ (fieldAt w 21 5) (fieldAt w 16 5) (fieldAt w 11 5) (fieldAt w 8 3))
  | 4 => some (.copyMig (fieldAt w 21 5) (fieldAt w 16 5) (fieldAt w 11 5) (fieldAt w 8 3))
  | _ => none

/-- Words of major 0x35 (PUSHQ, POPQ), before the checks of `Instr.wf`. -/
def decodeMajor35 (w : Nat) : Option Instr :=
  match fieldAt w 0 8 with
  | 0 => if fieldAt w 11 5 = 0 ∧ fieldAt w 8 3 = 0 then some (.pushq (fieldAt w 21 5) (fieldAt w 16 5)) else none
  | 1 => if fieldAt w 11 5 = 0 ∧ fieldAt w 8 3 = 0 then some (.popq (fieldAt w 21 5) (fieldAt w 16 5)) else none
  | _ => none

/-- Words of major 0x36 (VSEND, VRECV), before the checks of `Instr.wf`. -/
def decodeMajor36 (w : Nat) : Option Instr :=
  match fieldAt w 0 8 with
  | 0 => if fieldAt w 11 5 = 0 then some (.vsend (fieldAt w 21 5) (fieldAt w 16 5) (fieldAt w 8 3)) else none
  | 1 => if fieldAt w 11 5 = 0 ∧ fieldAt w 8 3 = 0 then some (.vrecv (fieldAt w 21 5) (fieldAt w 16 5)) else none
  | _ => none

/-- Words of major 0x37 (FRED, FREDW), before the checks of `Instr.wf`. -/
def decodeMajor37 (w : Nat) : Option Instr :=
  match fieldAt w 0 8 with
  | 0 => if fieldAt w 8 3 = 0 then some (.fred (fieldAt w 21 5) (fieldAt w 16 5) (fieldAt w 11 5)) else none
  | 1 => if fieldAt w 8 3 = 0 then some (.fredw (fieldAt w 21 5) (fieldAt w 16 5) (fieldAt w 11 5)) else none
  | _ => none

/-- Words of major 0x38 (LDSTAND_LATEST, LDSTAND_QUEUE, SLOTRD, UNSUB, STEPINV), before the checks of `Instr.wf`. -/
def decodeMajor38 (w : Nat) : Option Instr :=
  match fieldAt w 0 8 with
  | 0 => if fieldAt w 8 3 = 0 then some (.ldstandLatest (fieldAt w 21 5) (fieldAt w 16 5) (fieldAt w 11 5)) else none
  | 1 => if fieldAt w 8 3 = 0 then some (.ldstandQueue (fieldAt w 21 5) (fieldAt w 16 5) (fieldAt w 11 5)) else none
  | 2 => if fieldAt w 8 3 = 0 then some (.slotrd (fieldAt w 21 5) (fieldAt w 16 5) (fieldAt w 11 5)) else none
  | 3 => if fieldAt w 11 5 = 0 ∧ fieldAt w 8 3 = 0 then some (.unsub (fieldAt w 21 5) (fieldAt w 16 5)) else none
  | 4 => if fieldAt w 21 5 = 0 ∧ fieldAt w 16 5 = 0 ∧ fieldAt w 11 5 = 0 then some (.stepinv (fieldAt w 8 3)) else none
  | _ => none

/-- Words of major 0x39 (SMAX, SKTH, SWGT, STOPP, SDRAW, SDRAW_HW), before the checks of `Instr.wf`. -/
def decodeMajor39 (w : Nat) : Option Instr :=
  match fieldAt w 0 8 with
  | 0 => if fieldAt w 11 5 = 0 ∧ fieldAt w 8 3 = 0 then some (.smax (fieldAt w 21 5) (fieldAt w 16 5)) else none
  | 1 => if fieldAt w 8 3 = 0 then some (.skth (fieldAt w 21 5) (fieldAt w 16 5) (fieldAt w 11 5)) else none
  | 2 => if fieldAt w 8 3 = 0 then some (.swgt (fieldAt w 21 5) (fieldAt w 16 5) (fieldAt w 11 5)) else none
  | 3 => if fieldAt w 8 3 = 0 then some (.stopp (fieldAt w 21 5) (fieldAt w 16 5) (fieldAt w 11 5)) else none
  | 4 => if fieldAt w 8 3 = 0 then some (.sdraw (fieldAt w 21 5) (fieldAt w 16 5) (fieldAt w 11 5)) else none
  | 5 => if fieldAt w 8 3 = 0 then some (.sdrawHw (fieldAt w 21 5) (fieldAt w 16 5) (fieldAt w 11 5)) else none
  | _ => none

/-- Words of major 0x3a (PBIND, PAPP, PLD, PSYNC, PSTAT, PFREE), before the checks of `Instr.wf`. -/
def decodeMajor3A (w : Nat) : Option Instr :=
  match fieldAt w 0 8 with
  | 0 => if fieldAt w 11 5 = 0 ∧ fieldAt w 8 3 = 0 then some (.pbind (fieldAt w 21 5) (fieldAt w 16 5)) else none
  | 1 => if fieldAt w 8 3 = 0 then some (.papp (fieldAt w 21 5) (fieldAt w 16 5) (fieldAt w 11 5)) else none
  | 2 => if fieldAt w 8 3 = 0 then some (.pld (fieldAt w 21 5) (fieldAt w 16 5) (fieldAt w 11 5)) else none
  | 3 => if fieldAt w 21 5 = 0 ∧ fieldAt w 11 5 = 0 ∧ fieldAt w 8 3 = 0 then some (.psync (fieldAt w 16 5)) else none
  | 4 => if fieldAt w 11 5 = 0 ∧ fieldAt w 8 3 = 0 then some (.pstat (fieldAt w 21 5) (fieldAt w 16 5)) else none
  | 5 => if fieldAt w 21 5 = 0 ∧ fieldAt w 11 5 = 0 ∧ fieldAt w 8 3 = 0 then some (.pfree (fieldAt w 16 5)) else none
  | _ => none

/-- Words of major 0x3b (KVMAP, KVLD, KVLD_B, KVAPP, KVFORK, KVREL …), before the checks of `Instr.wf`. -/
def decodeMajor3B (w : Nat) : Option Instr :=
  match fieldAt w 0 8 with
  | 0 => if fieldAt w 8 3 = 0 then some (.kvmap (fieldAt w 21 5) (fieldAt w 16 5) (fieldAt w 11 5)) else none
  | 1 => if fieldAt w 8 3 = 0 then some (.kvld (fieldAt w 21 5) (fieldAt w 16 5) (fieldAt w 11 5)) else none
  | 2 => if fieldAt w 11 5 = 0 ∧ fieldAt w 8 3 = 0 then some (.kvldB (fieldAt w 21 5) (fieldAt w 16 5)) else none
  | 3 => if fieldAt w 8 3 = 0 then some (.kvapp (fieldAt w 21 5) (fieldAt w 16 5) (fieldAt w 11 5)) else none
  | 4 => if fieldAt w 21 5 = 0 ∧ fieldAt w 8 3 = 0 then some (.kvfork (fieldAt w 16 5) (fieldAt w 11 5)) else none
  | 5 => if fieldAt w 21 5 = 0 ∧ fieldAt w 11 5 = 0 ∧ fieldAt w 8 3 = 0 then some (.kvrel (fieldAt w 16 5)) else none
  | 6 => if fieldAt w 21 5 = 0 ∧ fieldAt w 8 3 = 0 then some (.kvcow (fieldAt w 16 5) (fieldAt w 11 5)) else none
  | 7 => if fieldAt w 21 5 = 0 ∧ fieldAt w 8 3 = 0 then some (.kvforkM (fieldAt w 16 5) (fieldAt w 11 5)) else none
  | _ => none

/-- Words of major 0x3c (FENCE_SV, FENCE_VS, FENCE_SVB, FENCE_REL, FENCE_ACQ, FENCE_ROW …), before the checks of `Instr.wf`. -/
def decodeMajor3C (w : Nat) : Option Instr :=
  match fieldAt w 0 8 with
  | 0 => if fieldAt w 21 5 = 0 ∧ fieldAt w 16 5 = 0 ∧ fieldAt w 11 5 = 0 then some (.fenceSv (fieldAt w 8 3)) else none
  | 1 => if fieldAt w 21 5 = 0 ∧ fieldAt w 16 5 = 0 ∧ fieldAt w 11 5 = 0 then some (.fenceVs (fieldAt w 8 3)) else none
  | 2 => if fieldAt w 21 5 = 0 ∧ fieldAt w 16 5 = 0 ∧ fieldAt w 11 5 = 0 then some (.fenceSvb (fieldAt w 8 3)) else none
  | 3 => if fieldAt w 21 5 = 0 ∧ fieldAt w 16 5 = 0 ∧ fieldAt w 11 5 = 0 then some (.fenceRel (fieldAt w 8 3)) else none
  | 4 => if fieldAt w 21 5 = 0 ∧ fieldAt w 16 5 = 0 ∧ fieldAt w 11 5 = 0 then some (.fenceAcq (fieldAt w 8 3)) else none
  | 5 => if fieldAt w 21 5 = 0 ∧ fieldAt w 16 5 = 0 ∧ fieldAt w 11 5 = 0 then some (.fenceRow (fieldAt w 8 3)) else none
  | 6 => if fieldAt w 21 5 = 0 ∧ fieldAt w 16 5 = 0 ∧ fieldAt w 11 5 = 0 then some (.vbar (fieldAt w 8 3)) else none
  | 7 => if fieldAt w 21 5 = 0 ∧ fieldAt w 16 5 = 0 ∧ fieldAt w 11 5 = 0 then some (.gbar (fieldAt w 8 3)) else none
  | _ => none

/-- Words of major 0x3d (CSRR, CSRW, CSRS, CSRC, CSRRW), before the checks of `Instr.wf`. -/
noncomputable def decodeMajor3D (w : Nat) : Option Instr :=
  match fieldAt w 12 4 with
  | 0 => if fieldAt w 16 5 = 0 then some (.csrr (fieldAt w 21 5) (fieldAt w 0 12)) else none
  | 1 => if fieldAt w 21 5 = 0 then some (.csrw (fieldAt w 16 5) (fieldAt w 0 12)) else none
  | 2 => if fieldAt w 21 5 = 0 then some (.csrs (fieldAt w 16 5) (fieldAt w 0 12)) else none
  | 3 => if fieldAt w 21 5 = 0 then some (.csrc (fieldAt w 16 5) (fieldAt w 0 12)) else none
  | 4 => some (.csrrw (fieldAt w 21 5) (fieldAt w 16 5) (fieldAt w 0 12))
  | _ => none

/-- Words of major 0x3e (HALT, YIELD, TRAP, ERET, GLAUNCH, FREPLAY …), before the checks of `Instr.wf`. -/
noncomputable def decodeMajor3E (w : Nat) : Option Instr :=
  match fieldAt w 0 8 with
  | 0 => if fieldAt w 21 5 = 0 ∧ fieldAt w 16 5 = 0 ∧ fieldAt w 11 5 = 0 ∧ fieldAt w 8 3 = 0 then some (.halt) else none
  | 1 => if fieldAt w 21 5 = 0 ∧ fieldAt w 16 5 = 0 ∧ fieldAt w 11 5 = 0 ∧ fieldAt w 8 3 = 0 then some (.yield) else none
  | 2 => if fieldAt w 8 3 = 0 then some (.trap (fieldAt w 11 15)) else none
  | 3 => if fieldAt w 21 5 = 0 ∧ fieldAt w 16 5 = 0 ∧ fieldAt w 11 5 = 0 ∧ fieldAt w 8 3 = 0 then some (.eret) else none
  | 4 => if fieldAt w 11 5 = 0 ∧ fieldAt w 8 3 = 0 then some (.glaunch (fieldAt w 21 5) (fieldAt w 16 5)) else none
  | 5 => if fieldAt w 21 5 = 0 ∧ fieldAt w 11 5 = 0 ∧ fieldAt w 8 3 = 0 then some (.freplay (fieldAt w 16 5)) else none
  | 6 => if fieldAt w 21 5 = 0 ∧ fieldAt w 11 5 = 0 ∧ fieldAt w 8 3 = 0 then some (.fconv (fieldAt w 16 5)) else none
  | 7 => if fieldAt w 21 5 = 0 ∧ fieldAt w 8 3 = 0 then some (.heatage (fieldAt w 16 5) (fieldAt w 11 5)) else none
  | 8 => if fieldAt w 21 5 = 0 ∧ fieldAt w 16 5 = 0 ∧ fieldAt w 11 5 = 0 ∧ fieldAt w 8 3 = 0 then some (.hstop) else none
  | _ => none

/-- The constructor and fields a word names, by its major opcode (R257), before the checks of `Instr.wf`. -/
noncomputable def decodeFields (w : Nat) : Option Instr :=
  match fieldAt w 26 6 with
  | 0x01 => decodeMajor01 w
  | 0x02 => decodeMajor02 w
  | 0x03 => decodeMajor03 w
  | 0x04 => decodeMajor04 w
  | 0x05 => decodeMajor05 w
  | 0x06 => decodeMajor06 w
  | 0x07 => decodeMajor07 w
  | 0x08 => decodeMajor08 w
  | 0x09 => decodeMajor09 w
  | 0x0a => decodeMajor0A w
  | 0x0b => decodeMajor0B w
  | 0x0c => decodeMajor0C w
  | 0x0d => decodeMajor0D w
  | 0x0e => decodeMajor0E w
  | 0x0f => decodeMajor0F w
  | 0x10 => decodeMajor10 w
  | 0x11 => decodeMajor11 w
  | 0x12 => decodeMajor12 w
  | 0x13 => decodeMajor13 w
  | 0x14 => decodeMajor14 w
  | 0x15 => decodeMajor15 w
  | 0x16 => decodeMajor16 w
  | 0x17 => decodeMajor17 w
  | 0x18 => decodeMajor18 w
  | 0x19 => decodeMajor19 w
  | 0x1a => decodeMajor1A w
  | 0x1b => decodeMajor1B w
  | 0x1c => decodeMajor1C w
  | 0x1d => decodeMajor1D w
  | 0x1e => decodeMajor1E w
  | 0x1f => decodeMajor1F w
  | 0x20 => decodeMajor20 w
  | 0x21 => decodeMajor21 w
  | 0x22 => decodeMajor22 w
  | 0x23 => decodeMajor23 w
  | 0x24 => decodeMajor24 w
  | 0x25 => decodeMajor25 w
  | 0x26 => decodeMajor26 w
  | 0x28 => decodeMajor28 w
  | 0x29 => decodeMajor29 w
  | 0x2a => decodeMajor2A w
  | 0x2b => decodeMajor2B w
  | 0x2c => decodeMajor2C w
  | 0x2d => decodeMajor2D w
  | 0x2e => decodeMajor2E w
  | 0x30 => decodeMajor30 w
  | 0x31 => decodeMajor31 w
  | 0x34 => decodeMajor34 w
  | 0x35 => decodeMajor35 w
  | 0x36 => decodeMajor36 w
  | 0x37 => decodeMajor37 w
  | 0x38 => decodeMajor38 w
  | 0x39 => decodeMajor39 w
  | 0x3a => decodeMajor3A w
  | 0x3b => decodeMajor3B w
  | 0x3c => decodeMajor3C w
  | 0x3d => decodeMajor3D w
  | 0x3e => decodeMajor3E w
  | _ => none

/-- The instruction a 32-bit word stands for; none when no table assigns it (R268). -/
noncomputable def decodeWord (w : Nat) : Option Instr :=
  match decodeFields w with
  | some i => if i.wf then some i else none
  | none => none

/-- Decode the first instruction of a byte list (little-endian words, R251); the rest of the list is returned. -/
noncomputable def decode : List Byte → Except DecodeError (Instr × List Byte)
  | b0 :: b1 :: b2 :: b3 :: rest =>
    let w := b0.toNat + b1.toNat * 2 ^ 8 + b2.toNat * 2 ^ 16 + b3.toNat * 2 ^ 24
    match decodeWord w with
    | some i => .ok (i, rest)
    | none => .error (.unassigned w)
  | _ => .error .tooShort

/-- The four bytes of a word as memory holds them, lowest address first (R251). -/
def wordBytes (w : Nat) : List Byte :=
  [BitVec.ofNat 8 w, BitVec.ofNat 8 (w / 2 ^ 8), BitVec.ofNat 8 (w / 2 ^ 16), BitVec.ofNat 8 (w / 2 ^ 24)]

/-- The instruction the decoder reads from a word whose bits are numbered as the opcode table numbers them. -/
noncomputable def decodeTableWord (nbits w : Nat) : Option Instr :=
  if nbits ≤ 32 then
    match decode (wordBytes (w % 2 ^ nbits)) with
    | .ok (i, _) => some i
    | .error _ => none
  else none

/-- A field value placed at bit lo. -/
def put (v lo : Nat) : Nat := v * 2 ^ lo

/-- The word of an instruction, from the tables of R257 to R267; an event has none. -/
def encode : Instr → Option Nat
  | .ldBHW d a w => some (0x3c000000 + put d 21 + put a 16 + put w 6)
  | .ldAcq d a s w => some (0x3c000010 + put d 21 + put a 16 + put s 8 + put w 6)
  | .ldBuHuWu d a w => some (0x3c000001 + put d 21 + put a 16 + put w 6)
  | .stBHW a b w => some (0x3c000002 + put a 16 + put b 11 + put w 6)
  | .stRel a b s w => some (0x3c000022 + put a 16 + put b 11 + put s 8 + put w 6)
  | .amoswap d a b s w o => some (0x3c000003 + put d 21 + put a 16 + put b 11 + put s 8 + put w 6 + put o 4)
  | .amoadd d a b s w o => some (0x3c000004 + put d 21 + put a 16 + put b 11 + put s 8 + put w 6 + put o 4)
  | .amoand d a b s w o => some (0x3c000005 + put d 21 + put a 16 + put b 11 + put s 8 + put w 6 + put o 4)
  | .amoor d a b s w o => some (0x3c000006 + put d 21 + put a 16 + put b 11 + put s 8 + put w 6 + put o 4)
  | .amoxor d a b s w o => some (0x3c000007 + put d 21 + put a 16 + put b 11 + put s 8 + put w 6 + put o 4)
  | .amomin d a b s w o => some (0x3c000008 + put d 21 + put a 16 + put b 11 + put s 8 + put w 6 + put o 4)
  | .amomax d a b s w o => some (0x3c000009 + put d 21 + put a 16 + put b 11 + put s 8 + put w 6 + put o 4)
  | .amominu d a b s w o => some (0x3c00000a + put d 21 + put a 16 + put b 11 + put s 8 + put w 6 + put o 4)
  | .amomaxu d a b s w o => some (0x3c00000b + put d 21 + put a 16 + put b 11 + put s 8 + put w 6 + put o 4)
  | .cas d a b s w o => some (0x3c00000c + put d 21 + put a 16 + put b 11 + put s 8 + put w 6 + put o 4)
  | .vsetl d a v => some (0x40000000 + put d 21 + put a 16 + v)
  | .vloop a => some (0x44000000 + put a 16)
  | .vnext => some (0x48000000)
  | .vsettl d a => some (0x4c000000 + put d 21 + put a 16)
  | .vsetmt m => some (0x50000000 + m)
  | .vdead a => some (0x54000000 + put a 16)
  | .icpf a i => some (0x58000000 + put a 16 + i)
  | .cwait k => some (0x5c000000 + k)
  | .vaddI d a b f m => some (0x60000000 + put d 21 + put a 16 + put b 11 + put f 6 + put m 3)
  | .vsubI d a b f m => some (0x60000001 + put d 21 + put a 16 + put b 11 + put f 6 + put m 3)
  | .vmulI d a b f m => some (0x60000002 + put d 21 + put a 16 + put b 11 + put f 6 + put m 3)
  | .vmulhI d a b f m => some (0x60000003 + put d 21 + put a 16 + put b 11 + put f 6 + put m 3)
  | .vminI d a b f m => some (0x60000004 + put d 21 + put a 16 + put b 11 + put f 6 + put m 3)
  | .vmaxI d a b f m => some (0x60000005 + put d 21 + put a 16 + put b 11 + put f 6 + put m 3)
  | .vmaccI d a b f m => some (0x60000006 + put d 21 + put a 16 + put b 11 + put f 6 + put m 3)
  | .vdivI d a b f m => some (0x60000007 + put d 21 + put a 16 + put b 11 + put f 6 + put m 3)
  | .vaddIS d a b f m => some (0x64000000 + put d 21 + put a 16 + put b 11 + put f 6 + put m 3)
  | .vsubIS d a b f m => some (0x64000001 + put d 21 + put a 16 + put b 11 + put f 6 + put m 3)
  | .vmulIS d a b f m => some (0x64000002 + put d 21 + put a 16 + put b 11 + put f 6 + put m 3)
  | .vmulhIS d a b f m => some (0x64000003 + put d 21 + put a 16 + put b 11 + put f 6 + put m 3)
  | .vminIS d a b f m => some (0x64000004 + put d 21 + put a 16 + put b 11 + put f 6 + put m 3)
  | .vmaxIS d a b f m => some (0x64000005 + put d 21 + put a 16 + put b 11 + put f 6 + put m 3)
  | .vmaccIS d a b f m => some (0x64000006 + put d 21 + put a 16 + put b 11 + put f 6 + put m 3)
  | .vdivIS d a b f m => some (0x64000007 + put d 21 + put a 16 + put b 11 + put f 6 + put m 3)
  | .vaddF d a b f m => some (0x68000000 + put d 21 + put a 16 + put b 11 + put f 6 + put m 3)
  | .vsubF d a b f m => some (0x68000001 + put d 21 + put a 16 + put b 11 + put f 6 + put m 3)
  | .vmulF d a b f m => some (0x68000002 + put d 21 + put a 16 + put b 11 + put f 6 + put m 3)
  | .vdivF d a b f m => some (0x68000003 + put d 21 + put a 16 + put b 11 + put f 6 + put m 3)
  | .vminF d a b f m => some (0x68000004 + put d 21 + put a 16 + put b 11 + put f 6 + put m 3)
  | .vmaxF d a b f m => some (0x68000005 + put d 21 + put a 16 + put b 11 + put f 6 + put m 3)
  | .vfmaF d a b f m => some (0x68000006 + put d 21 + put a 16 + put b 11 + put f 6 + put m 3)
  | .vsqrtF d a f m => some (0x68000007 + put d 21 + put a 16 + put f 6 + put m 3)
  | .vaddFS d a b f m => some (0x6c000000 + put d 21 + put a 16 + put b 11 + put f 6 + put m 3)
  | .vsubFS d a b f m => some (0x6c000001 + put d 21 + put a 16 + put b 11 + put f 6 + put m 3)
  | .vmulFS d a b f m => some (0x6c000002 + put d 21 + put a 16 + put b 11 + put f 6 + put m 3)
  | .vdivFS d a b f m => some (0x6c000003 + put d 21 + put a 16 + put b 11 + put f 6 + put m 3)
  | .vminFS d a b f m => some (0x6c000004 + put d 21 + put a 16 + put b 11 + put f 6 + put m 3)
  | .vmaxFS d a b f m => some (0x6c000005 + put d 21 + put a 16 + put b 11 + put f 6 + put m 3)
  | .vfmaFS d a b f m => some (0x6c000006 + put d 21 + put a 16 + put b 11 + put f 6 + put m 3)
  | .vand d a b m => some (0x70000000 + put d 21 + put a 16 + put b 11 + put m 3)
  | .vor d a b m => some (0x70000001 + put d 21 + put a 16 + put b 11 + put m 3)
  | .vxor d a b m => some (0x70000002 + put d 21 + put a 16 + put b 11 + put m 3)
  | .vnot d a m => some (0x70000003 + put d 21 + put a 16 + put m 3)
  | .vsll d a b m => some (0x70000004 + put d 21 + put a 16 + put b 11 + put m 3)
  | .vsrl d a b m => some (0x70000005 + put d 21 + put a 16 + put b 11 + put m 3)
  | .vsra d a b m => some (0x70000006 + put d 21 + put a 16 + put b 11 + put m 3)
  | .vandS d a b m => some (0x74000000 + put d 21 + put a 16 + put b 11 + put m 3)
  | .vorS d a b m => some (0x74000001 + put d 21 + put a 16 + put b 11 + put m 3)
  | .vxorS d a b m => some (0x74000002 + put d 21 + put a 16 + put b 11 + put m 3)
  | .vsllS d a b m => some (0x74000004 + put d 21 + put a 16 + put b 11 + put m 3)
  | .vsrlS d a b m => some (0x74000005 + put d 21 + put a 16 + put b 11 + put m 3)
  | .vsraS d a b m => some (0x74000006 + put d 21 + put a 16 + put b 11 + put m 3)
  | .vcmpeq d a b f m => some (0x78000000 + put d 21 + put a 16 + put b 11 + put f 6 + put m 3)
  | .vcmpne d a b f m => some (0x78000001 + put d 21 + put a 16 + put b 11 + put f 6 + put m 3)
  | .vcmplt d a b f m => some (0x78000002 + put d 21 + put a 16 + put b 11 + put f 6 + put m 3)
  | .vcmple d a b f m => some (0x78000003 + put d 21 + put a 16 + put b 11 + put f 6 + put m 3)
  | .vcmpgt d a b f m => some (0x78000004 + put d 21 + put a 16 + put b 11 + put f 6 + put m 3)
  | .vcmpge d a b f m => some (0x78000005 + put d 21 + put a 16 + put b 11 + put f 6 + put m 3)
  | .vcmpun d a b f m => some (0x78000006 + put d 21 + put a 16 + put b 11 + put f 6 + put m 3)
  | .vcmpeqS d a b f m => some (0x7c000000 + put d 21 + put a 16 + put b 11 + put f 6 + put m 3)
  | .vcmpneS d a b f m => some (0x7c000001 + put d 21 + put a 16 + put b 11 + put f 6 + put m 3)
  | .vcmpltS d a b f m => some (0x7c000002 + put d 21 + put a 16 + put b 11 + put f 6 + put m 3)
  | .vcmpleS d a b f m => some (0x7c000003 + put d 21 + put a 16 + put b 11 + put f 6 + put m 3)
  | .vcmpgtS d a b f m => some (0x7c000004 + put d 21 + put a 16 + put b 11 + put f 6 + put m 3)
  | .vcmpgeS d a b f m => some (0x7c000005 + put d 21 + put a 16 + put b 11 + put f 6 + put m 3)
  | .vcmpunS d a b f m => some (0x7c000006 + put d 21 + put a 16 + put b 11 + put f 6 + put m 3)
  | .mand d a b => some (0x80000000 + put d 21 + put a 16 + put b 11)
  | .mor d a b => some (0x80000001 + put d 21 + put a 16 + put b 11)
  | .mxor d a b => some (0x80000002 + put d 21 + put a 16 + put b 11)
  | .mandn d a b => some (0x80000003 + put d 21 + put a 16 + put b 11)
  | .mnot d a => some (0x80000004 + put d 21 + put a 16)
  | .mpopc d a => some (0x80000005 + put d 21 + put a 16)
  | .mfirst d a => some (0x80000006 + put d 21 + put a 16)
  | .vmerge d a b m => some (0x84000000 + put d 21 + put a 16 + put b 11 + put m 3)
  | .vmv d a m => some (0x84000001 + put d 21 + put a 16 + put m 3)
  | .vbcast d b m => some (0x84000002 + put d 21 + put b 11 + put m 3)
  | .vext d a b => some (0x84000003 + put d 21 + put a 16 + put b 11)
  | .vcvt d a f m => some (0x84000004 + put d 21 + put a 16 + put f 6 + put m 3)
  | .vclass d a f m => some (0x84000005 + put d 21 + put a 16 + put f 6 + put m 3)
  | .vrecpe d a f m => some (0x84000006 + put d 21 + put a 16 + put f 6 + put m 3)
  | .vexp2e d a f m => some (0x84000007 + put d 21 + put a 16 + put f 6 + put m 3)
  | .vsadd d a b f m => some (0x88000000 + put d 21 + put a 16 + put b 11 + put f 6 + put m 3)
  | .vssub d a b f m => some (0x88000001 + put d 21 + put a 16 + put b 11 + put f 6 + put m 3)
  | .vsmul d a b f m => some (0x88000002 + put d 21 + put a 16 + put b 11 + put f 6 + put m 3)
  | .vsmacc d a b f m => some (0x88000003 + put d 21 + put a 16 + put b 11 + put f 6 + put m 3)
  | .vssra d a b f m => some (0x88000004 + put d 21 + put a 16 + put b 11 + put f 6 + put m 3)
  | .vssrl d a b f m => some (0x88000005 + put d 21 + put a 16 + put b 11 + put f 6 + put m 3)
  | .vnclip d a b f m => some (0x88000006 + put d 21 + put a 16 + put b 11 + put f 6 + put m 3)
  | .vavg d a b f m => some (0x88000007 + put d 21 + put a 16 + put b 11 + put f 6 + put m 3)
  | .vsaddS d a b f m => some (0x8c000000 + put d 21 + put a 16 + put b 11 + put f 6 + put m 3)
  | .vssubS d a b f m => some (0x8c000001 + put d 21 + put a 16 + put b 11 + put f 6 + put m 3)
  | .vsmulS d a b f m => some (0x8c000002 + put d 21 + put a 16 + put b 11 + put f 6 + put m 3)
  | .vsmaccS d a b f m => some (0x8c000003 + put d 21 + put a 16 + put b 11 + put f 6 + put m 3)
  | .vssraS d a b f m => some (0x8c000004 + put d 21 + put a 16 + put b 11 + put f 6 + put m 3)
  | .vssrlS d a b f m => some (0x8c000005 + put d 21 + put a 16 + put b 11 + put f 6 + put m 3)
  | .vnclipS d a b f m => some (0x8c000006 + put d 21 + put a 16 + put b 11 + put f 6 + put m 3)
  | .vavgS d a b f m => some (0x8c000007 + put d 21 + put a 16 + put b 11 + put f 6 + put m 3)
  | .vredsumO d a b f m => some (0x90000000 + put d 21 + put a 16 + put b 11 + put f 6 + put m 3)
  | .vredsumU d a b f m => some (0x90000001 + put d 21 + put a 16 + put b 11 + put f 6 + put m 3)
  | .vredmin d a b f m => some (0x90000002 + put d 21 + put a 16 + put b 11 + put f 6 + put m 3)
  | .vredmax d a b f m => some (0x90000003 + put d 21 + put a 16 + put b 11 + put f 6 + put m 3)
  | .vredand d a b f m => some (0x90000004 + put d 21 + put a 16 + put b 11 + put f 6 + put m 3)
  | .vredor d a b f m => some (0x90000005 + put d 21 + put a 16 + put b 11 + put f 6 + put m 3)
  | .vredxor d a b f m => some (0x90000006 + put d 21 + put a 16 + put b 11 + put f 6 + put m 3)
  | .vscanO d a f m => some (0x94000000 + put d 21 + put a 16 + put f 6 + put m 3)
  | .vscanFast d a f m => some (0x94000001 + put d 21 + put a 16 + put f 6 + put m 3)
  | .viota d a m => some (0x94000002 + put d 21 + put a 16 + put m 3)
  | .vid d m => some (0x94000003 + put d 21 + put m 3)
  | .rnggen d a b m => some (0x94000004 + put d 21 + put a 16 + put b 11 + put m 3)
  | .vcompress d a m => some (0x94000005 + put d 21 + put a 16 + put m 3)
  | .vexpand d a m => some (0x94000006 + put d 21 + put a 16 + put m 3)
  | .vslideup d a b m => some (0x98000000 + put d 21 + put a 16 + put b 11 + put m 3)
  | .vslidedn d a b m => some (0x98000001 + put d 21 + put a 16 + put b 11 + put m 3)
  | .vslide1up d a b m => some (0x98000002 + put d 21 + put a 16 + put b 11 + put m 3)
  | .vslide1dn d a b m => some (0x98000003 + put d 21 + put a 16 + put b 11 + put m 3)
  | .vperm d a b m => some (0x98000004 + put d 21 + put a 16 + put b 11 + put m 3)
  | .xchg d a b => some (0x98000006 + put d 21 + put a 16 + put b 11)
  | .vld d a s m e => some (0xa0000000 + put d 21 + put a 16 + put s 8 + put m 3 + e)
  | .vldu d a s m e => some (0xa0000040 + put d 21 + put a 16 + put s 8 + put m 3 + e)
  | .vldf d a s m e => some (0xa0000080 + put d 21 + put a 16 + put s 8 + put m 3 + e)
  | .vst d a s m e => some (0xa4000000 + put d 21 + put a 16 + put s 8 + put m 3 + e)
  | .vstu d a s m e => some (0xa4000040 + put d 21 + put a 16 + put s 8 + put m 3 + e)
  | .vlds d a b s m e => some (0xa8000000 + put d 21 + put a 16 + put b 11 + put s 8 + put m 3 + e)
  | .vldsu d a b s m e => some (0xa8000040 + put d 21 + put a 16 + put b 11 + put s 8 + put m 3 + e)
  | .vldsf d a b s m e => some (0xa8000080 + put d 21 + put a 16 + put b 11 + put s 8 + put m 3 + e)
  | .vsts d a b s m e => some (0xac000000 + put d 21 + put a 16 + put b 11 + put s 8 + put m 3 + e)
  | .vstsu d a b s m e => some (0xac000040 + put d 21 + put a 16 + put b 11 + put s 8 + put m 3 + e)
  | .vldx d a b m e => some (0xb0000000 + put d 21 + put a 16 + put b 11 + put m 3 + e)
  | .vldxu d a b m e => some (0xb0000040 + put d 21 + put a 16 + put b 11 + put m 3 + e)
  | .vstx d a b m e => some (0xb4000000 + put d 21 + put a 16 + put b 11 + put m 3 + e)
  | .vstxu d a b m e => some (0xb4000040 + put d 21 + put a 16 + put b 11 + put m 3 + e)
  | .vamoaddI d a b m e => some (0xb8000000 + put d 21 + put a 16 + put b 11 + put m 3 + e)
  | .vamoadduI d a b m e => some (0xb8000040 + put d 21 + put a 16 + put b 11 + put m 3 + e)
  | .vamoaddF d a b m e => some (0xb8000100 + put d 21 + put a 16 + put b 11 + put m 3 + e)
  | .vamoadduF d a b m e => some (0xb8000140 + put d 21 + put a 16 + put b 11 + put m 3 + e)
  | .vamoswap d a b m e => some (0xb8000200 + put d 21 + put a 16 + put b 11 + put m 3 + e)
  | .vamoswapu d a b m e => some (0xb8000240 + put d 21 + put a 16 + put b 11 + put m 3 + e)
  | .vamomin d a b m e => some (0xb8000300 + put d 21 + put a 16 + put b 11 + put m 3 + e)
  | .vamominu d a b m e => some (0xb8000340 + put d 21 + put a 16 + put b 11 + put m 3 + e)
  | .vamomax d a b m e => some (0xb8000400 + put d 21 + put a 16 + put b 11 + put m 3 + e)
  | .vamomaxu d a b m e => some (0xb8000440 + put d 21 + put a 16 + put b 11 + put m 3 + e)
  | .vamoand d a b m e => some (0xb8000500 + put d 21 + put a 16 + put b 11 + put m 3 + e)
  | .vamoandu d a b m e => some (0xb8000540 + put d 21 + put a 16 + put b 11 + put m 3 + e)
  | .vamoor d a b m e => some (0xb8000600 + put d 21 + put a 16 + put b 11 + put m 3 + e)
  | .vamooru d a b m e => some (0xb8000640 + put d 21 + put a 16 + put b 11 + put m 3 + e)
  | .vamoxor d a b m e => some (0xb8000700 + put d 21 + put a 16 + put b 11 + put m 3 + e)
  | .vamoxoru d a b m e => some (0xb8000740 + put d 21 + put a 16 + put b 11 + put m 3 + e)
  | .mrow d a n f => some (0xc0000000 + put d 21 + put a 16 + put n 11 + put f 6)
  | .mrowm d a n f => some (0xc0000001 + put d 21 + put a 16 + put n 11 + put f 6)
  | .mrowx d a n f => some (0xc0000002 + put d 21 + put a 16 + put n 11 + put f 6)
  | .mxrd d a f => some (0xc0000003 + put d 21 + put a 16 + put f 6)
  | .mxclr a => some (0xc0000004 + put a 16)
  | .mtload n a b f => some (0xc4000000 + put n 21 + put a 16 + put b 11 + put f 6)
  | .cbload a => some (0xc4000001 + put a 16)
  | .copy a b c k => some (0xd0000000 + put a 21 + put b 16 + put c 11 + put k 8)
  | .copyrO a b c k => some (0xd0000001 + put a 21 + put b 16 + put c 11 + put k 8)
  | .copyrU a b c k => some (0xd0000002 + put a 21 + put b 16 + put c 11 + put k 8)
  | .copyZ a b c k => some (0xd0000003 + put a 21 + put b 16 + put c 11 + put k 8)
  | .copyMig a b c k => some (0xd0000004 + put a 21 + put b 16 + put c 11 + put k 8)
  | .pushq a b => some (0xd4000000 + put a 21 + put b 16)
  | .popq d b => some (0xd4000001 + put d 21 + put b 16)
  | .vsend a b m => some (0xd8000000 + put a 21 + put b 16 + put m 8)
  | .vrecv a b => some (0xd8000001 + put a 21 + put b 16)
  | .fred a b c => some (0xdc000000 + put a 21 + put b 16 + put c 11)
  | .fredw a b c => some (0xdc000001 + put a 21 + put b 16 + put c 11)
  | .ldstandLatest a b c => some (0xe0000000 + put a 21 + put b 16 + put c 11)
  | .ldstandQueue a b c => some (0xe0000001 + put a 21 + put b 16 + put c 11)
  | .slotrd a b c => some (0xe0000002 + put a 21 + put b 16 + put c 11)
  | .unsub a b => some (0xe0000003 + put a 21 + put b 16)
  | .stepinv s => some (0xe0000004 + put s 8)
  | .smax a b => some (0xe4000000 + put a 21 + put b 16)
  | .skth a b c => some (0xe4000001 + put a 21 + put b 16 + put c 11)
  | .swgt a b c => some (0xe4000002 + put a 21 + put b 16 + put c 11)
  | .stopp a b c => some (0xe4000003 + put a 21 + put b 16 + put c 11)
  | .sdraw a b c => some (0xe4000004 + put a 21 + put b 16 + put c 11)
  | .sdrawHw a b c => some (0xe4000005 + put a 21 + put b 16 + put c 11)
  | .pbind a b => some (0xe8000000 + put a 21 + put b 16)
  | .papp a b c => some (0xe8000001 + put a 21 + put b 16 + put c 11)
  | .pld a b c => some (0xe8000002 + put a 21 + put b 16 + put c 11)
  | .psync b => some (0xe8000003 + put b 16)
  | .pstat a b => some (0xe8000004 + put a 21 + put b 16)
  | .pfree b => some (0xe8000005 + put b 16)
  | .kvmap a b c => some (0xec000000 + put a 21 + put b 16 + put c 11)
  | .kvld a b c => some (0xec000001 + put a 21 + put b 16 + put c 11)
  | .kvldB a b => some (0xec000002 + put a 21 + put b 16)
  | .kvapp a b c => some (0xec000003 + put a 21 + put b 16 + put c 11)
  | .kvfork b c => some (0xec000004 + put b 16 + put c 11)
  | .kvrel b => some (0xec000005 + put b 16)
  | .kvcow b c => some (0xec000006 + put b 16 + put c 11)
  | .kvforkM b c => some (0xec000007 + put b 16 + put c 11)
  | .fenceSv s => some (0xf0000000 + put s 8)
  | .fenceVs s => some (0xf0000001 + put s 8)
  | .fenceSvb s => some (0xf0000002 + put s 8)
  | .fenceRel s => some (0xf0000003 + put s 8)
  | .fenceAcq s => some (0xf0000004 + put s 8)
  | .fenceRow s => some (0xf0000005 + put s 8)
  | .vbar s => some (0xf0000006 + put s 8)
  | .gbar s => some (0xf0000007 + put s 8)
  | .addi d a i => some (0x08000000 + put d 21 + put a 16 + i)
  | .ori d a i => some (0x0c000000 + put d 21 + put a 16 + i)
  | .lui d i => some (0x10000000 + put d 21 + i)
  | .j o => some (0x14000000 + o)
  | .jal o => some (0x18000000 + o)
  | .stD d a i => some (0x1c000000 + put d 21 + put a 16 + i)
  | .ldD d a i => some (0x2c000000 + put d 21 + put a 16 + i)
  | .beq a b o => some (0x20000000 + put a 21 + put b 16 + o)
  | .bne a b o => some (0x24000000 + put a 21 + put b 16 + o)
  | .blt a b o => some (0x28000000 + put a 21 + put b 16 + o)
  | .bge a b o => some (0x30000000 + put a 21 + put b 16 + o)
  | .bltu a b o => some (0x34000000 + put a 21 + put b 16 + o)
  | .bgeu a b o => some (0x38000000 + put a 21 + put b 16 + o)
  | .add d a b => some (0x04000000 + put d 21 + put a 16 + put b 11)
  | .sub d a b => some (0x04000001 + put d 21 + put a 16 + put b 11)
  | .and d a b => some (0x04000002 + put d 21 + put a 16 + put b 11)
  | .or d a b => some (0x04000003 + put d 21 + put a 16 + put b 11)
  | .xor d a b => some (0x04000004 + put d 21 + put a 16 + put b 11)
  | .sll d a b => some (0x04000005 + put d 21 + put a 16 + put b 11)
  | .srl d a b => some (0x04000006 + put d 21 + put a 16 + put b 11)
  | .sra d a b => some (0x04000007 + put d 21 + put a 16 + put b 11)
  | .slt d a b => some (0x04000008 + put d 21 + put a 16 + put b 11)
  | .sltu d a b => some (0x04000009 + put d 21 + put a 16 + put b 11)
  | .seq d a b => some (0x0400000a + put d 21 + put a 16 + put b 11)
  | .min d a b => some (0x0400000b + put d 21 + put a 16 + put b 11)
  | .max d a b => some (0x0400000c + put d 21 + put a 16 + put b 11)
  | .minu d a b => some (0x0400000d + put d 21 + put a 16 + put b 11)
  | .maxu d a b => some (0x0400000e + put d 21 + put a 16 + put b 11)
  | .mul d a b => some (0x04000010 + put d 21 + put a 16 + put b 11)
  | .mulh d a b => some (0x04000011 + put d 21 + put a 16 + put b 11)
  | .mulhu d a b => some (0x04000012 + put d 21 + put a 16 + put b 11)
  | .div d a b => some (0x04000013 + put d 21 + put a 16 + put b 11)
  | .divu d a b => some (0x04000014 + put d 21 + put a 16 + put b 11)
  | .rem d a b => some (0x04000015 + put d 21 + put a 16 + put b 11)
  | .remu d a b => some (0x04000016 + put d 21 + put a 16 + put b 11)
  | .clz d a => some (0x04000018 + put d 21 + put a 16)
  | .ctz d a => some (0x04000019 + put d 21 + put a 16)
  | .popc d a => some (0x0400001a + put d 21 + put a 16)
  | .jalr d a => some (0x04000020 + put d 21 + put a 16)
  | .slli d a n => some (0x04000040 + put d 21 + put a 16 + n)
  | .srli d a n => some (0x04000080 + put d 21 + put a 16 + n)
  | .srai d a n => some (0x040000c0 + put d 21 + put a 16 + n)
  | .csrr d n => some (0xf4000000 + put d 21 + n)
  | .csrw a n => some (0xf4001000 + put a 16 + n)
  | .csrs a n => some (0xf4002000 + put a 16 + n)
  | .csrc a n => some (0xf4003000 + put a 16 + n)
  | .csrrw d a n => some (0xf4004000 + put d 21 + put a 16 + n)
  | .halt => some (0xf8000000)
  | .yield => some (0xf8000001)
  | .trap i => some (0xf8000002 + put i 11)
  | .eret => some (0xf8000003)
  | .glaunch d a => some (0xf8000004 + put d 21 + put a 16)
  | .freplay a => some (0xf8000005 + put a 16)
  | .fconv a => some (0xf8000006 + put a 16)
  | .heatage a b => some (0xf8000007 + put a 16 + put b 11)
  | .hstop => some (0xf8000008)
  | .powerOn => none
  | .bringupStage _ => none
  | .deviceReset => none
  | .thermalWarning _ => none
  | .thermalCap _ => none
  | .thermalCapClear _ => none
  | .thermalTrip _ => none
  | .peakCurrentGuard _ => none
  | .lanesDecrease _ => none
  | .lanesIncrease _ => none
  | .pwrctlWrite _ => none
  | .pwrstatWrite _ => none
  | .thermstatWrite _ => none
  | .memoryRequest _ _ _ _ _ _ _ => none
  | .lineWriteback _ => none
  | .memerrWrite _ => none
  | .rowRepair _ _ _ _ => none
  | .spareCopyComplete _ => none
  | .machineCheck _ _ _ => none
  | .surftabWrite _ _ => none
  | .surfflushWrite _ _ => none
  | .surfflushComplete _ => none
  | .decompressRetry _ => none
  | .fabcfgWrite _ => none
  | .fabpartWrite _ _ => none
  | .fabpstatWrite _ _ => none
  | .flitReceive _ _ => none
  | .frameReplay _ _ => none
  | .portRetrain _ _ => none
  | .portDownTimeout _ => none
  | .remoteRequest _ _ _ _ _ _ _ _ _ _ => none
  | .fabricResponse _ _ _ _ => none
  | .fabricRequestTimeout _ => none
  | .treeInstall _ _ => none
  | .treeTeardownCommand _ _ => none
  | .reductionOperand _ _ _ _ _ _ => none
  | .reductionResult _ _ _ _ _ => none
  | .reductionTimeout _ _ => none
  | .teardownFlit _ _ _ => none
  | .hostMemRead _ _ => none
  | .hostMemWrite _ _ _ => none
  | .bisnpResponse _ => none
  | .launchPush _ _ _ => none
  | .gangCompletion _ => none
  | .msixUnmask _ _ => none
  | .vfcfgWrite _ _ _ => none
  | .vfReset _ => none
  | .vfResetComplete _ => none
  | .launchwinWrite _ => none
  | .launchstatWrite _ _ => none
  | .gangReset _ _ => none
  | .qosctxWrite _ _ _ => none
  | .l2PortServe _ => none
  | .lenderActive _ _ _ => none
  | .spillPoolRelend _ _ => none
  | .xlinvWrite _ _ => none
  | .xlinvComplete _ => none
  | .faultRecordWrite _ => none
  | .fqcfgWrite _ _ => none
  | .fqptrWrite _ _ => none
  | .hrangeWrite _ _ _ _ => none
  | .heatcfgWrite _ => none
  | .schedcfgWrite _ => none
  | .schedstatWrite _ => none
  | .gangPlace _ => none
  | .gangPreempt _ => none
  | .rowRestore _ _ => none
  | .budgetExhausted _ => none
  | .starvationPromote _ _ => none
  | .icacheFill _ _ _ => none
  | .vloopStripDeal _ _ => none
  | .savecfgWrite _ _ => none
  | .agateMerge _ _ => none
  | .kvpoolWrite _ _ => none
  | .kvmetaWrite _ _ => none
  | .kvpoolInitComplete _ => none
  | .timingErrorReplay _ => none
  | .oscntWrite _ => none
  | .frstatWrite _ _ => none
  | .subscriptionPush => none
  | .vsendArrival _ _ _ _ _ _ _ _ => none
  | .copyRetire _ _ => none
  | .fifoResult _ _ => none
  | .registerWrite _ _ _ => none
  | .rowDispatch _ _ => none
  | .illegalInstruction _ => none
  | .powerRemoval => none
  | .devtimeAdvance => none
  | .bucketAccrue _ => none
  | .linkTrained _ _ => none
  | .cxlPortDown _ => none
  | .cxlPortUp _ _ => none
  | .cxlCacheResponse _ _ _ => none

end Sys2Proof
end

