-- ==== Sys2Proof/Config.lean ====
section
/-! DEFINITION. What a part fixes and the manual does not state, as constants without a body: no proof can see their values. -/

namespace Sys2Proof.Config

/-- IDPART.MAJOR, the major stepping (R16 fixes no value; log 13, DEDUCED, safe). -/
opaque major : Nat → BitVec 8

/-- IDPART.MINOR, the minor stepping (R16 fixes no value; log 13, DEDUCED, safe). -/
opaque minor : Nat → BitVec 8

/-- IDSER.SERIAL, set at manufacture (R16; log 13, DEDUCED, safe). -/
opaque serial : Nat → Word

/-- The n-th free value the machine used: what the manual leaves open and a run goes on with (log 14, DESIGN CHOICE, safe). -/
opaque free : Nat → Word

/-- Byte i of an Agate slot that holds an item: data, FIRST, LAST, COUNT and stamp (R105 fixes no layout; log 11, DESIGN CHOICE, unsafe). -/
opaque agateSlot : BitVec 1024 → Word → Word → Nat → Nat → Nat → Byte

/-- Byte i of a queue image, of a progress table or of a token's progress record, by a number of the image saved
(R229 fixes no layout; log 11, DESIGN CHOICE, unsafe). -/
opaque imageByte : Nat → Nat → Byte

end Sys2Proof.Config
end

