-- ==== Sys2Proof/Machine/Bits.lean ====
section
/-! DEFINITION. Bit fields of registers and records, signed readings and byte order. -/

namespace Sys2Proof.Machine

/-- The n bits of x from bit lo. -/
def bits (x lo n : Nat) : Nat := (x >>> lo) % 2 ^ n

/-- Bit lo of x. -/
def bit (x lo : Nat) : Bool := bits x lo 1 == 1

/-- x with the n bits from bit lo replaced by v. -/
def setBits (x lo n v : Nat) : Nat :=
  x % 2 ^ lo + (v % 2 ^ n) * 2 ^ lo + (x >>> (lo + n)) * 2 ^ (lo + n)

/-- The n bits of a bit vector from bit lo, as a number. -/
def BF (x : BitVec w) (lo n : Nat) : Nat := bits x.toNat lo n

/-- Bit lo of a bit vector. -/
def BB (x : BitVec w) (lo : Nat) : Bool := bit x.toNat lo

/-- A word with the n bits from bit lo replaced by v. -/
def WS (x : Word) (lo n v : Nat) : Word := BitVec.ofNat 64 (setBits x.toNat lo n v)

/-- The number b of a Boolean. -/
def b2n (b : Bool) : Nat := if b then 1 else 0

/-- The signed value of the low w bits of x. -/
def sext (w x : Nat) : Int :=
  let y := x % 2 ^ w
  if w = 0 then 0 else if y < 2 ^ (w - 1) then y else (y : Int) - (2 ^ w : Nat)

/-- An integer modulo 2^w. -/
def wrapTo (w : Nat) (x : Int) : Nat := (x % ((2 ^ w : Nat) : Int)).toNat

/-- The little-endian value of a list of bytes (R164, R200). -/
def leVal : List Byte → Nat
  | [] => 0
  | b :: bs => b.toNat + 256 * leVal bs

/-- The n low bytes of x, lowest address first. -/
def leBytes : Nat → Nat → List Byte
  | 0, _ => []
  | n + 1, x => BitVec.ofNat 8 x :: leBytes n (x >>> 8)

/-- x divided by y, rounded up. -/
def ceilDiv (x y : Nat) : Nat := (x + y - 1) / y

/-- The number of ones among the low w bits of x. -/
def popcount : Nat → Nat → Nat
  | 0, _ => 0
  | w + 1, x => x % 2 + popcount w (x >>> 1)

/-- The position of the highest one of x plus 1; 0 for 0. -/
def bitLen (x : Nat) : Nat := if x = 0 then 0 else Nat.log2 x + 1

/-- Position of the lowest one of the low w bits of x; w when there is none. -/
def lowestOne (w x : Nat) : Nat :=
  match (List.range w).find? (fun i => bit x i) with
  | some i => i
  | none => w

/-- The sum of a list of numbers. -/
def sumN (l : List Nat) : Nat := l.foldl (· + ·) 0

end Sys2Proof.Machine
end

