-- ==== Sys2Proof/Machine/State.lean ====
section
/-! DEFINITION. The state of the device: everything the spec gives it, as plain data. INVENTORY.md lists the rule of every field. -/

namespace Sys2Proof.Machine

/-- Bytes by address: addresses strictly rising, no entry of value 0 (an unlisted address reads 0, log 1, DESIGN CHOICE, unsafe). -/
abbrev Memory := List Host.Cell

/-- The canonical form of a memory list. -/
def Memory.wf : Memory → Bool
  | [] => true
  | [c] => c.2 != 0
  | c :: d :: m => c.2 != 0 && decide (c.1 < d.1) && Memory.wf (d :: m)

/-- Why a step stops the machine. -/
inductive Fault where
  /-- Raised by `step` when the device has no power and no POWER_ON is pending (R15): nothing can move. Safe. -/
  | noPower
deriving DecidableEq, Repr

/-- Why an instruction has no meaning. -/
inductive Refusal where
  /-- Raised by no arm of this model: every row of the opcode table has its meaning. Safe. -/
  | notModelled (mnemonic : String)
deriving DecidableEq, Repr

/-- The outcome of a meaning. -/
abbrev Out (σ : Type) := Host.Outcome σ Fault Refusal

/-- The parts of a trap: code, sub-cause, raised by a queue entry, inside it, row, TVAL (R216, R220). -/
structure TrapInfo where
  code : Nat
  sub : Nat := 0
  vec : Bool := false
  mid : Bool := false
  row : Nat := 0
  val : Word := 0
  /-- address of the trapping vector instruction (R217) -/
  vpc : Word := 0
deriving DecidableEq, Repr

/-- A request parked for translation or at a Garnet fault (R89, R129): the open fault it stands under, and whether it
has been converted (R93). -/
structure Park where
  fid : Nat
  kv : Bool := false
  cause : Nat
  va : Word
  pos : Nat := 0
  conv : Bool := false
  /-- further open faults the same request waits for (R319) -/
  also : List Nat := []
deriving DecidableEq, Repr

/-- A 64-bit element in a FIFO or an arrival buffer, with its poison (R169, R353). -/
structure Elem where
  v : Word
  poison : Bool := false
deriving DecidableEq, Repr

/-- One queued operation (R158): the instruction, its address and what it captured at enqueue. -/
structure Op where
  i : Instr
  pc : Word
  sa : Elem
  sb : Elem
  sc : Elem
  sf : Elem
  vtype : BitVec 6
  vmt : BitVec 2
  vxrm : BitVec 2
  frm : BitVec 3
  hcr : BitVec 5
  apxq : BitVec 32
  /-- a word of an Agate combiner, which raises no poison fault (R112) -/
  comb : Bool := false
deriving DecidableEq, Repr

/-- The carry of a reduction or scan of a VLOOP body (R307): the word's place in the body, the STRIP that goes next, the
partial value and its poison; of the element that it starts from, the dead register it was read from and the reshuffles of that reading. -/
structure Carry where
  pos : Nat
  next : Nat
  acc : List Nat
  poison : Bool
  dead : Option Nat := none
  shuffles : Nat := 0
deriving DecidableEq, Repr

/-- A vector queue entry: an operation, or a VLOOP with its body (R162), or what a COPY placed (R346). -/
structure Entry where
  op : Op
  /-- the operations of a VLOOP body -/
  body : List Op := []
  /-- 0 the instruction itself, 1 the configuration entry of a COPY, 2 the mask entry of a COPY, 3 a VSETL entry -/
  sub : Nat := 0
  /-- VL of a configuration entry; the elements n of a VSETL or VLOOP -/
  n : Nat := 0
  /-- effective VLMAX fixed at the VSETL -/
  vlmax : Nat := 0
  /-- the loop of a VLOOP has begun (VLOOPN holds its count) -/
  started : Bool := false
  /-- carries of the reductions and scans of a VLOOP body -/
  carry : List Carry := []
  /-- FFLAGS bits that rows have raised in it, and the lowest of those rows (R189, R221) -/
  flags : Nat := 0
  flagRow : Nat := 64
  /-- rows in which it has been counted as a row of approximate mode (R194) -/
  count : Nat := 0
deriving DecidableEq, Repr

/-- Progress of the entry a row is inside (R223, R225, R226): index, completion mask, partial values. -/
structure Prog where
  k : Nat
  mask : BitVec 1024
  acc : List Nat
deriving DecidableEq, Repr

/-- A strip a row runs (R162): first element, length, and the body operation reached. -/
structure Strip where
  first : Nat
  vl : Nat
  pos : Nat
deriving DecidableEq, Repr

/-- A tile buffer (R330): state 0 EMPTY, 1 LOADING, 2 READY; tile rows in the memory form of R331, CB2 rows decoded to
64 codebook entries' values; scales by block. -/
structure Tile where
  state : Nat := 0
  scaled : Bool := false
  fmt : Nat := 0
  /-- (k, row bytes) of every committed tile row -/
  rows : List (Nat × Nat) := []
  /-- (block, scale bytes) -/
  scales : List (Nat × Nat) := []
deriving DecidableEq, Repr

/-- A row of a hart's tile (R159). -/
structure Row where
  v : Vector VReg 32
  vpoison : Vector (BitVec 128) 32
  /-- layout tag of each register: the element width of its last write, 0 before any (R164) -/
  vtag : Vector (BitVec 7) 32
  /-- m0 to m7; m0 reads all ones and is never written (R159) -/
  m : Vector (BitVec 1024) 8
  vl : BitVec 11
  vstart : BitVec 11
  strip : BitVec 40
  vdead : BitVec 32
  mtrow : BitVec 9
  ovf : BitVec 4
  mt0 : Tile
  mt1 : Tile
  /-- the global cluster the row holds; none while it is suspended (R163) -/
  cluster : Option Nat
  /-- the queue index the row executes next -/
  qdone : Nat
  prog : Option Prog
  run : Option Strip
  park : Option Park
  /-- DEVTIME since which the row has had a ready block, and whether it is promoted (R151) -/
  readySince : Nat
  promoted : Bool
  /-- list and entry that the row runs in a batch KVLD (R133) -/
  kvRun : Option (Nat × Nat) := none
  /-- its entry has stopped at an element of its own, and the trap waits for the hart's other rows (R221, R227) -/
  stuck : Bool := false
  /-- the line whose fetch by the block sequencer missed (R155) -/
  fetchWait : Option Nat := none
  /-- the grant that holds the row has reached it: at a VSETL or VLOOP, for a row that VSETTL adds (R163, R284) -/
  joined : Bool := true
deriving DecidableEq, Repr

/-- A copy in flight (R345 to R351). -/
structure CopyJob where
  mode : Nat
  dst : Word
  src : Word
  shape : BitVec 256
  n0 : Nat
  lo : Nat × Nat
  hi : Nat × Nat
  level : Nat
  /-- first element (or block) not yet issued -/
  t : Nat
  acc : List Nat
  flags : BitVec 5
  out : Nat
  raw : Nat
  park : Option Park
  /-- its place in the order of the copies of its core (R167) -/
  stamp : Nat
deriving DecidableEq, Repr

/-- A copy token (R346, R351): the copy in flight and the status word of the last one. -/
structure Token where
  job : Option CopyJob
  status : Word
deriving DecidableEq, Repr

/-- A command word in an input FIFO whose result is not due yet (R352, R378): the word, whether it asks for a token's
status, the tokens whose copies it waits for, and its result where that is known. -/
structure RawCmd where
  w : Word
  query : Bool
  after : List Nat
  res : Option Word
deriving DecidableEq, Repr

/-- A contribution accepted from a hart and not yet collected (R355). -/
structure FredRec where
  tree : Nat
  /-- 0 waiting, 1 result here, 2 torn down -/
  state : Nat
  data : Nat
  poison : Nat
  flags : BitVec 5
  /-- width of the tree's elements and bytes of its contributions -/
  width : Nat
  bytes : Nat
deriving DecidableEq, Repr

/-- A scalar store not yet performed at its home (R202, R208). -/
structure PendWrite where
  pa : Nat
  bytes : List Byte
  poison : Bool
  fn : Nat
  die : Nat
  /-- its L2 slice port has served it (R76) -/
  served : Bool
  /-- its place in the order of arrival at the port (R76) -/
  since : Nat
  /-- gang its sectors count for when it completes (R148) -/
  gang : Nat
deriving DecidableEq, Repr

/-- What is saved beside memory when a context is saved (R229): the parts whose bytes the spec does not lay out. -/
structure Image where
  /-- number of the image, which selects its opaque bytes -/
  id : Nat
  queue : List Entry
  qbase : Nat
  rows : List Row
  sp : BitVec 32
  vlSet : BitVec 11
  loopSince : Bool
  /-- the level the image holds -/
  level : Nat
  inq : Vector (List RawCmd) 4
  outq : Vector (List Elem) 4
  /-- status words of the copy tokens, none for one whose copy is in flight -/
  toks : List (Option Word)
  /-- rows counted since APXQ was written (R194) -/
  apxRow : Nat
  /-- causes of committed instructions that remain pending (R221) -/
  late : List TrapInfo := []
deriving DecidableEq, Repr

/-- A hart in a slot (R157). -/
structure Hart where
  id : Nat
  gang : Nat
  idx : Nat
  fn : Nat
  core : Nat
  slot : Nat
  level : Nat
  s : Vector Word 32
  sp : BitVec 32
  pc : Word
  vlmax : BitVec 11
  vtype : BitVec 6
  vmt : BitVec 2
  vloopn : BitVec 40
  vxsat : BitVec 1
  vxrm : BitVec 2
  frm : BitVec 3
  fflags : BitVec 5
  hcr : BitVec 5
  apxq : BitVec 32
  apxchk : BitVec 32
  slip : BitVec 32
  shufcnt : BitVec 32
  /-- VL of the home row as the latest VSETL sets it, and whether a VLOOP has been enqueued since (R346) -/
  vlSet : BitVec 11
  loopSince : Bool
  /-- rows counted since APXQ was written (R194) -/
  apxRow : Nat
  tcause : Word
  tval : Word
  tpc : Word
  tstatus : Word
  tvec : Word
  tprog : Word
  tscratch : Word
  rows : List Row
  queue : List Entry
  qbase : Nat
  /-- raw commands in q0 to q3 whose result is not due yet -/
  inq : Vector (List RawCmd) 4
  /-- q4 to q7 -/
  outq : Vector (List Elem) 4
  tokens : Vector Token 8
  cbt : Option (List Nat)
  scratch : Memory
  scratchPoison : List Nat
  slots : Vector (BitVec 512) 64
  /-- poison of the 8 doublewords of each slot -/
  slotPoison : BitVec 512
  /-- slots that head a QUEUE pair -/
  slotPairs : BitVec 64
  arrivals : List Elem
  freds : List FredRec
  wbuf : List PendWrite
  park : Option Park
  /-- the line whose instruction fetch missed (R155) -/
  fetchWait : Option Nat
  /-- running, halted (R387) or stopped (R389) -/
  halted : Bool
  stopped : Bool
  saved : Bool
  img : Option Image
  area : Nat
  /-- barriers arrived at, and whether the hart waits at the last of them (R382) -/
  gbarCount : Nat
  gbarWait : Bool
  /-- the GBAR that a trap interrupted while the hart waited there (R382) -/
  gbarAt : Option Word := none
  /-- addresses of the HEATAGE words whose ageing has been asked for and whose hart still waits (R385) -/
  ageAt : List Word := []
  /-- core cycles placed, in fifths of a cycle (R148) -/
  placedCyc : Nat
  stamp : Nat
  /-- failed decode attempts of the access in progress (R33) -/
  attempts : Nat
  /-- number of its placement (R152) -/
  placedSeq : Nat
  /-- a PSYNC that Agate has accepted and that waits: handle and accepted appends (R115) -/
  psyncAt : Option (Nat × Nat) := none
  /-- tree of a FRED that waits at the reduction port, and its place among the core's waiting FREDs (R167) -/
  fredAt : Option (Nat × Nat) := none
  /-- handle of a PLD or PAPP that Agate has accepted and not completed (R107) -/
  agateAt : Option Nat := none
  /-- handle of a PFREE that Agate has accepted and that waits for the commands before it (R107) -/
  pfreeAt : Option Nat := none
  /-- PARKED batch entries: list, entry, fault id (R135) -/
  kvParked : List (Nat × Nat × Nat) := []
  /-- causes of committed instructions that have still to be reported, oldest first (R221) -/
  late : List TrapInfo := []
deriving DecidableEq, Repr

/-- Where a gang stands (R149, R152). -/
inductive GangPhase where
  | queued
  | placed
  | preempted
  | done
deriving DecidableEq, Repr

/-- A gang the scheduler holds (R68, R148). -/
structure Gang where
  id : Nat
  fn : Nat
  /-- window line, or none for GLAUNCH -/
  line : Option Nat
  /-- virtual address of the record of a GLAUNCH, and the level of the issuer -/
  recVA : Word
  record : BitVec 512
  level : Nat
  phase : GangPhase
  accepted : Nat
  /-- DEVTIME since which the gang heads its queue -/
  headSince : Option Nat
  /-- hart-slot cycles, in fifths of a cycle (18 a nanosecond at 3.6 GHz) -/
  cyc : Nat
  bytes : Nat
  /-- status and TCAUSE of a stop (R69, R150) -/
  stop : Option (Nat × Nat)
  placedSeq : Nat
deriving DecidableEq, Repr

/-- The registers of one function's BAR0, index 0 the physical function (R63). -/
structure FnRegs where
  surftab : Word
  surfBusy : Bool
  surfPending : List Nat
  trapentry : Word
  savecfg : Word
  treestat : Word
  /-- addresses written to TREESET whose records the device has still to read (R54) -/
  treeWaiting : List Nat
  partial16 : BitVec 16
  gangBusy : Bool
  ptroot : Word
  xlBusy : Bool
  xlVA : Nat
  xlLog2n : Nat
  /-- XLINV writes that wait for BUSY = 0 (R87) -/
  xlWaiting : List Word
  fqcfg : Word
  fqHead : BitVec 16
  fqTail : BitVec 16
  fqWaiting : List (BitVec 256)
  kvpool : Word
  kvmeta : Word
  kvAlloc : BitVec 32
  kvBusy : Bool
  kvPark : Option Park
  frstat : Word
  vfcfg : BitVec 256
  qos : Vector Word 4
  hrange : Vector (BitVec 128) 4
  fabpart : Word
  msixMask : BitVec 16
  msixPend : BitVec 16
deriving DecidableEq, Repr

/-- The registers only the physical function has. -/
structure DevRegs where
  idstat : Word
  pwrctl : Word
  pwrstat : Word
  thermstat : Word
  devtime : Word
  memerr : Word
  rascap : Word
  oscnt : Word
  frametab : Word
  heatcfg : Word
  heatcnt : Vector Word 4
  fabcfg : Word
  fabpstat : Vector Word 20
  schedcfg : Word
  /-- SCHEDSTAT.PREEMPT; the other fields are views of the gangs -/
  preempt : BitVec 16
  launchwin : Word
deriving DecidableEq, Repr

/-- A line the LLC holds (R25, R33): slice, set and way, valid and dirty sectors, write generation. -/
structure LlcLine where
  line : Nat
  way : Nat
  valid : BitVec 4
  dirty : BitVec 4
  gen : BitVec 16
deriving DecidableEq, Repr

/-- A cached translation (R87). -/
structure TlbEntry where
  die : Nat
  fn : Nat
  page : Nat
  shift : Nat
  pte : Word
  pteAddr : Nat
deriving DecidableEq, Repr

/-- An open-fault entry of a die (R89): fault id, function, page and cause; Garnet faults never share. -/
structure OpenFault where
  fid : Nat
  fn : Nat
  page : Nat
  cause : Nat
  kv : Bool
deriving DecidableEq, Repr

/-- A 64-byte line of a die's instruction cache (R154). -/
structure ILine where
  die : Nat
  fn : Nat
  va : Nat
  bytes : List Byte
  poison : Bool
  /-- its page has U = 1, so that a user-level hart may use it (R80) -/
  user : Bool
deriving DecidableEq, Repr

/-- A read-only line of another device (R52). -/
structure RoLine where
  fn : Nat
  way : Nat
  addr : Nat
  /-- the sectors the line holds (R49) -/
  valid : BitVec 4
  bytes : List Byte
  poison : BitVec 4
deriving DecidableEq, Repr

/-- A cached surface record, and a decoded block kept by a die's L2 (R28, R33). -/
structure SurfRec where
  fn : Nat
  index : Nat
  record : BitVec 512
deriving DecidableEq, Repr

/-- A decoded block. -/
structure ApCopy where
  die : Nat
  fn : Nat
  index : Nat
  block : Nat
  bytes : List Byte
deriving DecidableEq, Repr

/-- A request that left the device (R49, R60): number, who waits, what, and its answer. -/
structure ExtReq where
  id : Nat
  hart : Nat
  /-- the unit of the hart that waits: 0 its scalar stream, 1 + r its row r, 65 + k its copy k, 100 a fetch -/
  agent : Nat
  /-- to host memory through CXL.cache rather than to another device -/
  host : Bool
  port : Nat
  addr : Nat
  len : Nat
  write : Bool
  data : Nat
  /-- poison of the sectors of the line that a write carries (R38) -/
  poison : BitVec 4
  /-- nibbles of its bytes that a write leaves alone: bit 2i and 2i + 1 for byte i (R200, R318) -/
  holes : Nat := 0
  /-- the answer of a read-only read may fill the read-only cache (R53) -/
  fill : Bool
  since : Nat
  /-- status of R51, data and poison of the sectors once answered -/
  reply : Option (Nat × Nat × BitVec 4)
deriving DecidableEq, Repr

/-- A request of another device that waits at its home for the host to give up the line (R27, R62). -/
structure RemReq where
  kind : Nat
  src : Nat
  part : Nat
  fn : Nat
  addr : Nat
  len : Nat
  data : Nat
  poison : BitVec 4
  half : Nat
  tag : Nat
deriving DecidableEq, Repr

/-- A write of the device's own that waits at its home for the host to give up the line (R62): bytes, with the MSI-X message that follows them, the HEAT of a frame
(R101), FHEAT of a leaf (R102). -/
inductive HomeOp where
  | bytes (a : Nat) (bs : List Byte) (irq : Option (Nat × Nat))
  | heat (frame : Nat) (age : Bool)
  | farHeat (pteAddr : Nat)
deriving DecidableEq, Repr

/-- A unit's requests at an L2 slice port (R76): port, context, who; the tokens that one needs which waits, 0 where none does, and its place in the
order of arrival. `live` while the unit's last move ended at this wait. -/
structure PortReq where
  port : Nat
  fn : Nat
  cls : Nat
  hart : Nat
  agent : Nat
  need : Nat
  order : Nat
  live : Bool
  /-- tokens paid for requests of the unit that its next attempt makes again (log 19) -/
  paid : Nat := 0
  /-- how many of them the attempt has used -/
  used : Nat := 0
deriving DecidableEq, Repr

/-- A subscription entry at a home (R357). -/
structure Sub where
  addr : Nat
  fn : Nat
  hart : Nat
  slot : Nat
  seq : Nat
  /-- device id when the line's home is another device -/
  dev : Option Nat
  /-- partition of a subscriber on another device, which its pushes carry (R45, R47) -/
  part : Nat := 0
deriving DecidableEq, Repr

/-- A push on its way to a slot (R358). -/
structure Push where
  hart : Nat
  slot : Nat
  value : Word
  poison : Bool
  seq : Nat
  /-- the subscriber's function and the subscribed address, which a push to another device names (R47) -/
  fn : Nat := 0
  addr : Nat := 0
  part : Nat := 0
deriving DecidableEq, Repr

/-- A completion record that the scheduler has still to write in a function's memory (R383), with the MSI-X message that follows it. -/
structure Cpl where
  id : Nat
  fn : Nat
  va : Nat
  record : BitVec 256
  irq : Option (Nat × Nat)
  park : Option Park := none
deriving DecidableEq, Repr

/-- A node of an installed tree (R56), with the operands it holds: per child data, poison mask and flags. -/
structure TreeNode where
  node : Nat
  parent : Nat
  root : Bool
  children : List Nat
  ops : List (Option (Nat × Nat × Nat))
  timer : Option Nat
deriving DecidableEq, Repr

/-- A reduction tree a function owns (R54). -/
structure Tree where
  id : Nat
  owner : Nat
  installed : Bool
  record : BitVec 512
  nodes : List TreeNode
deriving DecidableEq, Repr

/-- An item of a stream (R109). -/
structure Item where
  data : BitVec 1024
  poison : BitVec 128
  first : Word
  last : Word
  count : Nat
deriving DecidableEq, Repr

/-- A level of a stream: the ring index of its oldest item, its items oldest first, and its slots' stamps (R105). -/
structure Level where
  head : Nat
  items : List Item
  stamps : List Nat
deriving DecidableEq, Repr

/-- A bound stream (R106). -/
structure Stream where
  fn : Nat
  handle : Nat
  record : BitVec 512
  comb : List Nat
  levels : List Level
  appends : Nat
  sat : Bool
  flags : BitVec 5
  broken : Bool
  park : Option Park
deriving DecidableEq, Repr

/-- Repair state of the DRAM (R39). -/
structure Repair where
  /-- logical bank to spare -/
  bankMap : List (Nat × Nat)
  /-- (stack, sub-channel, bank, row) redirected to reserved row -/
  remaps : List ((Nat × Nat × Nat × Nat) × Nat)
  /-- (stack, sub-channel, bank) and post-package rows used -/
  ppr : List ((Nat × Nat × Nat) × Nat)
  /-- reserved rows in use, numbered from spare 8 downwards -/
  reserved : List Nat
  /-- corrected errors of rows, the least recently incremented first, at most 1,024 rows a stack -/
  errs : List ((Nat × Nat × Nat × Nat) × Nat)
  sparesUsed : List Nat
  /-- a stage 3 copy in flight: bank and spare -/
  copying : List (Nat × Nat)
  /-- retired (stack, sub-channel, bank, row) -/
  retired : List (Nat × Nat × Nat × Nat)
  retiredFrames : List Nat
deriving DecidableEq, Repr

/-- A token bucket, keyed by port, function and class, in steps of 1/1,024 token (R78). -/
structure Bucket where
  port : Nat
  fn : Nat
  cls : Nat
  fill : Nat
deriving DecidableEq, Repr

/-- A spill pool, keyed by port and class (R78). -/
structure Pool where
  port : Nat
  cls : Nat
  fill : Nat
  lending : Bool
  feeders : List Nat
  /-- mesh cycle at which a lender last had a waiting request -/
  lastBusy : Nat
deriving DecidableEq, Repr

/-- What the device sends out (R47, R62, R69, R71). -/
inductive Msg where
  | completion (port : Nat) (cpladdr : Nat) (record : BitVec 256)
  | msix (fn vector : Nat)
  | biSnp (line : Nat)
  | flit (port : Nat) (header : BitVec 128) (payload : Nat)
  | hostData (addr : Nat) (bytes : List Byte) (poison : BitVec 4)
deriving DecidableEq, Repr

/-- One move of the machine chosen from outside: issue an instruction of a hart, or an event. -/
inductive Move where
  | issue (hart : Nat)
  | event (i : Instr)
deriving DecidableEq, Repr

/-- The device. -/
structure State where
  powered : Bool
  dev : DevRegs
  fns : Vector FnRegs 65
  harts : List Hart
  gangs : List Gang
  mem : Memory
  poison : List Nat
  llc : List LlcLine
  plru : List (Nat × BitVec 15)
  fill : List (Nat × Nat)
  snoop : List Nat
  snoopWait : List Nat
  /-- the device's own writes and other devices' requests that wait for the host to give up a line (R62) -/
  homeWait : List HomeOp
  remWait : List RemReq
  repair : Repair
  tlb : List TlbEntry
  faults : List OpenFault
  icache : List ILine
  roCache : List RoLine
  surfRecs : List SurfRec
  apCopies : List ApCopy
  ext : List ExtReq
  subs : List Sub
  pushes : List Push
  /-- pushes of another home that have come before the hart has taken up the answer to its subscription (R357) -/
  early : List RemReq
  /-- completion records that the scheduler has still to write (R383) -/
  cpls : List Cpl
  /-- lines that hints have asked the fetch agents for: hart, die, line (R288) -/
  hints : List (Nat × Nat × Nat)
  buckets : List Bucket
  pools : List Pool
  portQ : List PortReq
  trees : List Tree
  /-- operands on their way to a node of this device: tree, node, child, data, poison, flags -/
  treeUp : List (Nat × Nat × Nat × Nat × Nat × Nat)
  /-- results on their way to a node or leaf of this device: tree, node, data, poison, flags -/
  treeDown : List (Nat × Nat × Nat × Nat × Nat)
  streams : List Stream
  portFails : Vector Nat 20
  portDown : Vector (Option Nat) 20
  /-- the last 64 flits each port sent, oldest first (R48) -/
  replay : Vector (List (BitVec 128 × Nat)) 20
  cxlUp : BitVec 4
  outbox : List Msg
  /-- pushes of window lines on their way to the scheduler: function, line, record (R65) -/
  launchQ : List (Nat × Nat × BitVec 512)
  /-- timing errors left in place, each for a product of a coming row of approximate mode (R195, log 25, DESIGN CHOICE, safe) -/
  leftErr : Nat
  /-- pool pages that Garnet has still to mark POISON: owner, page, and the open fault that the marking is parked under (R136) -/
  kvMarks : List (Nat × Nat × Option Nat)
  /-- sequences of functions under reset that Garnet has released from the physical function's pool (R140) -/
  kvDetached : List (Nat × Nat) := []
  /-- virtual functions under a function-level reset (R75) -/
  vfResetting : List Nat
  /-- a device reset is due once every gang has completed (R234) -/
  resetDue : Bool
  agenda : List Move
  /-- agents whose last move waited and that nothing has moved for since; the agent that moved last; agent moves made -/
  stalled : List Nat
  lastAgent : Nat
  agentMoves : Nat
  cur : Nat
  freeCtr : Nat
  issueCtr : Nat
  placeCtr : Nat
  reqCtr : Nat
  gangCtr : Nat
  hartCtr : Nat
  imgCtr : Nat
deriving DecidableEq, Repr

/-- The registers of a function at reset, as their rules give them. -/
def FnRegs.reset : FnRegs where
  surftab := 0
  surfBusy := false
  surfPending := []
  trapentry := 0
  savecfg := 0x80
  treestat := 0
  treeWaiting := []
  partial16 := 0
  gangBusy := false
  ptroot := 0
  xlBusy := false
  xlVA := 0
  xlLog2n := 0
  xlWaiting := []
  fqcfg := 0
  fqHead := 0
  fqTail := 0
  fqWaiting := []
  kvpool := 0x400
  kvmeta := 10
  kvAlloc := 0
  kvBusy := false
  kvPark := none
  frstat := 0
  vfcfg := 0
  qos := Vector.replicate 4 0x1_0100_0040
  hrange := Vector.replicate 4 0
  fabpart := 0
  msixMask := 0
  msixPend := 0

/-- The registers only the physical function has, at reset. -/
def DevRegs.reset : DevRegs where
  idstat := 0
  pwrctl := 4500
  pwrstat := 0x80
  thermstat := 0
  devtime := 0
  memerr := 0
  rascap := 0x1000_0009
  oscnt := 0
  frametab := 0
  heatcfg := 0x8_0000
  heatcnt := Vector.replicate 4 0
  fabcfg := 0x64_03FF_0000
  fabpstat := Vector.replicate 20 0x80
  schedcfg := 0x6400
  preempt := 0
  launchwin := 0

/-- No repair resource in use. -/
def Repair.reset : Repair where
  bankMap := []
  remaps := []
  ppr := []
  reserved := []
  errs := []
  sparesUsed := []
  copying := []
  retired := []
  retiredFrames := []

/-- The machine right after reset: power applied, bring-up not begun (STAGE 0, R15), every register at its reset
value, no hart, nothing in memory. -/
def State.reset : State where
  powered := true
  dev := DevRegs.reset
  fns := Vector.replicate 65 FnRegs.reset
  harts := []
  gangs := []
  mem := []
  poison := []
  llc := []
  plru := []
  fill := []
  snoop := []
  snoopWait := []
  homeWait := []
  remWait := []
  repair := Repair.reset
  tlb := []
  faults := []
  icache := []
  roCache := []
  surfRecs := []
  apCopies := []
  ext := []
  subs := []
  pushes := []
  early := []
  cpls := []
  hints := []
  buckets := []
  pools := []
  portQ := []
  trees := []
  treeUp := []
  treeDown := []
  streams := []
  portFails := Vector.replicate 20 0
  portDown := Vector.replicate 20 (some 0)
  replay := Vector.replicate 20 []
  cxlUp := 0xF
  outbox := []
  launchQ := []
  leftErr := 0
  kvMarks := []
  kvDetached := []
  vfResetting := []
  resetDue := false
  agenda := []
  stalled := []
  lastAgent := 0
  agentMoves := 0
  cur := 0
  freeCtr := 0
  issueCtr := 0
  placeCtr := 0
  reqCtr := 0
  gangCtr := 0
  hartCtr := 0
  imgCtr := 0

end Sys2Proof.Machine
end

