-- ==== Sys2Proof/Machine/Mem.lean ====
section
/-! DEFINITION. A byte memory in its canonical form, and a set of poisoned 16-byte sectors (R38). -/

namespace Sys2Proof.Machine

/-- What an address that memory does not list reads as (log 1, DESIGN CHOICE, unsafe). -/
def Memory.unlisted : Byte := 0

/-- The byte at an address. -/
def Memory.read1 (m : Memory) (a : Nat) : Byte :=
  match m.find? (fun c => c.1 == a) with
  | some c => c.2
  | none => Memory.unlisted

/-- The n bytes from an address. -/
def Memory.readN (m : Memory) (a n : Nat) : List Byte :=
  let w := m.filter (fun c => decide (a ≤ c.1) && decide (c.1 < a + n))
  (List.range n).map (fun i => Memory.read1 w (a + i))

/-- The cells that bytes from an address take: those that differ from an unlisted byte. -/
def Memory.cells : Nat → List Byte → Memory
  | _, [] => []
  | a, b :: bs => if b = Memory.unlisted then Memory.cells (a + 1) bs else (a, b) :: Memory.cells (a + 1) bs

/-- Memory with bytes written from an address. -/
def Memory.write (m : Memory) (a : Nat) (bs : List Byte) : Memory :=
  m.filter (fun c => decide (c.1 < a)) ++ Memory.cells a bs
    ++ m.filter (fun c => decide (a + bs.length ≤ c.1))

/-- The little-endian value of n bytes. -/
def Memory.readNat (m : Memory) (a n : Nat) : Nat := leVal (m.readN a n)

/-- A sorted set with x put in. -/
def setIns (l : List Nat) (x : Nat) : List Nat :=
  l.filter (fun y => decide (y < x)) ++ x :: l.filter (fun y => decide (x < y))

/-- A set with x taken out. -/
def setDel (l : List Nat) (x : Nat) : List Nat := l.filter (fun y => y != x)

/-- Does one of the sectors that n bytes from a touch carry poison? -/
def poisonedAt (p : List Nat) (a n : Nat) : Bool :=
  p.any (fun s => decide (a / 16 ≤ s) && decide (s * 16 < a + n))

/-- The poison of each of n bytes from a. -/
def poisonBits (p : List Nat) (a n : Nat) : List Bool :=
  let w := p.filter (fun s => decide (a / 16 ≤ s) && decide (s * 16 < a + n))
  (List.range n).map (fun i => w.contains ((a + i) / 16))

/-- The sectors that n bytes from a touch. -/
def sectorsOf (a n : Nat) : List Nat :=
  if n = 0 then [] else (List.range ((a + n - 1) / 16 - a / 16 + 1)).map (fun i => a / 16 + i)

/-- Poison after one write request of bytes from a with their poison (R38): a sector written whole takes the poison of
its bytes; a sector written in part keeps its own as well. -/
def poisonWrite (p : List Nat) (a : Nat) (ps : List Bool) : List Nat :=
  (sectorsOf a ps.length).foldl (fun p s =>
    let lo := if s * 16 < a then 0 else s * 16 - a
    let hi := min ps.length (s * 16 + 16 - a)
    let here := (ps.drop lo).take (hi - lo)
    let whole := decide (a ≤ s * 16) && decide (s * 16 + 16 ≤ a + ps.length)
    if here.any id then setIns p s
    else if whole then setDel p s else p) p

/-- Poison of sectors named by a granule field, at the byte address of sector 0. -/
def poisonSectors (p : List Nat) (base secs : Nat) : List Nat :=
  (List.range 4).foldl (fun p i => if bit secs i then poisonWrite p (base + 16 * i) (List.replicate 16 true) else p) p

end Sys2Proof.Machine
end

