-- ==== Sys2Proof/Machine/Base.lean ====
section
/-! DEFINITION. The way a meaning is written: a computation over the state that ends with a value, with a trap, with a wait that
changes nothing of the program, or with a request parked; and the accessors of harts, rows, gangs and functions. -/

namespace Sys2Proof.Machine

/-- Why a computation ends early. -/
inductive Stop where
  /-- a precise trap (R217) -/
  | trap (t : TrapInfo)
  /-- not ready: the instruction issues again (R157) -/
  | wait
  /-- a request parks (R89) -/
  | park (p : Park)
deriving DecidableEq, Repr

/-- A computation of a meaning. The state at an early end is kept: what was done before it stays done. -/
abbrev M := EStateM Stop State

/-- Stop with a trap of the scalar stream. -/
def trapM (code : Nat) (val : Word) (sub : Nat := 0) : M α := throw (.trap { code := code, val := val, sub := sub })

/-- Not ready. -/
def waitM : M α := throw .wait

/-- A guard: wait unless the condition holds. -/
def waitUnless (c : Bool) : M Unit := if c then pure () else waitM

/-- Messages that an attempt which waits has sent for good: requests that left the device, and lines asked back of the host. -/
def Msg.lasting : Msg → Bool
  | .flit _ _ _ => true
  | .biSnp _ => true
  | _ => false

/-- What an attempt that ends at a wait leaves of itself (R157): the requests it sent out, its places at the ports with the tokens it paid
there, and the lines it asked the host for; all else is as before it. -/
def State.waited (s t : State) : State :=
  { s with
    ext := s.ext ++ t.ext.filter (fun e => decide (s.reqCtr ≤ e.id))
    portQ := s.portQ.filter (fun r => !t.portQ.any (fun x => x.port == r.port && x.hart == r.hart && x.agent == r.agent)) ++ t.portQ
    buckets := t.buckets
    pools := t.pools
    snoopWait := t.snoopWait
    outbox := s.outbox ++ (t.outbox.drop s.outbox.length).filter Msg.lasting
    replay := t.replay
    reqCtr := t.reqCtr }

/-- An access as a whole: when it must wait it has done nothing, and what it has been answered so far it keeps. -/
def whole (x : M α) : M α := fun s =>
  match x s with
  | .error .wait t => .error .wait (s.waited t)
  | r => r

/-- Run a computation, keeping its early end as a value. -/
def attempt (x : M α) : M (Except Stop α) := fun s =>
  match x s with
  | .ok a s' => .ok (.ok a) s'
  | .error e s' => .ok (.error e) s'

/-! Functions, harts, rows and gangs. -/

/-- The registers of function f. -/
def State.fn (s : State) (f : Nat) : FnRegs := s.fns[f]?.getD FnRegs.reset

/-- Change the registers of function f. -/
def State.modFn (s : State) (f : Nat) (g : FnRegs → FnRegs) : State :=
  { s with fns := s.fns.setIfInBounds f (g (s.fn f)) }

/-- Change the physical function's own registers. -/
def State.modDev (s : State) (g : DevRegs → DevRegs) : State := { s with dev := g s.dev }

/-- The hart with number h. -/
def State.hart? (s : State) (h : Nat) : Option Hart := s.harts.find? (fun x => x.id == h)

/-- The hart whose instruction executes. -/
def State.curHart (s : State) : Option Hart := s.hart? s.cur

/-- Change the hart with number h. -/
def State.modHart (s : State) (h : Nat) (f : Hart → Hart) : State :=
  { s with harts := s.harts.map (fun x => if x.id == h then f x else x) }

/-- The gang with number g. -/
def State.gang? (s : State) (g : Nat) : Option Gang := s.gangs.find? (fun x => x.id == g)

/-- Change the gang with number g. -/
def State.modGang (s : State) (g : Nat) (f : Gang → Gang) : State :=
  { s with gangs := s.gangs.map (fun x => if x.id == g then f x else x) }

/-- Change the row of hart h with index r. -/
def State.modRow (s : State) (h r : Nat) (f : Row → Row) : State :=
  s.modHart h (fun x => { x with rows := x.rows.modify r f })

/-- Put a message out. -/
def State.send (s : State) (m : Msg) : State := { s with outbox := s.outbox ++ [m] }

/-- Raise an MSI-X vector of a function: sent, or pending while masked (R71); a function under reset sends nothing (R75). -/
def State.msix (s : State) (fn v : Nat) : State :=
  if s.vfResetting.contains fn then s
  else if BB (s.fn fn).msixMask v then
    s.modFn fn (fun g => { g with msixPend := g.msixPend ||| BitVec.ofNat 16 (2 ^ v) })
  else s.send (.msix fn v)

/-- A flit leaves a port, and the port's replay buffer keeps it (R48). -/
def State.sendFlit (s : State) (port : Nat) (header : BitVec 128) (payload : Nat) : State :=
  let old := (s.replay[port]?).getD []
  { s.send (.flit port header payload) with
    replay := s.replay.setIfInBounds port (old.drop (old.length - 63) ++ [(header, payload)]) }

/-- A unit of a hart ends an instruction: it waits for no answer and at no port any more. Writes that have left go on to their homes. -/
def State.settle (s : State) (hart agent : Nat) : State :=
  { s with
    ext := s.ext.filter (fun e => !(e.hart == hart && e.agent == agent && (!e.write || e.reply.isSome)))
    portQ := s.portQ.filter (fun r => !(r.hart == hart && r.agent == agent)) }

/-- A unit tries again: until it waits at a port once more, its place there holds nobody up; what it has paid for it does not pay again. -/
def State.retry (s : State) (hart agent : Nat) : State :=
  { s with portQ := s.portQ.map (fun (r : PortReq) => if r.hart == hart && r.agent == agent then { r with live := false, used := 0 } else r) }

/-- A unit has done a part that it does not do again: what comes pays afresh. -/
def progressed (agent : Nat) : M Unit := modify (fun s => s.settle s.cur agent)

/-- An instruction of a unit that asks for memory: its waits resume where they stood, and when it is done it waits for nothing more. -/
def asUnit (agent : Nat) (x : M α) : M α := do
  modify (fun s => s.retry s.cur agent)
  let r ← x
  modify (fun s => s.settle s.cur agent)
  pure r

/-- The compute die of a core (R4). -/
def dieOf (core : Nat) : Nat := core / 48

/-- A record's class, harts and other launch fields (R68). -/
def Gang.cls (g : Gang) : Nat := BF g.record 8 4
/-- DET of the record. -/
def Gang.det (g : Gang) : Bool := BB g.record 13
/-- Harts of the record. -/
def Gang.nharts (g : Gang) : Nat := BF g.record 16 12 + 1
/-- TLMIN of the record. -/
def Gang.tlmin (g : Gang) : Nat := BF g.record 32 7
/-- TLMAX of the record. -/
def Gang.tlmax (g : Gang) : Nat := BF g.record 40 7
/-- CPLADDR of the record: a host physical address divided by 64. -/
def Gang.cpladdr (g : Gang) : Nat := BF g.record 256 46
/-- BUDCYC of the record. -/
def Gang.budcyc (g : Gang) : Nat := BF g.record 320 32
/-- BUDBYTES of the record. -/
def Gang.budbytes (g : Gang) : Nat := BF g.record 352 32
/-- DEADLINE of the record. -/
def Gang.deadline (g : Gang) : Nat := BF g.record 384 32

/-- The class of a hart's gang. -/
def State.clsOf (s : State) (h : Hart) : Nat :=
  match s.gang? h.gang with
  | some g => g.cls
  | none => 3

/-! The current hart in a computation. -/

/-- The hart whose instruction executes; without one the instruction does nothing. -/
def theHart : M Hart := fun s =>
  match s.curHart with
  | some h => .ok h s
  | none => .error .wait s

/-- Change the current hart. -/
def modH (f : Hart → Hart) : M Unit := modify (fun s => s.modHart s.cur f)

/-- A row of the current hart. -/
def theRow (r : Nat) : M Row := do
  let h ← theHart
  match h.rows[r]? with
  | some x => pure x
  | none => waitM

/-- Change a row of the current hart. -/
def modR (r : Nat) (f : Row → Row) : M Unit := modify (fun s => s.modRow s.cur r f)

/-- The next free value (log 14, DESIGN CHOICE, safe). -/
def freeWord : M Word := do
  let s ← get
  set { s with freeCtr := s.freeCtr + 1 }
  pure (Config.free s.freeCtr)

/-! Scalar registers (R157, R272). -/

/-- Scalar register n: 0 for n = 0. -/
def Hart.rd (h : Hart) (n : Nat) : Word := if n = 0 then 0 else h.s[n]?.getD 0

/-- Poison of scalar register n. -/
def Hart.rdP (h : Hart) (n : Nat) : Bool := if n = 0 then false else h.sp.getLsbD n

/-- Write scalar register n; a write of s0 is discarded. -/
def Hart.wr (h : Hart) (n : Nat) (v : Word) (p : Bool := false) : Hart :=
  if n = 0 then h
  else { h with
    s := h.s.setIfInBounds n v
    sp := if p then h.sp ||| BitVec.ofNat 32 (2 ^ n) else h.sp &&& ~~~(BitVec.ofNat 32 (2 ^ n)) }

/-- The scalar register a queued operation will write (R158, R343). -/
def Op.dest : Op → Option Nat := fun o =>
  match o.i with
  | .vext d _ _ => some d
  | .mpopc d _ => some d
  | .mfirst d _ => some d
  | .vrecv _ b => some b
  | .fred _ _ c => some c
  | .fredw _ _ c => some c
  | .smax a _ => some a
  | .skth a _ _ => some a
  | .stopp a _ _ => some a
  | .sdraw a _ _ => some a
  | .sdrawHw a _ _ => some a
  | _ => none

/-- Queue entries that the home row has not executed. -/
def Hart.ahead (h : Hart) : List Entry :=
  match h.rows with
  | r :: _ => h.queue.drop (r.qdone - h.qbase)
  | [] => h.queue

/-- Does a queued entry still owe scalar register n its result (R158)? -/
def Hart.owed (h : Hart) (n : Nat) : Bool :=
  n != 0 && h.ahead.any (fun e => e.sub == 0 && e.op.dest == some n)

/-- Queued words that acquire when they complete (R362, R380). -/
def Op.acquires (o : Op) : Bool :=
  match o.i with
  | .vrecv _ _ => true
  | .fredw _ _ _ => true
  | .kvld _ _ _ => true
  | .kvldB _ _ => true
  | _ => false

/-- Later scalar accesses are performed only once an earlier word that acquires has completed (R362, R406). -/
def acquired : M Unit := do
  let h ← theHart
  waitUnless (!h.ahead.any (fun e => e.sub == 0 && e.op.acquires))

/-- A scalar register as an element, waiting for a queue entry that writes it. -/
def rdS (n : Nat) : M Elem := do
  let h ← theHart
  if h.owed n then waitM
  pure { v := h.rd n, poison := h.rdP n }

/-- A scalar register consumed (R38): poison traps with TVAL 0. -/
def useS (n : Nat) : M Word := do
  let x ← rdS n
  if x.poison then trapM 0x0D 0
  pure x.v

/-- A register whose poison is consumed once every check of a lower code has passed (R38, R221). -/
def consume (bad : Bool) : M Unit := if bad then trapM 0x0D 0 else pure ()

/-- Write a scalar register. -/
def wrS (n : Nat) (v : Word) (p : Bool := false) : M Unit := do
  let h ← theHart
  if h.owed n then waitM
  modH (fun h => h.wr n v p)

/-- The next instruction. -/
def Hart.advance (h : Hart) : Hart := { h with pc := h.pc + 4 }

/-- Go on with the next instruction. -/
def advance : M Unit := modH Hart.advance

end Sys2Proof.Machine
end

