-- ==== Sys2Proof/Machine/Home.lean ====
section
/-! DEFINITION. Device memory at its homes: the prime map, LLC lines, write commits with their pushes, tokens and access numbers. -/

namespace Sys2Proof.Machine

/-- The physical-address limit (R24). -/
def paLimit : Nat := 0xBF_2800_0000

/-- Logical bank and line slot of a line (R22). -/
def lineBank (line : Nat) : Nat := line % 2039
/-- The line slot W. -/
def lineSlot (line : Nat) : Nat := line / 2039

/-- Stack and index of a logical bank, by the default map or by a spare that has taken it (R23, R39). -/
def State.bankLoc (s : State) (b : Nat) : Nat × Nat :=
  match s.repair.bankMap.find? (fun x => x.1 == b) with
  | some x => (7 + x.2, 127)
  | none => (b % 16, b / 16)

/-- Stack, sub-channel, bank (bank group × 4 + bank) and DRAM row of a line (R24). -/
def State.lineLoc (s : State) (line : Nat) : Nat × Nat × Nat × Nat :=
  let p := s.bankLoc (lineBank line)
  let w := lineSlot line
  (p.1, p.2, (w % 4) * 4 + (w / 4) % 4, w / 512)

/-- The home slice of a line (R25). -/
def State.homeSlice (s : State) (line : Nat) : Nat :=
  let p := s.bankLoc (lineBank line)
  64 * (p.1 / 4) + p.2 % 64

/-- Slice and set of a line, as one key (R25). -/
def State.setKey (s : State) (line : Nat) : Nat :=
  let p := s.bankLoc (lineBank line)
  let set := (lineSlot line % 8192) ^^^ (((2 * (p.1 % 4) + p.2 / 64) % 8) * 1024)
  s.homeSlice line * 8192 + set

/-- Does the line lie in a retired row (R40)? -/
def State.retiredLine (s : State) (line : Nat) : Bool := s.repair.retired.contains (s.lineLoc line)

/-! Replacement: tree pseudo-LRU over 16 ways, nodes 0 to 14, a clear bit pointing left (R25). -/

/-- The victim below a node of the tree. -/
def plruVictim (t : BitVec 15) : Nat → Nat → Nat → Nat
  | 0, _, way => way
  | k + 1, node, way =>
    let r := b2n (BB t node)
    plruVictim t k (2 * node + 1 + r) (2 * way + r)

/-- The tree after a use of a way: every node on its path points away. -/
def plruUse (t : BitVec 15) (way : Nat) : BitVec 15 :=
  ((List.range 4).foldl (fun (p : Nat × BitVec 15) i =>
    let r := bits way (3 - i) 1
    (2 * p.1 + 1 + r, BitVec.ofNat 15 (setBits p.2.toNat p.1 1 (1 - r)))) (0, t)).2

/-- The tree of a set. -/
def State.tree (s : State) (key : Nat) : BitVec 15 :=
  match s.plru.find? (fun x => x.1 == key) with
  | some x => x.2
  | none => 0

/-- Note a use of a way. -/
def State.useWay (s : State) (key way : Nat) : State :=
  { s with plru := (key, plruUse (s.tree key) way) :: s.plru.filter (fun x => x.1 != key) }

/-- Ways of a set that hold a line. -/
def State.usedWays (s : State) (key : Nat) : List Nat :=
  (s.llc.filter (fun l => s.setKey l.line == key)).map LlcLine.way
    ++ (s.roCache.filter (fun l => s.setKey ((l.addr % 2 ^ 47) / 64) == key)).map RoLine.way

/-- The way a fill takes: the lowest free way, else the victim; a read-only fabric line takes ways 12 to 15 (R52). -/
def State.fillWay (s : State) (key : Nat) (ro : Bool) : Nat :=
  let lo := if ro then 12 else 0
  match ((List.range 16).filter (fun w => decide (lo ≤ w))).find? (fun w => !(s.usedWays key).contains w) with
  | some w => w
  | none => if ro then plruVictim (s.tree key) 2 6 3 else plruVictim (s.tree key) 4 0 0

/-- Free a way of a set, dropping the line it holds; memory holds its bytes already. -/
def State.dropWay (s : State) (key way : Nat) : State :=
  { s with
    llc := s.llc.filter (fun l => !(s.setKey l.line == key && l.way == way))
    roCache := s.roCache.filter (fun l => !(s.setKey ((l.addr % 2 ^ 47) / 64) == key && l.way == way)) }

/-- Running fill count of a slice (R33). -/
def State.fillCount (s : State) (slice : Nat) : Nat :=
  match s.fill.find? (fun x => x.1 == slice) with
  | some x => x.2
  | none => 0

/-- Bring sectors of a line into its slice (R25, R33): a new line takes the slice's fill count as its generation. -/
def State.llcTouch (s : State) (line secs : Nat) : State :=
  let key := s.setKey line
  match s.llc.find? (fun l => l.line == line) with
  | some l =>
    { s with llc := s.llc.map (fun (x : LlcLine) => if x.line == line
        then { x with valid := x.valid ||| BitVec.ofNat 4 secs } else x) }.useWay key l.way
  | none =>
    let w := s.fillWay key false
    let s := (s.dropWay key w).useWay key w
    let slice := s.homeSlice line
    let g := s.fillCount slice
    { s with
      llc := { line := line, way := w, valid := BitVec.ofNat 4 secs, dirty := 0, gen := BitVec.ofNat 16 g } :: s.llc
      fill := (slice, (g + 1) % 65536) :: s.fill.filter (fun x => x.1 != slice) }

/-- The write generation of a line (R33): a line the slice does not hold has that of its next fill. -/
def State.lineGen (s : State) (line : Nat) : Nat :=
  match s.llc.find? (fun l => l.line == line) with
  | some l => l.gen.toNat
  | none => s.fillCount (s.homeSlice line)

/-- The granule field of n bytes from a, within one line (R20). -/
def granules (a n : Nat) : Nat :=
  (List.range 4).foldl (fun g i =>
    let lo := a / 64 * 64 + 16 * i
    if decide (lo < a + n) && decide (a < lo + 16) then g + 2 ^ i else g) 0

/-- Cut bytes from an address at line boundaries. -/
def cutLines (fuel : Nat) (a : Nat) (l : List α) : List (Nat × List α) :=
  match fuel with
  | 0 => []
  | k + 1 =>
    if l.isEmpty then [] else
    let n := 64 - a % 64
    (a, l.take n) :: cutLines k (a + n) (l.drop n)

/-- All the lines that bytes from an address touch. -/
def linePieces (a : Nat) (l : List α) : List (Nat × List α) := cutLines (l.length / 64 + 2) a l

/-- One write request to a line commits at its home (R27, R33, R38, R40): the runs of bytes it writes, poison, generation,
and one push to every subscription of the line. -/
def State.commitLine (alloc : Bool) (s : State) (line : Nat) (runs : List (Nat × List (Byte × Bool))) : State :=
  if s.retiredLine line then s else
  let g := runs.foldl (fun (g : Nat) (x : Nat × List (Byte × Bool)) => g ||| granules x.1 x.2.length) 0
  let s := if alloc || s.llc.any (fun l => l.line == line) then s.llcTouch line g else s
  let s := { s with
    mem := runs.foldl (fun (m : Memory) (x : Nat × List (Byte × Bool)) => m.write x.1 (x.2.map Prod.fst)) s.mem
    poison := runs.foldl (fun (p : List Nat) (x : Nat × List (Byte × Bool)) => poisonWrite p x.1 (x.2.map Prod.snd)) s.poison
    llc := s.llc.map (fun (l : LlcLine) => if l.line == line
      then { l with gen := l.gen + 1, dirty := l.dirty ||| BitVec.ofNat 4 g } else l) }
  let mine := s.subs.filter (fun u => u.dev.isNone && u.addr / 64 == line)
  { s with
    subs := s.subs.map (fun (u : Sub) => if u.dev.isNone && u.addr / 64 == line then { u with seq := u.seq + 1 } else u)
    pushes := s.pushes ++ mine.map (fun (u : Sub) =>
      ({ hart := u.hart, slot := u.slot, value := BitVec.ofNat 64 (s.mem.readNat u.addr 8),
         poison := poisonedAt s.poison u.addr 8, seq := u.seq + 1, fn := u.fn, addr := u.addr, part := u.part } : Push)) }

/-- One write of consecutive bytes of a line commits. -/
def State.commitPiece (alloc : Bool) (s : State) (x : Nat × List (Byte × Bool)) : State :=
  s.commitLine alloc (x.1 / 64) [x]

/-- A write of bytes with their poison commits at its homes, one request a line. -/
def State.commitWrite (s : State) (a : Nat) (bs : List Byte) (ps : List Bool) (alloc : Bool := true) : State :=
  (linePieces a (bs.zip ps)).foldl (State.commitPiece alloc) s

/-- Bytes and poison that a read of the homes returns; a retired row reads as poison (R40). -/
def State.homeBytes (s : State) (a n : Nat) : List Byte × List Bool :=
  let ps := poisonBits s.poison a n
  (s.mem.readN a n,
    if s.repair.retired.isEmpty then ps
    else (List.range n).zip ps |>.map (fun x => x.2 || s.retiredLine ((a + x.1) / 64)))

/-- A read allocates its lines in the LLC unless it is non-caching (R26). -/
def State.touchRead (s : State) (a n : Nat) (alloc : Bool) : State :=
  if alloc then (linePieces a (List.replicate n ())).foldl (fun s x => s.llcTouch (x.1 / 64) (granules x.1 x.2.length)) s
  else s

/-- Read at the homes. -/
def homeRead (a n : Nat) (alloc : Bool := true) : M (List Byte × List Bool) := do
  let s ← get
  if paLimit < a + n then trapM 0x09 (BitVec.ofNat 64 a)
  set (s.touchRead a n alloc)
  pure (s.homeBytes a n)

/-- The lines that n bytes from a touch and that the host may cache (R62). -/
def State.heldLines (s : State) (a n : Nat) : List Nat :=
  ((linePieces a (List.replicate n ())).map (fun x => x.1 / 64)).filter (fun l => s.snoop.contains l)

/-- A BISnp for each line of a list that none is out for (R62). -/
def State.askHost (s : State) (lines : List Nat) : State :=
  let new := lines.filter (fun l => !s.snoopWait.contains l)
  { s with snoopWait := s.snoopWait ++ new, outbox := s.outbox ++ new.map Msg.biSnp }

/-- Wait while the host may cache a line that is to be written (R62). -/
def snoopClear (a n : Nat) : M Unit := do
  let s ← get
  let held := s.heldLines a n
  if !held.isEmpty then
    set (s.askHost held)
    waitM

/-- Write at the homes (R27, R62): a line the host may cache waits until the host has answered a back-invalidation. -/
def homeWrite (a : Nat) (bs : List Byte) (ps : List Bool) (alloc : Bool := true) : M Unit := do
  if paLimit < a + bs.length then trapM 0x09 (BitVec.ofNat 64 a)
  snoopClear a bs.length
  modify (fun s => s.commitWrite a bs ps alloc)

/-! Writes of the device's own: context images, heat, owners (R62, R101, R102, R229). -/

/-- Address of the frame-table entry of a frame (R99). -/
def State.frameEntry (s : State) (frame : Nat) : Nat := BF s.dev.frametab 21 26 * 2 ^ 21 + 2 * frame

/-- The bytes such a write touches: address and length. -/
def State.homeOpSpan (s : State) : HomeOp → Nat × Nat
  | .bytes a bs _ => (a, bs.length)
  | .heat frame _ => (s.frameEntry frame, 1)
  | .farHeat a => (a, 8)

/-- The write itself, one atomic at its home: HEAT and FHEAT saturate (R101 to R103). -/
def State.homeOpRun (s : State) : HomeOp → State
  | .bytes a bs irq =>
    let s := s.commitWrite a bs (List.replicate bs.length false)
    match irq with
    | some v => s.msix v.1 v.2
    | none => s
  | .heat frame age =>
    let a := s.frameEntry frame
    let h := s.mem.readNat a 1
    s.commitWrite a [BitVec.ofNat 8 (if age then h / 2 else min 255 (h + 1))] [false]
  | .farHeat a =>
    let e := s.mem.readNat a 8
    s.commitWrite a (leBytes 8 (setBits e 57 7 (min 127 (bits e 57 7 + 1)))) (List.replicate 8 false)

/-- Do two ranges of bytes share a line? -/
def shareLine (x y : Nat × Nat) : Bool :=
  decide (x.1 / 64 * 64 < y.1 + y.2) && decide (y.1 / 64 * 64 < x.1 + x.2)

/-- A write of the device's own commits, or waits behind the host's answer and behind earlier ones of its lines. -/
def State.homeOp (s : State) (op : HomeOp) : State :=
  let span := s.homeOpSpan op
  let held := s.heldLines span.1 span.2
  if held.isEmpty && !s.homeWait.any (fun o => shareLine (s.homeOpSpan o) span) then s.homeOpRun op
  else { s with homeWait := s.homeWait ++ [op] }.askHost held

/-- The waiting writes try again, in order. -/
def State.homeRetry (s : State) : State := s.homeWait.foldl State.homeOp { s with homeWait := [] }

/-- Does a write of the device's own still wait for a line that n bytes from a touch? -/
def State.homeBusy (s : State) (a n : Nat) : Bool := s.homeWait.any (fun o => shareLine (s.homeOpSpan o) (a, n))

/-! Tokens at the L2 slice ports (R76 to R78). One port a die (log 19, DESIGN CHOICE, safe). -/

/-- The port a die's request for a line uses. -/
def l2Port (die _line : Nat) : Nat := die

/-- QOSCTX of a context. -/
def State.qosctx (s : State) (fn cls : Nat) : Word := (s.fn fn).qos[cls]?.getD 0

/-- The fill of a bucket, in steps of 1/1,024 token; a bucket no request has used is full (log 18, DESIGN CHOICE, unsafe). -/
def State.bucketFill (s : State) (port fn cls : Nat) : Nat :=
  match s.buckets.find? (fun b => b.port == port && b.fn == fn && b.cls == cls) with
  | some b => b.fill
  | none => BF (s.qosctx fn cls) 16 16 * 1024

/-- Set the fill of a bucket. -/
def State.setBucket (s : State) (port fn cls fill : Nat) : State :=
  { s with buckets := { port := port, fn := fn, cls := cls, fill := fill } ::
      s.buckets.filter (fun b => !(b.port == port && b.fn == fn && b.cls == cls)) }

/-- The fill of a spill pool that lends; 0 otherwise. -/
def State.poolFill (s : State) (port cls : Nat) : Nat :=
  match s.pools.find? (fun b => b.port == port && b.cls == cls) with
  | some b => if b.lending then b.fill else 0
  | none => 0

/-- Take up to n steps from the pools of the listed classes, in order; what is still missing is returned. -/
def State.takePools (s : State) (port : Nat) : List Nat → Nat → State × Nat
  | [], n => (s, n)
  | c :: cs, n =>
    let t := min n (s.poolFill port c)
    let s := { s with pools := s.pools.map (fun (b : Pool) =>
      if b.port == port && b.cls == c then { b with fill := b.fill - t } else b) }
    s.takePools port cs (n - t)

/-- Mesh cycles since the start of device time: 2.4 a nanosecond (R7). -/
def State.meshCycles (s : State) : Nat := 12 * s.dev.devtime.toNat / 5

/-- A context has a request at a port: each pool that its bucket fed stops lending and is emptied (R78). -/
def State.lenderActive (s : State) (port fn cls : Nat) : State :=
  { s with pools := s.pools.map (fun (p : Pool) =>
    if p.port == port && p.cls == cls && p.feeders.contains fn then { p with lending := false, fill := 0, lastBusy := s.meshCycles } else p) }

/-- The state after n tokens are paid, or none while the context lacks them (R76, R78). -/
def State.pay (s : State) (port fn cls n : Nat) : Option State :=
  let have_ := s.bucketFill port fn cls
  if n * 1024 ≤ have_ then some (s.setBucket port fn cls (have_ - n * 1024))
  else if BB (s.qosctx fn cls) 32 then
    let own := have_ / 1024 * 1024
    let r := s.takePools port ([3, 2, 1, 0].filter (fun c => decide (cls ≤ c))) (n * 1024 - own)
    if r.2 = 0 then some (r.1.setBucket port fn cls (have_ - own)) else none
  else none

/-- Sectors that n bytes from a name. -/
def sectorCount (a n : Nat) : Nat := (sectorsOf a n).length

/-- The requests that wait at a port: the oldest store of each write buffer, and those of other units (R76). -/
def State.portWaiting (s : State) (port : Nat) : List PortReq :=
  s.harts.filterMap (fun h =>
    match h.wbuf.find? (fun w => !w.served) with
    | some w => if l2Port w.die (w.pa / 64) == port then
        some { port := port, fn := w.fn, cls := s.clsOf h, hart := h.id, agent := 1000, need := sectorCount w.pa w.bytes.length, order := w.since, live := true }
      else none
    | none => none)
  ++ s.portQ.filter (fun r => r.port == port && r.live)

/-- Does a request that waits at a port and holds its tokens come before one of a class and arrival (R76)? -/
def State.portAhead (s : State) (port cls order : Nat) : Bool :=
  (s.portWaiting port).any (fun r =>
    (decide (r.cls < cls) || (r.cls == cls && decide (r.order < order))) && (s.pay port r.fn r.cls r.need).isSome)

/-- A unit's place at a port, if it has one. -/
def State.portPlace (s : State) (port hart agent : Nat) : Option PortReq :=
  s.portQ.find? (fun r => r.port == port && r.hart == hart && r.agent == agent)

/-- A unit's place at a port becomes this one. -/
def State.setPlace (s : State) (r : PortReq) : State :=
  let same (x : PortReq) : Bool := x.port == r.port && x.hart == r.hart && x.agent == r.agent
  { s with portQ := if s.portQ.any same then s.portQ.map (fun x => if same x then r else x) else s.portQ ++ [r] }

/-- The place of a unit that has none yet: no request, nothing paid. -/
def State.newPlace (s : State) (port fn cls hart agent : Nat) : PortReq where
  port := port
  fn := fn
  cls := cls
  hart := hart
  agent := agent
  need := 0
  order := s.reqCtr
  live := false

/-- The place of a unit's next request: one that waits keeps its order of arrival. -/
def State.portNow (s : State) (port fn cls hart agent : Nat) : PortReq :=
  let r := (s.portPlace port hart agent).getD (s.newPlace port fn cls hart agent)
  if r.need = 0 then { r with order := s.reqCtr } else r

/-- The state after a unit's request of n tokens is served, or none while it must wait: it lacks tokens, or another goes first. Tokens that the
unit paid in an attempt that had to wait further on count (log 19). A lender that is served at once is active as well (R78). -/
def State.serve (s : State) (port fn cls hart agent n : Nat) : Option State :=
  let r := s.portNow port fn cls hart agent
  if r.used + n ≤ r.paid then some (s.setPlace { r with used := r.used + n })
  else if s.portAhead port cls r.order then none
  else (s.pay port fn cls n).map (fun t =>
    (t.lenderActive port fn cls).setPlace { r with need := 0, live := false, paid := r.paid + n, used := r.used + n })

/-- A unit's request takes its place at the port, or keeps it. -/
def State.portWait (s : State) (port fn cls hart agent n : Nat) : State :=
  let r := s.portNow port fn cls hart agent
  { s.setPlace { r with need := n, live := true } with reqCtr := if r.need = 0 then s.reqCtr + 1 else s.reqCtr }

/-- Pay for a request or wait (R76). -/
def payM (port fn cls hart agent n : Nat) : M Unit := do
  let s ← get
  match s.serve port fn cls hart agent n with
  | some t => set t
  | none => do
    set (s.portWait port fn cls hart agent n)
    waitM

/-- Count sectors moved for a gang (R148). -/
def State.countBytes (s : State) (gang sectors : Nat) : State :=
  s.modGang gang (fun g => { g with bytes := g.bytes + 16 * sectors })

/-! Frames and heat (R99 to R102). -/

/-- The owner of a frame. -/
def State.frameOwner (s : State) (frame : Nat) : Nat :=
  bits (s.mem.readNat (s.frameEntry frame) 2) 8 7

/-- Does function f own every frame that n bytes from a touch? -/
def State.ownsAll (s : State) (f a n : Nat) : Bool :=
  if n = 0 then true else
  (List.range ((a + n - 1) / 4096 - a / 4096 + 1)).all (fun i => s.frameOwner (a / 4096 + i) == f)

/-- Where a translated request goes. -/
inductive Dest where
  | localM (pa : Nat)
  | remote (fa : Nat) (ro : Bool)
  | hostM (hpa : Nat) (far : Bool)
deriving DecidableEq, Repr

/-- A translation: destination of the address, the address of the leaf it used, and its U bit. -/
structure Xl where
  dest : Dest
  pteAddr : Nat
  /-- U of the leaf -/
  user : Bool
deriving DecidableEq, Repr

/-- A completed request takes its die's next access number; a sampled one adds heat (R101, R102). -/
def State.numberAccess (s : State) (die : Nat) (x : Xl) : State :=
  let n := (s.dev.heatcnt[die]?.getD 0)
  let s := s.modDev (fun d => { d with heatcnt := d.heatcnt.setIfInBounds die (n + 1) })
  let cfg := s.dev.heatcfg
  if BB cfg 32 && n.toNat % 2 ^ (BF cfg 16 5) == BF cfg 0 16 then
    match x.dest with
    | .localM pa => s.homeOp (.heat (pa / 4096) false)
    | .hostM _ true => s.homeOp (.farHeat x.pteAddr)
    | _ => s
  else s

end Sys2Proof.Machine
end

