-- ==== Sys2Proof/Machine/Xlate.lean ====
section
/-! DEFINITION. Fault queues, the page-table walk, parking, and requests that leave the device (R79 to R96, R43 to R52, R60). -/

namespace Sys2Proof.Machine

/-! Interrupts and the fault queue (R71, R91, R92). -/

/-- Records of a function's fault queue ring (R91). -/
def FnRegs.fqSize (g : FnRegs) : Nat := 128 * 2 ^ (min 9 (BF g.fqcfg 8 4))

/-- Is the ring full (R91)? -/
def FnRegs.fqFull (g : FnRegs) : Bool := (g.fqTail.toNat + 1) % g.fqSize == g.fqHead.toNat

/-- Can the device write the next fault record: enabled, and the ring not full? -/
def FnRegs.fqRoom (g : FnRegs) : Bool := BB g.fqcfg 0 && !g.fqFull

/-- A number as a record with its TIME field (bits 255:192), which every kind of record carries (R18); the model puts the TIME of RAS and
machine-check records there too (log 60, DEDUCED, unsafe). -/
def State.stamped (s : State) (lowBits : Nat) : BitVec 256 :=
  BitVec.ofNat 256 (lowBits % 2 ^ 192 + s.dev.devtime.toNat * 2 ^ 192)

/-- Write one waiting record with the time of its writing (R18), advance TAIL and raise vector 0. A line that the host may cache is
asked back first (R62). -/
def State.fqWriteOne (s : State) (fn : Nat) : State :=
  let g := s.fn fn
  match g.fqWaiting with
  | [] => s
  | r :: rest =>
    if g.fqRoom then
      let a := BF g.fqcfg 12 35 * 4096 + 32 * g.fqTail.toNat
      let held := s.heldLines a 32
      if !held.isEmpty then s.askHost held
      else
        let s := s.commitWrite a (leBytes 32 (s.stamped r.toNat).toNat) (List.replicate 32 false)
        let s := s.modFn fn (fun g => { g with
          fqWaiting := rest, fqTail := BitVec.ofNat 16 ((g.fqTail.toNat + 1) % g.fqSize) })
        s.msix fn 0
    else s

/-- Write waiting records while the ring has room. -/
def State.fqDrain (s : State) (fn : Nat) : State :=
  (List.range (s.fn fn).fqWaiting.length).foldl (fun s _ => s.fqWriteOne fn) s

/-- A record for a function's fault queue, without its TIME, which it gets when it is written; while EN = 0 nothing is written (R92,
log 21, DESIGN CHOICE, safe). -/
def State.fqRecord (s : State) (fn : Nat) (r : Nat) : State :=
  if BB (s.fn fn).fqcfg 0 then
    (s.modFn fn (fun g => { g with fqWaiting := g.fqWaiting ++ [BitVec.ofNat 256 (r % 2 ^ 192)] })).fqDrain fn
  else s

/-! Who makes a request (R80, R88). -/

/-- A requester: function, level, die of its service, engine code, core, slot, gang and class; `alone` for an engine
acting alone; `base` for a base-die engine. -/
structure Acc where
  fn : Nat
  level : Nat
  die : Nat
  engine : Nat
  core : Nat
  slot : Nat
  gang : Nat
  cls : Nat
  hart : Nat
  /-- the unit of the hart that asks: 0 its scalar stream, 1 + r its row r, 65 + k its copy k, 100 a fetch -/
  agent : Nat := 0
  alone : Bool := false
  base : Bool := false
  /-- its sectors count for no gang (R148) -/
  uncounted : Bool := false
deriving DecidableEq, Repr

/-- The requester of a hart's own accesses. -/
def State.accOf (s : State) (h : Hart) (engine : Nat) : Acc where
  fn := h.fn
  level := h.level
  die := dieOf h.core
  engine := engine
  core := h.core
  slot := h.slot
  gang := h.gang
  cls := s.clsOf h
  hart := h.id

/-- A base-die engine acting alone at supervisor level (R80, R88). -/
def baseAcc (fn die engine : Nat) : Acc where
  fn := fn
  level := 1
  die := die
  engine := engine
  core := 0xFF
  slot := 0
  gang := 0
  cls := 0
  hart := 2 ^ 32 + fn * 64 + die * 8 + engine
  alone := true
  base := true
  uncounted := true

/-! The walk (R81 to R85, R90). -/

/-- Why a translation fails: cause, level, and the shift of the page it stopped at (4 KiB where it reached no leaf). -/
structure XlFail where
  cause : Nat
  level : Nat
  shift : Nat := 12
deriving DecidableEq, Repr

/-- A leaf reached: entry, its address, level, page shift. -/
structure Leaf where
  pte : Nat
  pteAddr : Nat
  level : Nat
  shift : Nat
deriving DecidableEq, Repr

/-- KIND of an entry. -/
def pteKind (e : Nat) : Nat := bits e 3 2
/-- The page base or table of an entry. -/
def ptePaddr (e : Nat) : Nat := bits e 12 45 * 4096

/-- Page shift of a leaf at a level, in the 64 KiB form or not (R81). -/
def leafShift (level : Nat) (g64 : Bool) : Nat :=
  match level with
  | 2 => 30
  | 1 => 21
  | _ => if g64 then 16 else 12

/-- Is a valid entry malformed at a level (R83, R84)? -/
def pteMalformed (e level : Nat) (g64 : Bool) : Bool :=
  if bit e 1 then
    let sh := leafShift level g64
    let k := pteKind e
    level == 3 || bit e 2
      || (k != 1 && bits e 57 7 != 0)
      || ptePaddr e % 2 ^ sh != 0
      || (k == 0 && decide (paLimit < ptePaddr e + 2 ^ sh))
      || ((k == 1 || k == 3) && bits e 52 5 != 0)
      || (bit e 7 && (bit e 5 || k != 2))
      || (bit e 10 && (k != 0 || bit e 11))
  else
    level == 0 || bits e 3 9 != 0 || bits e 57 7 != 0 || bits e 47 10 != 0
      || (bit e 2 && level != 1)
      || decide (paLimit < ptePaddr e + 4096)

/-- Does function f own every frame of a range of local memory? Beyond the limit there are no frames (R24). -/
def State.ownsRange (s : State) (f a n : Nat) : Bool :=
  decide (a + n ≤ paLimit) &&
  let lo := s.frameEntry (a / 4096)
  let cnt := ceilDiv (a % 4096 + n) 4096
  let own := s.mem.filter (fun c => decide (lo ≤ c.1) && decide (c.1 < lo + 2 * cnt) && c.1 % 2 == 1)
  if f = 0 then own.all (fun c => c.2.toNat % 128 == 0)
  else own.length == cnt && own.all (fun c => c.2.toNat % 128 == f)

/-- Does a host page lie wholly in an enabled range of the function whose kind matches (R85)? -/
def State.inHrange (s : State) (f k base size : Nat) : Bool :=
  (s.fn f).hrange.toList.any (fun r =>
    BB r 0 && BF r 1 1 == (if k = 3 then 1 else 0)
      && decide (BF r 12 40 * 4096 ≤ base) && decide (base + size ≤ BF r 76 40 * 4096))

/-- Walk from a table of a level down to a leaf. -/
def State.walkFrom (s : State) (f va : Nat) : (level : Nat) → (table : Nat) → (g64 : Bool) → Except XlFail Leaf
  | level, table, g64 =>
    let size := if level = 3 then 2 ^ 21 else 4096
    let idx := match level with
      | 3 => bits va 39 18
      | 2 => bits va 30 9
      | 1 => bits va 21 9
      | _ => if g64 then bits va 16 5 else bits va 12 9
    let ea := table + 8 * idx
    if paLimit < table + size then .error ⟨4, level, 12⟩
    else if !s.ownsRange f (ea / 4096 * 4096) 4096 then .error ⟨5, level, 12⟩
    else
      let e := s.mem.readNat ea 8
      if !bit e 0 then .error ⟨1, level, 12⟩
      else if pteMalformed e level g64 then .error ⟨4, level, 12⟩
      else if bit e 1 then .ok ⟨e, ea, level, leafShift level g64⟩
      else match level with
        | 0 => .error ⟨4, 0, 12⟩
        | l + 1 => s.walkFrom f va l (ptePaddr e) (level == 1 && bit e 2)

/-- Walk for a function's address (R82). With VALID = 0 there is no walk, and its level is reported as the root's, 3 (log 78, DESIGN CHOICE, unsafe). -/
def State.walk (s : State) (f va : Nat) : Except XlFail Leaf :=
  let r := (s.fn f).ptroot
  if !BB r 0 then .error ⟨1, 3, 12⟩ else s.walkFrom f va 3 (BF r 21 26 * 2 ^ 21) false

/-- The checks at a valid leaf, in rank (R90). -/
def State.leafCheck (s : State) (f : Nat) (l : Leaf) (kinds : List Nat) (user wr ignMig : Bool) : Option XlFail :=
  let e := l.pte
  let k := pteKind e
  if k = 0 && !s.ownsRange f (ptePaddr e) (2 ^ l.shift) then some ⟨5, l.level, l.shift⟩
  else if (k = 1 || k = 3) && !s.inHrange f k (ptePaddr e) (2 ^ l.shift) then some ⟨6, l.level, l.shift⟩
  else if !kinds.contains k then some ⟨7, l.level, l.shift⟩
  else if user && !bit e 6 then some ⟨3, l.level, l.shift⟩
  else if wr && !bit e 5 then some ⟨2, l.level, l.shift⟩
  else if bit e 11 && !ignMig then some ⟨8, l.level, l.shift⟩
  else none

/-! Parking (R89, R90, R93). -/

/-- The page of a failed translation, as the 4 KiB page number of its start: the page of the leaf that failed its check, else the 4 KiB
page (R89, log 70, DEDUCED, unsafe). -/
def XlFail.page (f : XlFail) (va : Nat) : Nat := va >>> f.shift <<< (f.shift - 12)

/-- Join the open fault entry of the same function, page and cause on the die, or open one and write its record (R89, R90). With no open
entry and the queue disabled the fault is converted at once (R92); with no free entry the request waits. -/
def parkFault (acc : Acc) (va : Nat) (f : XlFail) (wr : Bool) : M α := do
  -- a request that is sent back to translation pays again (log 19)
  modify (fun s => { s with portQ := s.portQ.filter (fun r => !(r.hart == acc.hart && r.agent == acc.agent)) })
  let s ← get
  let page := f.page va
  match s.faults.find? (fun o => o.fid / 256 == acc.die && o.fn == acc.fn && o.page == page && o.cause == f.cause && !o.kv) with
  | some o => throw (.park { fid := o.fid, cause := f.cause, va := BitVec.ofNat 64 va })
  | none =>
    if !BB (s.fn acc.fn).fqcfg 0 then throw (.park { fid := 0, cause := f.cause, va := BitVec.ofNat 64 va, conv := true })
    match (List.range 256).find? (fun i => !s.faults.any (fun o => o.fid == acc.die * 256 + i)) with
    | none => waitM
    | some i =>
      let fid := acc.die * 256 + i
      let r := 0x01 + f.cause * 2 ^ 8 + acc.engine * 2 ^ 16 + b2n wr * 2 ^ 19 + b2n (acc.level == 0) * 2 ^ 20
        + f.level * 2 ^ 21 + fid * 2 ^ 32 + (va % 2 ^ 57) * 2 ^ 64 + acc.core * 2 ^ 128
        + (if acc.base then 0 else acc.slot) * 2 ^ 136 + b2n (!acc.alone) * 2 ^ 138
      let s := { s with faults := s.faults ++ [(⟨fid, acc.fn, page, f.cause, false⟩ : OpenFault)] }
      set (s.fqRecord acc.fn r)
      throw (.park { fid := fid, cause := f.cause, va := BitVec.ofNat 64 va })

/-- Where an address goes under a leaf. -/
def leafDest (l : Leaf) (va : Nat) : Dest :=
  let a := ptePaddr l.pte + va % 2 ^ l.shift
  match pteKind l.pte with
  | 0 => .localM a
  | 2 => .remote a (bit l.pte 7)
  | k => .hostM a (k == 1)

/-- Set A, and D for a write, in the leaf at its home (R86). -/
def setAD (l : Leaf) (wr : Bool) : M Leaf := do
  let e := l.pte ||| 0x100 ||| (if wr then 0x200 else 0)
  if e ≠ l.pte then homeWrite l.pteAddr (leBytes 8 e) (List.replicate 8 false)
  pure { l with pte := e }

/-- Translate a canonical address of a requester (R80 to R90), or say why not: from the die's cached copy, else by a walk that is then kept. -/
def xlateTry (acc : Acc) (va : Nat) (wr : Bool) (kinds : List Nat := [0, 1, 2, 3]) (ignMig : Bool := false) : M (Except XlFail Xl) := do
  let s ← get
  let user := acc.level == 0
  match s.tlb.find? (fun t => t.die == acc.die && t.fn == acc.fn && t.page == va >>> t.shift) with
  | some t =>
    let l : Leaf := { pte := t.pte.toNat, pteAddr := t.pteAddr, level := if t.shift = 30 then 2 else if t.shift = 21 then 1 else 0, shift := t.shift }
    match s.leafCheck acc.fn l kinds user wr ignMig with
    | some f => pure (.error f)
    | none =>
      if wr && !bit l.pte 9 then
        -- compare-and-set against the value the walk read; a changed entry is walked again
        if s.mem.readNat l.pteAddr 8 = l.pte then
          let l ← setAD l wr
          modify (fun s => { s with tlb := s.tlb.map (fun (x : TlbEntry) => if x = t then { x with pte := BitVec.ofNat 64 l.pte } else x) })
          pure (.ok { dest := leafDest l va, pteAddr := l.pteAddr, user := bit l.pte 6 })
        else fresh s user
      else pure (.ok { dest := leafDest l va, pteAddr := l.pteAddr, user := bit l.pte 6 })
  | none => fresh s user
where
  /-- A walk from the root, kept in the die's service. -/
  fresh (s : State) (user : Bool) : M (Except XlFail Xl) := do
    match s.walk acc.fn va with
    | .error f => pure (.error f)
    | .ok l =>
      match s.leafCheck acc.fn l kinds user wr ignMig with
      | some f => pure (.error f)
      | none =>
        let l ← setAD l wr
        let t : TlbEntry := ⟨acc.die, acc.fn, va >>> l.shift, l.shift, BitVec.ofNat 64 l.pte, l.pteAddr⟩
        modify (fun s => { s with
          tlb := t :: s.tlb.filter (fun t => !(t.die == acc.die && t.fn == acc.fn && t.page == va >>> t.shift)) })
        pure (.ok { dest := leafDest l va, pteAddr := l.pteAddr, user := bit l.pte 6 })

/-- Translate an address of a requester (R79 to R90): a non-canonical address is the access fault, a failure parks. -/
def xlate (acc : Acc) (va : Nat) (wr : Bool) (kinds : List Nat := [0, 1, 2, 3]) (ignMig : Bool := false) : M Xl := do
  if va >>> 57 ≠ 0 then trapM 0x07 (BitVec.ofNat 64 va)
  match ← xlateTry acc va wr kinds ignMig with
  | .ok x => pure x
  | .error f => parkFault acc va f wr

/-- Translate for a unit that does not park (ICPF, tree records, context images): none where it would. -/
def xlateQuiet (acc : Acc) (va : Nat) (wr : Bool) (kinds : List Nat := [0, 1, 2, 3]) : M (Option Xl) := do
  if va >>> 57 ≠ 0 then pure none
  else match ← xlateTry acc va wr kinds with
    | .ok x => pure (some x)
    | .error _ => pure none

/-! Requests that leave the device (R43 to R52, R60). -/

/-- This device's id (R48). -/
def State.devId (s : State) : Nat := BF s.dev.fabcfg 16 10

/-- The port a fabric request takes: the lowest that is up. -/
def State.fabPort (s : State) : Option Nat :=
  (List.range 20).find? (fun p => BB (s.dev.fabpstat[p]?.getD 0) 0)

/-- The CXL port an engine of a die uses: its own, else the lowest that is up (R60). While none is up the request is the own port's, and waits
there for its answer (log 75, DESIGN CHOICE, unsafe). -/
def State.cxlPort (s : State) (die : Nat) : Nat :=
  if BB s.cxlUp die then die
  else match (List.range 4).find? (fun p => BB s.cxlUp p) with
    | some p => p
    | none => die

/-- A request to another device or to host memory: kind of R47, address, length, and what a write carries: bytes, poison of the
sectors of its line, the nibbles of the range that it leaves alone; the sectors it names where they are not all that its range touches. -/
structure ExtAsk where
  host : Bool
  kind : Nat
  addr : Nat
  len : Nat
  write : Bool := false
  data : Nat := 0
  poison : BitVec 4 := 0
  holes : Nat := 0
  ronly : Bool := false
  named : Option Nat := none
deriving DecidableEq, Repr

/-- What a payload of 64 bytes holds of data that belong at an address: each byte at its place in the line, so that a bit of POISON stands for 16
bytes of both (R47; which bytes and nibbles of the named sectors a request means are in no field:
log 11, DESIGN CHOICE, unsafe). -/
def linePayload (addr data : Nat) : Nat := data * 2 ^ (8 * (addr % 64))

/-- The payload of a request: a read has none, a write its bytes in their places; the other kinds are laid out by their own rules. -/
def ExtAsk.payload (q : ExtAsk) : Nat :=
  match q.kind with
  | 0 => 0
  | 2 => linePayload q.addr q.data
  | _ => q.data

/-- The flit header of a request (R47). -/
def State.reqFlit (s : State) (acc : Acc) (q : ExtAsk) (req : Nat) : BitVec 128 :=
  BitVec.ofNat 128 (q.kind + (q.named.getD (granules (q.addr % 2 ^ 47) q.len)) * 2 ^ 4 + q.poison.toNat * 2 ^ 8 + s.devId * 2 ^ 12 + bits q.addr 47 10 * 2 ^ 22
    + acc.fn * 2 ^ 32 + b2n q.ronly * 2 ^ 39 + BF (s.fn acc.fn).fabpart 0 16 * 2 ^ 48
    + bits q.addr 6 41 * 2 ^ 64 + (acc.core % 256 * 2 ^ 13 + req % 2 ^ 13) * 2 ^ 105)

/-- A flit of this device's: nothing leaves while DEVID is 640 or more (R43). The lowest port that is up takes it; while none is up it
is port 0's, which holds it until it comes up (log 75, DESIGN CHOICE, unsafe). -/
def State.fabSend (s : State) (header : BitVec 128) (payload : Nat) : State :=
  if s.devId < 640 then s.sendFlit ((s.fabPort).getD 0) header payload else s

/-- The request of a unit that an access meets again, once it is sent. -/
def ExtAsk.same (q : ExtAsk) (acc : Acc) (e : ExtReq) : Bool :=
  e.hart == acc.hart && e.agent == acc.agent && e.host == q.host && e.addr == q.addr && e.len == q.len && e.write == q.write
    && e.data == q.data && e.holes == q.holes

/-- A request leaves the device for a requester. -/
def State.extSend (s : State) (acc : Acc) (q : ExtAsk) : State :=
  let port := if q.host then s.cxlPort acc.die else (s.fabPort).getD 0
  let e : ExtReq := { id := s.reqCtr, hart := acc.hart, agent := acc.agent, host := q.host, port := port, addr := q.addr, len := q.len, write := q.write, data := q.data, poison := q.poison, holes := q.holes, fill := q.ronly, since := s.dev.devtime.toNat, reply := none }
  let t := { s with reqCtr := s.reqCtr + 1, ext := s.ext ++ [e] }
  if q.host then t else t.fabSend (t.reqFlit acc q e.id) q.payload

/-- Pay for sectors at the L2 slice port of the requester's die; Agate, Garnet and the scheduler work on base dies and use no such port. -/
def paySectors (acc : Acc) (pa n : Nat) : M Unit :=
  if acc.engine = 3 ∨ acc.engine = 4 ∨ acc.base then pure ()
  else payM (l2Port acc.die (pa / 64)) acc.fn acc.cls acc.hart acc.agent n

/-- Pay for n bytes. -/
def payAcc (acc : Acc) (pa n : Nat) : M Unit := paySectors acc pa (sectorCount pa n)

/-- One request to another device or to host memory: it waits for its tokens (R76, R200), is sent, and waits for its answer, which it then
consumes. Answers data, poison of the sectors and whether a read-only line may be kept, or the status of R51. -/
def extAccess (acc : Acc) (q : ExtAsk) : M (Except Nat (Nat × BitVec 4 × Bool)) := do
  paySectors acc q.addr (popcount 4 (q.named.getD (granules q.addr q.len)))
  let s ← get
  match s.ext.find? (q.same acc) with
  | some e =>
    match e.reply with
    | none => waitM
    | some (st, d, p) =>
      set { s with ext := s.ext.filter (fun x => x.id != e.id) }
      if st = 0 then pure (.ok (d, p, e.fill)) else pure (.error st)
  | none =>
    set (s.extSend acc q)
    waitM

/-- The home of a fabric address that names this device is here (R44). -/
def State.hereDest (s : State) (d : Dest) : Dest :=
  match d with
  | .remote fa _ => if bits fa 47 10 == s.devId then .localM (fa % 2 ^ 47) else d
  | d => d

/-- Where n bytes under a translation are: an address of this device at or above the limit is the physical-address fault (R24). -/
def placeOf (x : Xl) (n : Nat) : M Dest := do
  let s ← get
  match s.hereDest x.dest with
  | .localM pa =>
    if paLimit < pa + n then trapM 0x09 (BitVec.ofNat 64 pa)
    pure (.localM pa)
  | d => pure d

/-- The poison of the sectors of a line from that of n bytes at an address (R38). -/
def sectorPoison (addr : Nat) (ps : List Bool) : BitVec 4 :=
  BitVec.ofNat 4 (ps.zipIdx.foldl (fun p x => if x.1 then p ||| 2 ^ ((addr % 64 + x.2) / 16 % 4) else p) 0)

/-- The poison of n bytes at an address from that of the sectors of their line. -/
def bytePoison (addr n : Nat) (p : BitVec 4) : List Bool := (List.range n).map (fun i => BB p ((addr % 64 + i) / 16))

/-- Count the sectors of a completed request for the gang (R148) and number it (R101). -/
def accountN (acc : Acc) (x : Xl) (sectors : Nat) : M Unit :=
  modify (fun s => (if acc.uncounted then s else s.countBytes acc.gang sectors).numberAccess acc.die x)

/-- Count and number a request of n bytes from a. -/
def account (acc : Acc) (x : Xl) (a n : Nat) : M Unit := accountN acc x (sectorCount a n)

/-- The fabric read-only cache takes the sectors that an answer brings (R52): a new line in a way of 12 to 15, or more sectors of a line held. -/
def State.roFill (s : State) (fn fa : Nat) (secs : Nat) (bs : List Byte) (p : BitVec 4) : State :=
  let line := fa / 64 * 64
  let key := s.setKey ((line % 2 ^ 47) / 64)
  match s.roCache.find? (fun l => l.fn == fn && l.addr == line) with
  | some l =>
    let put := fun (x : RoLine) => if x = l then { x with
      valid := x.valid ||| BitVec.ofNat 4 secs
      poison := BitVec.ofNat 4 ((List.range 4).foldl (fun a i => if bit secs i then setBits a i 1 (b2n (BB p i)) else a) x.poison.toNat)
      bytes := (List.range 64).map (fun i => if bit secs (i / 16) then bs.getD i 0 else x.bytes.getD i 0) } else x
    { s.useWay key l.way with roCache := s.roCache.map put }
  | none =>
    let w := s.fillWay key true
    let s := (s.dropWay key w).useWay key w
    { s with roCache := { fn := fn, way := w, addr := line, valid := BitVec.ofNat 4 secs, bytes := bs, poison := p } :: s.roCache }

/-- Read n bytes within one line through a translation. `va` is the address a fault reports; `named` are the sectors of the line that the request
names, where it skips some (R20). A read-only read asks for whole sectors, which the read-only cache then holds, unless it
allocates nothing (R26, R49, R52). -/
def readPiece (acc : Acc) (va : Nat) (x : Xl) (n : Nat) (alloc : Bool := true) (named : Option Nat := none) : M (List Byte × List Bool) := do
  let secs := named.getD (granules va n)
  let cnt := popcount 4 secs
  match ← placeOf x n with
  | .localM pa =>
    paySectors acc pa cnt
    let s ← get
    set (if alloc then s.llcTouch (pa / 64) secs else s)
    accountN acc x cnt
    pure (s.homeBytes pa n)
  | .remote fa ro =>
    let s ← get
    match (if ro then s.roCache.find? (fun l => l.fn == acc.fn && l.addr == fa / 64 * 64 && secs &&& l.valid.toNat == secs) else none) with
    | some l =>
      paySectors acc fa cnt
      modify (fun s => s.useWay (s.setKey ((l.addr % 2 ^ 47) / 64)) l.way)
      accountN acc x cnt
      pure ((l.bytes.drop (fa % 64)).take n, bytePoison fa n l.poison)
    | none =>
      let base := if ro then fa / 16 * 16 else fa
      let len := if ro then ceilDiv (fa + n - base) 16 * 16 else n
      match ← extAccess acc { host := false, kind := 0, addr := base, len := len, ronly := ro, named := named } with
      | .error st => trapM 0x0B (BitVec.ofNat 64 va) st
      | .ok (d, p, keep) =>
        let bs := leBytes len d
        if ro && keep && alloc then modify (fun s => s.roFill acc.fn fa secs (List.replicate (base % 64) 0 ++ bs) p)
        accountN acc x cnt
        pure ((bs.drop (fa - base)).take n, bytePoison fa n p)
  | .hostM hpa _ =>
    match ← extAccess acc { host := true, kind := 0, addr := hpa, len := n, named := named } with
    | .error st => trapM 0x0B (BitVec.ofNat 64 va) st
    | .ok (d, p, _) =>
      accountN acc x cnt
      pure (leBytes n d, bytePoison hpa n p)

/-- Write bytes within one line through a translation. `va` is the address a fault reports; `holes` are nibbles of the range that a request to
another device or to the host leaves alone, `named` the sectors that it names then. -/
def writePiece (acc : Acc) (va : Nat) (x : Xl) (bs : List Byte) (ps : List Bool) (alloc : Bool := true) (holes : Nat := 0)
    (named : Option Nat := none) : M Unit := do
  let n := bs.length
  let cnt := popcount 4 (named.getD (granules va n))
  match ← placeOf x n with
  | .localM pa =>
    snoopClear pa n
    payAcc acc pa n
    homeWrite pa bs ps alloc
    account acc x pa n
  | .remote fa _ =>
    match ← extAccess acc { host := false, kind := 2, addr := fa, len := n, write := true, data := leVal bs, poison := sectorPoison fa ps, holes := holes, named := named } with
    | .error st => trapM 0x0B (BitVec.ofNat 64 va) st
    | .ok _ => accountN acc x cnt
  | .hostM hpa _ =>
    match ← extAccess acc { host := true, kind := 2, addr := hpa, len := n, write := true, data := leVal bs, poison := sectorPoison hpa ps, holes := holes, named := named } with
    | .error st => trapM 0x0B (BitVec.ofNat 64 va) st
    | .ok _ => accountN acc x cnt

/-- The lines of a range with their translations. -/
def xlateLines (acc : Acc) (va : Nat) (l : List α) (wr : Bool) (kinds : List Nat) : M (List (Nat × List α × Xl)) :=
  (linePieces va l).mapM (fun p => do
    let x ← xlate acc p.1 wr kinds
    pure (p.1, p.2, x))

/-- Read n bytes of virtual memory, line by line, once every line is translated. A wait leaves nothing done. -/
def readMem (acc : Acc) (va n : Nat) (kinds : List Nat := [0, 1, 2, 3]) (alloc : Bool := true) : M (List Byte × List Bool) := whole do
  let ps ← xlateLines acc va (List.replicate n ()) false kinds
  ps.foldlM (fun (r : List Byte × List Bool) p => do
    let y ← readPiece acc p.1 p.2.2 p.2.1.length alloc
    pure (r.1 ++ y.1, r.2 ++ y.2)) ([], [])

/-- Write bytes of virtual memory, line by line, once every line is translated. A wait leaves nothing done but writes that left the device. -/
def writeMem (acc : Acc) (va : Nat) (bs : List Byte) (ps : List Bool) (kinds : List Nat := [0, 1, 2, 3]) (alloc : Bool := true) : M Unit := whole do
  let l ← xlateLines acc va (bs.zip ps) true kinds
  l.forM (fun p => writePiece acc p.1 p.2.2 (p.2.1.map Prod.fst) (p.2.1.map Prod.snd) alloc)

/-- Translate every line of a range without accessing it. -/
def probeMem (acc : Acc) (va n : Nat) (wr : Bool) (kinds : List Nat := [0, 1, 2, 3]) : M Unit :=
  (linePieces va (List.replicate n ())).forM (fun p => do let _ ← xlate acc p.1 wr kinds; pure ())

end Sys2Proof.Machine
end

