-- ==== Sys2Proof/Machine/Kbc.lean ====
section
/-! DEFINITION. Compressed surfaces: CRC-32C, the KBC code, and the decompressing aperture (R28 to R36). -/

namespace Sys2Proof.Machine

/-- One bit of CRC-32C, reflected (log 12, PRESUMED, unsafe). -/
def crcBit (c : Nat) : Nat := if c % 2 = 1 then (c >>> 1) ^^^ 0x82F6_3B78 else c >>> 1

/-- One byte of CRC-32C. -/
def crcByte (c : Nat) (b : Byte) : Nat :=
  (List.range 8).foldl (fun c _ => crcBit c) (c ^^^ b.toNat)

/-- CRC-32C of bytes (R30, R232; log 12, PRESUMED, unsafe). -/
def crc32c (bs : List Byte) : Nat := (bs.foldl crcByte 0xFFFF_FFFF) ^^^ 0xFFFF_FFFF

/-- The words of a stream decoded from residuals (R31). -/
def kbcWords (mode : Nat) (base : Nat) : Nat → List Nat → List Nat
  | _, [] => []
  | prev, z :: zs =>
    let M := 2 ^ 32
    if mode = 0 then ((base + z) % M) :: kbcWords mode base prev zs
    else
      let d := (z >>> 1) ^^^ (if z % 2 = 1 then M - 1 else 0)
      let w := (prev + d % M) % M
      w :: kbcWords mode base w zs

/-- Decode the chunks of a block (R30, R31); none for a malformed stream. -/
def kbcDecode (nibble : Nat) (bs : List Byte) : Option (List Byte) :=
  let x := leVal bs
  let width := bits x 32 6
  let c := ceilDiv (8 + 8 * width) 32
  let used := 8 + 8 * width
  if 27 < width || bits x 38 2 != 0 || bits x 41 23 != 0 || c != nibble || (bs.drop used).any (fun b => b != 0) then none
  else
    let res := (List.range 64).map (fun i => bits x (64 + width * i) width)
    some ((kbcWords (bits x 40 1) (bits x 0 32) (bits x 0 32) res).flatMap (leBytes 4))

/-- The 32-bit words of a block. -/
def blockWords (bs : List Byte) : List Nat := (List.range 64).map (fun i => leVal ((bs.drop (4 * i)).take 4))

/-- Zigzag differences of a block's words (R31). -/
def zigzags (ws : List Nat) : List Nat :=
  (List.range 64).map (fun i =>
    let prev := if i = 0 then ws.getD 0 0 else ws.getD (i - 1) 0
    let d := (ws.getD i 0 + 2 ^ 32 - prev) % 2 ^ 32
    ((d <<< 1) ^^^ (if 2 ^ 31 ≤ d then 2 ^ 32 - 1 else 0)) % 2 ^ 32)

/-- Encode a block as the copy engine does (R31): nibble and chunk bytes. -/
def kbcEncode (bs : List Byte) : Nat × List Byte :=
  if bs.all (fun b => b == 0) then (0, []) else
  let ws := blockWords bs
  let lo := ws.foldl min (2 ^ 32)
  let z0 := ws.map (fun w => w - lo)
  let z1 := zigzags ws
  let w0 := bitLen (z0.foldl max 0)
  let w1 := bitLen (z1.foldl max 0)
  let m := if w0 ≤ w1 then 0 else 1
  let width := if w0 ≤ w1 then w0 else w1
  let zs := if w0 ≤ w1 then z0 else z1
  let base := if w0 ≤ w1 then lo else ws.getD 0 0
  if 27 < width then (15, bs)
  else
    let c := ceilDiv (8 + 8 * width) 32
    let x := base + width * 2 ^ 32 + m * 2 ^ 40
      + sumN ((List.range 64).map (fun i => (zs.getD i 0) * 2 ^ (64 + width * i)))
    (c, leBytes (32 * c) x)

/-! Surfaces (R28, R29). -/

/-- Is a surface record malformed (R29)? -/
def surfMalformed (r : Nat) : Bool :=
  let known := bits r 16 41 * 2 ^ 16 + bits r 64 32 * 2 ^ 64 + bits r 144 41 * 2 ^ 144 + bits r 199 50 * 2 ^ 199
    + bits r 266 47 * 2 ^ 266 + bits r 320 4 * 2 ^ 320 + bits r 324 1 * 2 ^ 324
  known != r || decide (1 < bits r 320 4) || bits r 64 32 == 0

/-- The requester that reads surface records: the one that made the access, at its own level (R80); these reads count for no gang (R148). -/
def surfAcc (acc : Acc) : Acc := { acc with uncounted := true }

/-- A surface record, from the device's cache or from memory. A poison mark on it is not looked at (log 71, DESIGN CHOICE, unsafe). -/
def surfRecord (acc : Acc) (i : Nat) : M Nat := do
  let s ← get
  match s.surfRecs.find? (fun r => r.fn == acc.fn && r.index == i) with
  | some r => pure r.record.toNat
  | none =>
    let base := BF (s.fn acc.fn).surftab 16 41 * 2 ^ 16
    let r ← readMem (surfAcc acc) (base + 64 * i) 64
    let x := leVal r.1
    modify (fun s => { s with surfRecs := { fn := acc.fn, index := i, record := BitVec.ofNat 512 x } :: s.surfRecs })
    pure x

/-- The surface records in use of a function (R28). -/
def surfList (acc : Acc) : M (List (Nat × Nat)) := do
  let s ← get
  (List.range (min 1024 (BF (s.fn acc.fn).surftab 0 11))).mapM (fun i => do
    let r ← surfRecord acc i
    pure (i, r))

/-- Does a record describe a surface that reads decode: FORMAT = 1 and COMP = 1 (R34)? -/
def surfDecodes (r : Nat) : Bool := !surfMalformed r && bits r 320 4 == 1 && bit r 324

/-- Does va lie in the range of n units of 64 KiB from a base? -/
def inSurf (base64k len va : Nat) : Bool :=
  decide (base64k * 65536 ≤ va) && decide (va < base64k * 65536 + len * 65536)

/-- Of the records whose range holds an address, one that decodes, else any; of several, the one of lowest index (log 71, DESIGN CHOICE, unsafe). -/
def surfPick (lo : Nat) (l : List (Nat × Nat)) (va : Nat) : Option (Nat × Nat) :=
  let here := l.filter (fun x => inSurf (bits x.2 lo 41) (bits x.2 64 32) va)
  (here.find? (fun x => surfDecodes x.2)) <|> here.head?

/-- The record whose aperture holds an address. -/
def apertureOf (acc : Acc) (va : Nat) : M (Option (Nat × Nat)) := do
  let l ← surfList acc
  pure (surfPick 144 l va)

/-- The record whose raw alias holds an address. -/
def rawAliasOf (acc : Acc) (va : Nat) : M (Option (Nat × Nat)) := do
  let l ← surfList acc
  pure (surfPick 16 l va)

/-- Decoded blocks that the L2 slices of a die hold: 64 MiB (R1). -/
def apRoom : Nat := 64 * 2 ^ 20 / 256

/-- A die keeps a decoded block; beyond its room the copy decoded first goes (R33; which copy goes: log 71, DESIGN CHOICE, unsafe). -/
def State.keepBlock (s : State) (c : ApCopy) : State :=
  { s with apCopies := (c :: s.apCopies.filter (fun x => x.die == c.die)).take apRoom ++ s.apCopies.filter (fun x => x.die != c.die) }

/-- Decode the block of a surface (R33, R34): its bytes, whether a byte read carried poison, and whether the die held it. The order of the
statuses, and a block with a poisoned byte, which reads as poisoned zeros: log 71 (DESIGN CHOICE, unsafe). With `alloc` false nothing
is allocated (R26). The reads have the level of the access (R80). -/
def decodeBlock (acc : Acc) (idx r block : Nat) (va : Word) (alloc : Bool := true) : M (List Byte × Bool × Bool) := do
  if surfMalformed r then trapM 0x0C va 5
  if !surfDecodes r then trapM 0x0C va 4
  let s ← get
  match s.apCopies.find? (fun c => c.die == acc.die && c.fn == acc.fn && c.index == idx && c.block == block) with
  | some c => pure (c.bytes, false, true)
  | none =>
    match s.hart? acc.hart with
    | some h => if 4 ≤ h.attempts then trapM 0x0C va 3
    | none => pure ()
    let m ← readMem acc (bits r 199 50 * 128 + block / 2) 1 [0, 1, 2, 3] alloc
    let c ← readMem acc (bits r 266 47 * 1024 + 4 * block) 4 [0, 1, 2, 3] alloc
    let nib := bits (leVal m.1) (4 * (block % 2)) 4
    let nch := if nib = 15 then 8 else if 8 ≤ nib then 0 else nib
    if m.2.any id then pure (List.replicate 256 0, true, false) else
    if 8 ≤ nib ∧ nib ≤ 14 then trapM 0x0C va 1
    let d ← readMem acc (bits r 16 41 * 65536 + 256 * block) (32 * nch) [0, 1, 2, 3] alloc
    -- the check word is ignored for nibble 0 (R30)
    if nib ≠ 0 ∧ (c.2.any id ∨ d.2.any id) then pure (List.replicate 256 0, true, false) else
    let dec := if nib = 0 then some (List.replicate 256 (0 : Byte)) else if nib = 15 then some d.1 else kbcDecode nib d.1
    match dec with
    | none => trapM 0x0C va 2
    | some bs =>
      if nib ≠ 0 ∧ crc32c bs ≠ leVal c.1 then trapM 0x0C va 2
      modify (fun s =>
        (if alloc then s.keepBlock { die := acc.die, fn := acc.fn, index := idx, block := block, bytes := bs } else s).modHart acc.hart
          (fun h => { h with attempts := 0 }))
      pure (bs, false, false)

/-- Read n bytes of a surface from an offset, block by block. `base` is the alias address faults report. Bytes of a block that the die
held already cost and count as the sectors the access names, which `named` counts where it skips some (R76, R148; log 71, DESIGN CHOICE, unsafe). -/
def readSurface (acc : Acc) (idx r base off n : Nat) (alloc : Bool := true) (named : Option Nat := none) : M (List Byte × List Bool) := whole do
  if n = 0 then pure ([], []) else
  (List.range ((off + n - 1) / 256 - off / 256 + 1)).foldlM (fun (acc2 : List Byte × List Bool) i => do
    let b := off / 256 + i
    let x ← decodeBlock acc idx r b (BitVec.ofNat 64 (base + 256 * b)) alloc
    let lo := if b * 256 < off then off - b * 256 else 0
    let hi := min 256 (off + n - b * 256)
    if x.2.2 then do
      let cnt := named.getD (sectorCount lo (hi - lo))
      paySectors acc (base + 256 * b + lo) cnt
      modify (fun s => if acc.uncounted then s else s.countBytes acc.gang cnt)
    pure (acc2.1 ++ (x.1.drop lo).take (hi - lo), acc2.2 ++ List.replicate (hi - lo) x.2.1)) ([], [])

/-- Addresses that a decode of a block reads from: its nibble, its check word and, where the nibble is not known to be 0, its chunks (R33). -/
def blockReads (acc : Acc) (idx r block : Nat) : M (List Nat) := do
  let s ← get
  if !surfDecodes r || s.apCopies.any (fun c => c.die == acc.die && c.fn == acc.fn && c.index == idx && c.block == block) then pure [] else
  let ma := bits r 199 50 * 128 + block / 2
  let zero ← match ← attempt (xlate acc ma false) with
    | .ok x => do
      let s ← get
      match s.hereDest x.dest with
      | .localM pa => pure (bits (s.mem.readNat pa 1) (4 * (block % 2)) 4 == 0)
      | _ => pure false
    | .error .wait => waitM
    | .error _ => pure false
  pure ([ma, bits r 266 47 * 1024 + 4 * block] ++ (if zero then [] else [bits r 16 41 * 65536 + 256 * block]))

/-- Read n bytes as an engine or the scalar stream reads a record of its own: decoded where they lie in an aperture (R33), else plain memory. -/
def readAny (acc : Acc) (va n : Nat) (kinds : List Nat := [0, 1, 2, 3]) : M (List Byte × List Bool) := do
  match ← apertureOf acc va with
  | some (i, rec) => do
    let base := bits rec 144 41 * 65536
    readSurface acc i rec base (va - base) n
  | none => readMem acc va n kinds

/-- Forget records and decoded blocks of a surface, or of all of a function (R36). -/
def State.flushSurf (s : State) (fn : Nat) (idx : Option Nat) : State :=
  { s with
    surfRecs := s.surfRecs.filter (fun r => !(r.fn == fn && (idx.isNone || idx == some r.index)))
    apCopies := s.apCopies.filter (fun r => !(r.fn == fn && (idx.isNone || idx == some r.index))) }

end Sys2Proof.Machine
end

