-- ==== Sys2Proof/Machine/Num.lean ====
section
/-! DEFINITION. Number formats, exact values, rounding, and the Opal generator (R173 to R189, R196, R197, R58). -/

namespace Sys2Proof.Machine

/-! Formats (R177, R183). -/

/-- A floating format: exponent and mantissa bits, bias, and whether it has infinities and NaNs. -/
structure FF where
  e : Nat
  m : Nat
  bias : Nat
  inf : Bool
  nan : Bool
deriving DecidableEq, Repr

/-- What a format code names. -/
inductive Fmt where
  | int (w : Nat) (signed : Bool)
  | flt (f : FF)
  | cb2
  | fx64
deriving DecidableEq, Repr

/-- The format of a code; none for a reserved code (R183). -/
def fmtOf (c : Nat) : Option Fmt :=
  match c with
  | 0x00 => some (.int 8 true)
  | 0x01 => some (.int 8 false)
  | 0x02 => some (.int 16 true)
  | 0x03 => some (.int 16 false)
  | 0x04 => some (.int 32 true)
  | 0x05 => some (.int 32 false)
  | 0x06 => some (.int 64 true)
  | 0x07 => some (.int 64 false)
  | 0x08 => some (.int 4 true)
  | 0x09 => some (.int 4 false)
  | 0x10 => some (.flt ⟨8, 23, 127, true, true⟩)
  | 0x11 => some (.flt ⟨8, 7, 127, true, true⟩)
  | 0x12 => some (.flt ⟨5, 10, 15, true, true⟩)
  | 0x13 => some (.flt ⟨4, 3, 7, false, true⟩)
  | 0x14 => some (.flt ⟨5, 2, 15, true, true⟩)
  | 0x15 => some (.flt ⟨3, 2, 3, false, false⟩)
  | 0x16 => some (.flt ⟨2, 3, 1, false, false⟩)
  | 0x17 => some (.flt ⟨2, 1, 1, false, false⟩)
  | 0x18 => some .cb2
  | 0x1F => some .fx64
  | _ => none

/-- Width in bits of a format. -/
def Fmt.width : Fmt → Nat
  | .int w _ => w
  | .flt f => 1 + f.e + f.m
  | .cb2 => 16
  | .fx64 => 64

/-- Width of a format code; 8 for a reserved one. -/
def fmtWidth (c : Nat) : Nat :=
  match fmtOf c with
  | some f => f.width
  | none => 8

/-- Is the code an MX format (R179)? -/
def fmtMX (c : Nat) : Bool := decide (0x13 ≤ c) && decide (c ≤ 0x18)

/-- Is the code an integer format? -/
def fmtInt (c : Nat) : Bool := decide (c ≤ 0x09)

/-- Is the code a floating format (codes 0x10 to 0x17)? -/
def fmtFlt (c : Nat) : Bool := decide (0x10 ≤ c) && decide (c ≤ 0x17)

/-! Exact values. -/

/-- An exact value: a NaN (signalling or not), an infinity, or (−1)^neg × mag × 2^exp. -/
inductive Val where
  | nan (sig : Bool)
  | inf (neg : Bool)
  | fin (neg : Bool) (mag : Nat) (exp : Int)
deriving DecidableEq, Repr

/-- The value of an integer. -/
def Val.ofInt (x : Int) : Val := .fin (decide (x < 0)) x.natAbs 0

/-- Decode a floating encoding (R177, R178). -/
def FF.decode (f : FF) (x : Nat) : Val :=
  let neg := bit x (f.e + f.m)
  let E := bits x f.m f.e
  let M := bits x 0 f.m
  let top := 2 ^ f.e - 1
  if f.inf && E == top then
    if M = 0 then .inf neg else .nan (!bit M (f.m - 1))
  else if f.nan && !f.inf && E == top && M == 2 ^ f.m - 1 then .nan false
  else if E = 0 then .fin neg M (1 - (f.bias : Int) - f.m)
  else .fin neg (2 ^ f.m + M) ((E : Int) - f.bias - f.m)

/-- Decode an encoding of a format. -/
def Fmt.decode (f : Fmt) (x : Nat) : Val :=
  match f with
  | .int w true => Val.ofInt (sext w x)
  | .int w false => .fin false (x % 2 ^ w) 0
  | .flt g => g.decode x
  | .cb2 => .fin false 0 0
  | .fx64 =>
    let v := sext 64 x
    let v := if v = -(2 ^ 63 : Int) then -(2 ^ 63 : Int) + 1 else v
    .fin (decide (v < 0)) v.natAbs (-20)

/-- Decode by format code. -/
def decodeFmt (c x : Nat) : Val :=
  match fmtOf c with
  | some f => f.decode x
  | none => .fin false 0 0

/-- A value times 2^k. -/
def Val.scale (v : Val) (k : Int) : Val :=
  match v with
  | .fin n m e => .fin n m (e + k)
  | v => v

/-- The negated value. -/
def Val.neg (v : Val) : Val :=
  match v with
  | .fin n m e => .fin (!n) m e
  | .inf n => .inf (!n)
  | v => v

/-- Is the value a NaN? -/
def Val.isNan : Val → Bool
  | .nan _ => true
  | _ => false

/-- Is the value a signalling NaN? -/
def Val.isSig : Val → Bool
  | .nan s => s
  | _ => false

/-- Is the value a zero? -/
def Val.isZero : Val → Bool
  | .fin _ 0 _ => true
  | _ => false

/-- Sign of a value. -/
def Val.sign : Val → Bool
  | .nan _ => false
  | .inf n => n
  | .fin n _ _ => n

/-- The number of a finite value in units of 2^e, for e at or below its exponent. -/
def unitsAt (neg : Bool) (mag : Nat) (exp e : Int) : Int :=
  let u : Int := (mag * 2 ^ (exp - e).toNat : Nat)
  if neg then -u else u

/-- Compare two values that are not NaN: less. -/
def Val.lt (x y : Val) : Bool :=
  match x, y with
  | .nan _, _ => false
  | _, .nan _ => false
  | .inf a, .inf b => a && !b
  | .inf a, .fin .. => a
  | .fin .., .inf b => !b
  | .fin a m e, .fin b n f =>
    let g := min e f
    decide (unitsAt a m e g < unitsAt b n f g)

/-- Compare two values that are not NaN: equal. −0 equals +0. -/
def Val.eq (x y : Val) : Bool :=
  match x, y with
  | .nan _, _ => false
  | _, .nan _ => false
  | .inf a, .inf b => a == b
  | .fin a m e, .fin b n f =>
    let g := min e f
    decide (unitsAt a m e g = unitsAt b n f g)
  | _, _ => false

/-! Flags: invalid 16, divide-by-zero 8, overflow 4, underflow 2, inexact 1 (R170). -/

/-- Raise invalid for a signalling operand. -/
def sigFlag (l : List Val) : Nat := if l.any Val.isSig then 16 else 0

/-- Exact sum; a zero from unlike or nonzero terms is −0 only under RDN (R178). Returns the value and flags. -/
def Val.add (x y : Val) (rdn : Bool) : Val × Nat :=
  let fl := sigFlag [x, y]
  match x, y with
  | .nan _, _ => (.nan false, fl)
  | _, .nan _ => (.nan false, fl)
  | .inf a, .inf b => if a == b then (.inf a, 0) else (.nan false, 16)
  | .inf a, _ => (.inf a, 0)
  | _, .inf b => (.inf b, 0)
  | .fin a m e, .fin b n f =>
    if m = 0 && n = 0 then (.fin (if a == b then a else rdn) 0 0, 0) else
    let g := min e f
    let t := unitsAt a m e g + unitsAt b n f g
    if t = 0 then (.fin rdn 0 0, 0) else (.fin (decide (t < 0)) t.natAbs g, 0)

/-- Exact product. -/
def Val.mul (x y : Val) : Val × Nat :=
  let fl := sigFlag [x, y]
  match x, y with
  | .nan _, _ => (.nan false, fl)
  | _, .nan _ => (.nan false, fl)
  | .inf a, .inf b => (.inf (a != b), 0)
  | .inf a, .fin b n _ => if n = 0 then (.nan false, 16) else (.inf (a != b), 0)
  | .fin a m _, .inf b => if m = 0 then (.nan false, 16) else (.inf (a != b), 0)
  | .fin a m e, .fin b n f => (.fin (a != b) (m * n) (e + f), 0)

/-- Exact x × y + z with one set of flags. -/
def Val.fma (x y z : Val) (rdn : Bool) : Val × Nat :=
  let p := x.mul y
  if x.isNan || y.isNan || z.isNan then (.nan false, sigFlag [x, y, z] ||| p.2)
  else match p.1 with
    | .nan _ => (.nan false, 16)
    | q => q.add z rdn

/-- Quotient to 72 bits and more, its last bit odd when the quotient goes on. -/
def Val.div (x y : Val) : Val × Nat :=
  let fl := sigFlag [x, y]
  match x, y with
  | .nan _, _ => (.nan false, fl)
  | _, .nan _ => (.nan false, fl)
  | .inf _, .inf _ => (.nan false, 16)
  | .inf a, .fin b _ _ => (.inf (a != b), 0)
  | .fin a _ _, .inf b => (.fin (a != b) 0 0, 0)
  | .fin a m e, .fin b n f =>
    if n = 0 then (if m = 0 then (.nan false, 16) else (.inf (a != b), 8))
    else
      let k := 72 + bitLen n
      let q := (m <<< k) / n
      let r := (m <<< k) % n
      (.fin (a != b) (2 * q + (if r = 0 then 0 else 1)) (e - f - k - 1), 0)

/-- The integer square root, bit by bit. -/
def isqrtGo (x : Nat) : Nat → Nat → Nat
  | 0, r => r
  | k + 1, r =>
    let t := r + 2 ^ k
    isqrtGo x k (if t * t ≤ x then t else r)

/-- Square root to 72 bits and more, its last bit odd when the root goes on. -/
def Val.sqrt (x : Val) : Val × Nat :=
  match x with
  | .nan s => (.nan false, if s then 16 else 0)
  | .inf false => (.inf false, 0)
  | .inf true => (.nan false, 16)
  | .fin n m e =>
    if m = 0 then (.fin n 0 0, 0)
    else if n then (.nan false, 16)
    else
      let sh := 160 + (e % 2).toNat
      let y := m <<< sh
      let r := isqrtGo y (bitLen y / 2 + 1) 0
      (.fin false (2 * r + (if r * r = y then 0 else 1)) ((e - sh) / 2 - 1), 0)

/-! Rounding (R185, R187). Modes: 0 RNE, 1 RTZ, 2 RDN, 3 RUP, 4 SR. -/

/-- Drop sh bits of m and say whether to step up: the kept number and whether bits were lost. -/
def dropBits (mode : Nat) (neg : Bool) (rnd : Nat) (m sh : Nat) : Nat × Bool :=
  let n := m >>> sh
  let rem := m % 2 ^ sh
  let up :=
    match mode with
    | 0 => decide (2 ^ sh < 2 * rem) || (decide (2 * rem = 2 ^ sh) && sh != 0 && n % 2 == 1)
    | 1 => false
    | 2 => neg && rem != 0
    | 3 => !neg && rem != 0
    | _ => decide (2 ^ 32 ≤ (if 32 ≤ sh then rem >>> (sh - 32) else rem <<< (32 - sh)) + rnd)
  (n + b2n up, rem != 0)

/-- Round to units of 2^q: the number of units and whether the value changed. -/
def roundUnits (mode : Nat) (neg : Bool) (rnd mag : Nat) (exp q : Int) : Nat × Bool :=
  if q ≤ exp then (mag * 2 ^ (exp - q).toNat, false)
  else dropBits mode neg rnd mag (q - exp).toNat

/-- The default NaN of a floating format, and the flags of delivering it (R178, R185). -/
def FF.defNan (f : FF) : Nat × Nat :=
  if !f.nan then (0, 16)
  else if f.inf then ((2 ^ f.e - 1) * 2 ^ f.m + 2 ^ (f.m - 1), 0)
  else (2 ^ (f.e + f.m) - 1, 0)

/-- The largest finite magnitude's encoding. -/
def FF.maxEnc (f : FF) : Nat :=
  if f.inf then (2 ^ f.e - 1) * 2 ^ f.m - 1
  else if f.nan then 2 ^ (f.e + f.m) - 2
  else 2 ^ (f.e + f.m) - 1

/-- The infinity's encoding, without sign. -/
def FF.infEnc (f : FF) : Nat := (2 ^ f.e - 1) * 2 ^ f.m

/-- Round an exact value into a floating format: encoding and flags (R185, R187). -/
def FF.round (f : FF) (mode : Nat) (sat : Bool) (rnd : Nat) (v : Val) : Nat × Nat :=
  let s (neg : Bool) (x : Nat) : Nat := b2n neg * 2 ^ (f.e + f.m) + x
  match v with
  | .nan _ => f.defNan
  | .inf neg =>
    if f.inf then (s neg (if sat then f.maxEnc else f.infEnc), 0) else (s neg f.maxEnc, 4)
  | .fin neg 0 _ => (s neg 0, 0)
  | .fin neg mag exp =>
    let top := exp + bitLen mag - 1
    let emin := 1 - (f.bias : Int)
    let q := max top emin - f.m
    let r := roundUnits mode neg rnd mag exp q
    -- the encoding counts magnitudes in order, so a carry into the exponent needs no case
    let enc : Nat := if r.1 < 2 ^ f.m then r.1 else ((q + f.m + f.bias - 1).toNat) * 2 ^ f.m + r.1
    if f.maxEnc < enc then
      let toInf := f.inf && !sat && (match mode with
        | 0 => true
        | 1 => false
        | 2 => neg
        | 3 => !neg
        | _ => true)
      (s neg (if toInf then f.infEnc else f.maxEnc), 5)
    else
      let qu := top - f.m
      let u := roundUnits mode neg rnd mag exp qu
      let tiny := decide (((u.1 : Int) * 2 ^ (qu - (min qu emin)).toNat) < 2 ^ (emin - (min qu emin)).toNat)
      (s neg enc, b2n r.2 + (if tiny && r.2 then 2 else 0))

/-- Round an exact value to an integer format: encoding and flags (R185). -/
def roundInt (w : Nat) (signed : Bool) (mode rnd : Nat) (v : Val) : Nat × Nat :=
  let hi : Int := if signed then 2 ^ (w - 1) - 1 else 2 ^ w - 1
  let lo : Int := if signed then -(2 ^ (w - 1)) else 0
  match v with
  | .nan _ => (0, 16)
  | .inf neg => (wrapTo w (if neg then lo else hi), 16)
  | .fin neg mag exp =>
    let r := roundUnits mode neg rnd mag exp 0
    let x : Int := if neg then -(r.1 : Int) else r.1
    if x < lo then (wrapTo w lo, 16) else if hi < x then (wrapTo w hi, 16)
    else (wrapTo w x, b2n r.2)

/-- Round an exact value into a format by code: encoding and flags. -/
def roundFmt (c mode : Nat) (sat : Bool) (rnd : Nat) (v : Val) : Nat × Nat :=
  match fmtOf c with
  | some (.flt f) => f.round mode sat rnd v
  | some (.int w sg) => roundInt w sg mode rnd v
  | _ => (0, 0)

/-- An integer into w bits: wrapped, or clamped with VXSAT when SAT = 1 (R174). -/
def intoInt (w : Nat) (signed sat : Bool) (x : Int) : Nat × Bool :=
  let hi : Int := if signed then 2 ^ (w - 1) - 1 else 2 ^ w - 1
  let lo : Int := if signed then -(2 ^ (w - 1)) else 0
  if sat then (if x < lo then (wrapTo w lo, true) else if hi < x then (wrapTo w hi, true) else (wrapTo w x, false))
  else (wrapTo w x, false)

/-- fixed_round of R188. -/
def fixedRound (v : Int) (d mode : Nat) : Int :=
  if d = 0 then v else
  let p : Int := (2 ^ d : Nat)
  let q := v / p
  let rem := (v % p).toNat
  let half := decide (2 ^ (d - 1) ≤ rem)
  let low := rem % 2 ^ (d - 1) != 0
  let odd := q % 2 != 0
  let inc := match mode with
    | 0 => half
    | 1 => half && (low || odd)
    | 2 => false
    | _ => !odd && (half || low)
  q + (b2n inc : Int)

/-! The Opal generator (R196, R197). -/

/-- x rotated left by n in 32 bits. -/
def rotl32 (x n : Nat) : Nat := ((x <<< n) ||| (x >>> (32 - n))) % 2 ^ 32

/-- The rounds of Opal over (a, b, c, d, k_lo, k_hi). -/
def opalRounds : Nat → Nat × Nat × Nat × Nat × Nat × Nat → Nat × Nat × Nat × Nat × Nat × Nat
  | 0, t => t
  | k + 1, (a, b, c, d, kl, kh) =>
    let M := 2 ^ 32
    let a := (a + b + kl) % M
    let d := rotl32 (d ^^^ a) 16
    let c := (c + d * 0xD1B5_4A33) % M
    let b := rotl32 (b ^^^ c) 12
    let a := (a + b + kh) % M
    let d := rotl32 (d ^^^ a) 8
    let c := (c + d) % M
    let b := rotl32 (b ^^^ c) 7
    opalRounds k (a, b, c, d, (kl + 0x9E37_79B9) % M, (kh + 0xBB67_AE85) % M)

/-- Word i of opal(n0, n1, n2, n3, k_lo, k_hi). -/
def opal (n0 n1 n2 n3 kl kh i : Nat) : Nat :=
  let (a, b, c, d, _, _) := opalRounds 8 (n0, n1, n2 ^^^ kl, n3 ^^^ kh, kl, kh)
  match i with
  | 0 => a ^^^ n0
  | 1 => b ^^^ n1
  | 2 => c
  | _ => d

/-- The Opal word of element g of an instruction at address A, for stochastic rounding (R197). -/
def srWord (pc : Word) (g : Nat) : Nat :=
  opal (bits (g / 4) 0 32) (bits (g / 4) 32 32) 0 0xFFFF_0002 (BF pc 0 32) (BF pc 32 25) (g % 4)

/-! combine of R58, for tree reductions and copy folds: operation 0 sum, 1 min, 2 max, 3 and, 4 or, 5 xor. -/

/-- The order of two NaN encodings: quieted significand, then sign 1 first. -/
def pickNan (f : FF) (x y : Nat) : Nat :=
  let q (z : Nat) : Nat := z ||| 2 ^ (f.m - 1)
  let sx := bits (q x) 0 f.m
  let sy := bits (q y) 0 f.m
  if sx = sy then (if bit x (f.e + f.m) then q x else q y) else if sy < sx then q x else q y

/-- combine(op, fmt, x, y) on encodings: result and flags. -/
def combine (op c x y : Nat) : Nat × Nat :=
  match fmtOf c with
  | some (.int w sg) =>
    let a := if sg then sext w x else ((x % 2 ^ w : Nat) : Int)
    let b := if sg then sext w y else ((y % 2 ^ w : Nat) : Int)
    match op with
    | 0 => (wrapTo w (a + b), 0)
    | 1 => (wrapTo w (if b < a then b else a), 0)
    | 2 => (wrapTo w (if a < b then b else a), 0)
    | 3 => (x &&& y, 0)
    | 4 => (x ||| y, 0)
    | _ => (x ^^^ y, 0)
  | some (.flt f) =>
    let a := f.decode x
    let b := f.decode y
    let sg := sigFlag [a, b]
    match a.isNan, b.isNan with
    | true, true => (pickNan f x y, sg)
    | true, false => (x ||| 2 ^ (f.m - 1), sg)
    | false, true => (y ||| 2 ^ (f.m - 1), sg)
    | false, false =>
      -- −0 counts as less than +0 and equal operands give x
      let less (p q : Val) : Bool := p.lt q || (p.eq q && p.isZero && p.sign && !q.sign)
      match op with
      | 0 =>
        let r := a.add b false
        if r.1.isNan then (f.defNan.1, 16) else f.round 0 false 0 r.1
      | 1 => (if less b a then y else x, 0)
      | _ => (if less a b then y else x, 0)
  | _ => (x, 0)

end Sys2Proof.Machine
end

