-- ==== Sys2Proof/Machine/Ops.lean ====
section
/-! DEFINITION. The shared operations: subscriptions, trees torn down, gangs stopped and completed, the context image, taking a
trap and returning from it (R215 to R233, R69 to R75). -/

namespace Sys2Proof.Machine

/-! Standing loads: the slot (R356, R358, R360). -/

/-- A slot with the bits from lo replaced. -/
def slotSet (x : BitVec 512) (lo n v : Nat) : BitVec 512 := BitVec.ofNat 512 (setBits x.toNat lo n v)

/-- STATE of a slot. -/
def slotState (x : BitVec 512) : Nat := BF x 120 3

/-- slot_push of R358: the slots after it, and the doubleword (8 × slot + place) that took the value. -/
def slotPush (sl : Vector (BitVec 512) 64) (n : Nat) (v : Word) (seq : Nat) : Vector (BitVec 512) 64 × Option Nat :=
  let x := sl[n]?.getD 0
  match slotState x with
  | 1 =>
    let missed := if BB x 123 then min 255 (BF x 112 8 + 1) else BF x 112 8
    let x := slotSet (slotSet (slotSet (slotSet x 112 8 missed) 0 64 v.toNat) 64 48 seq) 123 1 1
    (sl.setIfInBounds n x, some (8 * n))
  | 2 =>
    let full := BF x 112 8 == 8
    let head := if full then (BF x 125 3 + 1) % 8 else BF x 125 3
    let cnt := if full then 7 else BF x 112 8
    let x := if full then slotSet (slotSet (slotSet x 125 3 head) 64 48 (BF x 64 48 + 1)) 124 1 1 else x
    let place := (head + cnt) % 8
    let y := slotSet (sl[n + 1]?.getD 0) (64 * place) 64 v.toNat
    ((sl.setIfInBounds n (slotSet x 112 8 (cnt + 1))).setIfInBounds (n + 1) y, some (8 * (n + 1) + place))
  | _ => (sl, none)

/-! The context image (R228 to R233). -/

/-- Row blocks of an area (R228). -/
def saveRows (cfg : Word) : Nat := max 1 (min 64 (BF cfg 7 7))

/-- Bytes of an area (R230). -/
def areaSize (cfg : Word) : Nat := 0x8_2000 + saveRows cfg * 0x1_2000

/-- Virtual address of a hart's area. -/
def State.areaVA (s : State) (h : Hart) : Nat :=
  let cfg := (s.fn h.fn).savecfg
  BF cfg 21 36 * 2 ^ 21 + h.area * areaSize cfg

/-- The handler level of a function (R215). -/
def handlerLevel (fn : Nat) : Nat := if fn = 0 then 2 else 1

/-- The requester of the trap unit. -/
def State.trapAcc (s : State) (h : Hart) : Acc := { s.accOf h 0 with level := handlerLevel h.fn, alone := true, uncounted := true }

/-- Cut bytes at 4 KiB boundaries. -/
def cutPages (fuel : Nat) (a : Nat) (l : List α) : List (Nat × List α) :=
  match fuel with
  | 0 => []
  | k + 1 => if l.isEmpty then [] else
    let n := 4096 - a % 4096
    (a, l.take n) :: cutPages k (a + n) (l.drop n)

/-- A request of the trap unit for each line of n bytes from an address takes its die's next numbers (R101). -/
def State.numberLines (s : State) (acc : Acc) (x : Xl) (pa n : Nat) : State :=
  (linePieces pa (List.replicate n ())).foldl (fun s p => s.numberAccess acc.die { x with dest := .localM p.1 }) s

/-- Write bytes of an image; the address of the first page that would park or is not the function's own, if any (R233). -/
def saveBytes (acc : Acc) (va : Nat) (bs : List Byte) : M (Option Nat) :=
  (cutPages (bs.length / 4096 + 2) va bs).foldlM (fun (bad : Option Nat) p => do
    match bad with
    | some b => pure (some b)
    | none =>
      match ← xlateQuiet acc p.1 true [0] with
      | some x =>
        match x.dest with
        | .localM pa =>
          modify (fun s => (s.homeOp (.bytes pa p.2 none)).numberLines acc x pa p.2.length)
          pure none
        | _ => pure (some p.1)
      | none => pure (some p.1)) none

/-- Read bytes of an image. -/
def loadBytes (acc : Acc) (va n : Nat) : M (Option (List Byte)) :=
  (cutPages (n / 4096 + 2) va (List.replicate n ())).foldlM (fun (got : Option (List Byte)) p => do
    match got with
    | none => pure none
    | some l =>
      match ← xlateQuiet acc p.1 false [0] with
      | some x =>
        match x.dest with
        | .localM pa => do
          let s ← get
          waitUnless (!s.homeBusy pa p.2.length)
          set (s.numberLines acc x pa p.2.length)
          pure (some (l ++ s.mem.readN pa p.2.length))
        | _ => pure none
      | none => pure none) (some [])

/-- Deliver a push to its slot, and to the slot's place in the image of a saved hart (R168, R227); poison travels into the slot (R358). -/
def State.deliverPush (s : State) (p : Push) : State :=
  let s := s.modHart p.hart (fun h =>
    let r := slotPush h.slots p.slot p.value p.seq
    { h with
      slots := r.1
      slotPoison := match r.2 with
        | some i => slotSet h.slotPoison i 1 (b2n p.poison)
        | none => h.slotPoison })
  match s.hart? p.hart with
  | some h =>
    if !h.saved then s else
    let bytes := (List.range 2).flatMap (fun i => leBytes 64 ((h.slots[p.slot + i]?).getD 0).toNat)
    match saveBytes (s.trapAcc h) (s.areaVA h + 0x2000 + 0x7_F000 + 64 * p.slot) (bytes.take (64 * min 2 (64 - p.slot))) s with
    | .ok _ t => t
    | .error _ _ => s
  | none => s

/-- Deliver every push on its way to a hart. -/
def State.deliverAll (s : State) (hart : Nat) : State :=
  let mine := s.pushes.filter (fun p => p.hart == hart)
  mine.foldl State.deliverPush { s with pushes := s.pushes.filter (fun p => p.hart != hart) }

/-- The tag a subscription of a hart carries to another device's home: the hart's number, which it keeps when it moves to another core (its
place in the payload: log 11, DESIGN CHOICE, unsafe). -/
def subTag (hart : Nat) : Nat := hart % 2 ^ 26

/-- The request that ends a subscription held at another device (R47, R360; its payload: log 11, DESIGN CHOICE, unsafe). -/
def Sub.endAsk (u : Sub) : ExtAsk :=
  { host := false, kind := 6, addr := u.addr, len := 8, write := true, data := 2 ^ 32 + subTag u.hart * 64 + u.slot }

/-- A subscription that a hart which ends held at another device is removed there: the request goes out, and its answer is waited for with the
hart's writes (R360). -/
def State.unsubFlit (s : State) (u : Sub) : State :=
  match u.dev, s.hart? u.hart with
  | some _, some h => s.extSend { s.accOf h 0 with agent := 110 } u.endAsk
  | _, _ => s

/-- Remove every subscription of a hart with UNSUB semantics (R73, R360). -/
def State.unsubAll (s : State) (hart : Nat) : State :=
  let s := s.deliverAll hart
  let s := (s.subs.filter (fun u => u.hart == hart)).foldl State.unsubFlit s
  let s := { s with subs := s.subs.filter (fun u => u.hart != hart) }
  s.modHart hart (fun h => { h with slots := h.slots.map (fun x => slotSet x 120 3 0), slotPairs := 0 })

/-! Reduction trees: teardown (R59). -/

/-- The device part of a node id (R56). -/
def nodeDev (n : Nat) : Nat := bits n 11 10
/-- The kind of a node id. -/
def nodeKind (n : Nat) : Nat := bits n 8 3
/-- The index of a node id. -/
def nodeIdx (n : Nat) : Nat := bits n 0 8

/-- Fields of a tree record (R55). -/
def treeOp (r : Nat) : Nat := bits r 9 3
/-- FMT of a tree record. -/
def treeFmt (r : Nat) : Nat := bits r 12 6
/-- BYTES of a tree record. -/
def treeBytes (r : Nat) : Nat := bits r 48 10
/-- NODES of a tree record. -/
def treeNodes (r : Nat) : Nat := bits r 128 11

/-- What a node of a tree sends to a node of another device: the two nodes, flags or status, poison of the elements, the elements (the
layout is the model's own: log 11, DESIGN CHOICE, unsafe). -/
structure TreeMsg where
  src : Nat
  dst : Nat
  flags : Nat
  poison : Nat
  data : Nat
  /-- bytes of the elements -/
  len : Nat
deriving DecidableEq, Repr

/-- The message as a number; its elements start at byte 40. -/
def TreeMsg.value (m : TreeMsg) : Nat := m.dst + m.src * 2 ^ 24 + m.flags * 2 ^ 48 + m.poison * 2 ^ 64 + m.data * 2 ^ 320

/-- The flits of a message of a tree (kinds 8 to 10), 64 bytes of payload each (R46, R47): header and payload. `w` is the element's width in bytes. -/
def State.treeFlits (s : State) (kind : Nat) (t : Tree) (w : Nat) (m : TreeMsg) : List (BitVec 128 × Nat) :=
  (List.range (ceilDiv (40 + m.len) 64)).map (fun i =>
    let bad (k : Nat) : Bool := (List.range (m.len / w)).any (fun e =>
      bit m.poison e && decide (40 + e * w < 64 * i + 16 * k + 16) && decide (64 * i + 16 * k < 40 + e * w + w))
    (BitVec.ofNat 128 (kind + 15 * 2 ^ 4 + sumN ((List.range 4).map (fun k => b2n (bad k) * 2 ^ (8 + k))) + s.devId * 2 ^ 12 + nodeDev m.dst * 2 ^ 22
       + t.owner * 2 ^ 32 + t.id * 2 ^ 40 + BF (s.fn t.owner).fabpart 0 16 * 2 ^ 48
       + ((if nodeKind m.src = 0 then nodeIdx m.src else 0) * 2 ^ 13 + i) * 2 ^ 105),
     bits m.value (512 * i) 512))

/-- Send a message of a tree to another device. -/
def State.treeSend (s : State) (kind : Nat) (t : Tree) (w : Nat) (m : TreeMsg) : State :=
  (s.treeFlits kind t w m).foldl (fun (s : State) f => s.fabSend f.1 f.2) s

/-- What a node sends to a node of another device: elements, their poison, flags (R57). -/
def TreeNode.msg (n : TreeNode) (t : Tree) (dst : Nat) (x : Nat × Nat × Nat) : TreeMsg where
  src := n.node
  dst := dst
  flags := x.2.2
  poison := x.2.1
  data := x.1
  len := treeBytes t.record.toNat

/-- Bytes of an element of a tree. -/
def Tree.elemBytes (t : Tree) : Nat := fmtWidth (treeFmt t.record.toNat) / 8

/-- Send a result from a node to its children. -/
def State.sendDown (s : State) (t : Tree) (n : TreeNode) (x : Nat × Nat × Nat) : State :=
  n.children.foldl (fun s c =>
    if nodeDev c == s.devId then { s with treeDown := s.treeDown ++ [(t.id, c, x.1, x.2.1, x.2.2)] }
    else s.treeSend 9 t t.elemBytes (n.msg t c x)) s

/-- The node of an installed tree. -/
def State.treeNode? (s : State) (tree node : Nat) : Option (Tree × TreeNode) :=
  match s.trees.find? (fun t => t.id == tree && t.installed) with
  | none => none
  | some t => (t.nodes.find? (fun n => n.node == node)).map (fun n => (t, n))

/-- A result reaches a leaf: the waiting hart of the core has it (R355). -/
def State.leafResult (s : State) (tree core : Nat) (x : Nat × Nat × Nat) : State :=
  match s.harts.find? (fun h => h.core == core && h.freds.any (fun f => f.tree == tree && f.state == 0)) with
  | none => s
  | some h => s.modHart h.id (fun h => { h with freds := h.freds.map (fun (f : FredRec) =>
      if f.tree == tree && f.state == 0 then { f with state := 1, data := x.1, poison := x.2.1, flags := BitVec.ofNat 5 x.2.2 } else f) })

/-- A result that has come to a node of an installed tree goes on: to the leaf's hart, or to the node's children (R57). -/
def State.resultAt (s : State) (tree node : Nat) (x : Nat × Nat × Nat) : State :=
  match s.treeNode? tree node with
  | none => s
  | some (t, n) => if nodeKind node = 0 then s.leafResult tree (nodeIdx node) x else s.sendDown t n x

/-- Results of a tree that the root has sent reach every leaf of this device, and the devices below it. -/
def State.flushDown (s : State) (tree : Nat) : (steps : Nat) → State
  | 0 => s
  | k + 1 =>
    match s.treeDown.find? (fun x => x.1 == tree) with
    | none => s
    | some x => State.flushDown ({ s with treeDown := s.treeDown.erase x }.resultAt tree x.2.1 x.2.2) tree k

/-- The status TIMEOUT of a teardown flit (R51, R59). -/
def stTimeout : Nat := 3

/-- The round that a tree is in ends with TIMEOUT: teardown flits to every neighbour on another device but the one that sent one, buffers
freed, and every leaf whose result has not come times out (R59); with `all`, where the round itself was complete, every leaf whose result
is not collected (R389). -/
def State.dropTree (s : State) (t : Tree) (sender : Option Nat) (all : Bool) : State :=
  let edges := t.nodes.flatMap (fun n => ((if n.root then [] else [n.parent]) ++ n.children).map (fun o => (n.node, o)))
    |>.filter (fun e => nodeDev e.2 != s.devId && some e.2 != sender)
  let s := edges.foldl (fun (s : State) e =>
    s.treeSend 10 t 1 { src := e.1, dst := e.2, flags := stTimeout, poison := 0, data := 0, len := 0 }) s
  { s with
    trees := s.trees.map (fun (x : Tree) => if x.id == t.id then { x with installed := false, nodes := [] } else x)
    treeUp := s.treeUp.filter (fun x => x.1 != t.id)
    treeDown := s.treeDown.filter (fun x => x.1 != t.id)
    harts := s.harts.map (fun (h : Hart) => { h with
      freds := h.freds.map (fun (f : FredRec) => if f.tree == t.id && (all || f.state == 0) then { f with state := 2 } else f) }) }

/-- Results of a tree that the root has sent reach every leaf. -/
def State.settleTree (s : State) (t : Tree) : State := s.flushDown t.id (s.treeDown.length + t.nodes.length)

/-- Tear a tree down (R59). A round that the root has completed ends OK at every leaf: its results go on first. -/
def State.teardown (s : State) (tree : Nat) (sender : Option Nat := none) : State :=
  match s.trees.find? (fun t => t.id == tree) with
  | none => s
  | some t => if t.installed then (s.settleTree t).dropTree t sender false else s

/-- Tear down the round of a contribution that a hart stops with: where its result has come or is on its way, the round is the completed one,
and no leaf that has not collected its result gets it any more (R389). -/
def State.timeoutRound (s : State) (hart tree : Nat) : State :=
  match s.trees.find? (fun t => t.id == tree) with
  | none => s
  | some t =>
    if !t.installed then s else
    let u := s.settleTree t
    if (u.hart? hart).any (fun h => h.freds.any (fun f => f.tree == tree && f.state == 1)) then s.dropTree t none true
    else u.dropTree t none false

/-- Tear down every tree round in which a hart is a waiting leaf or holds an uncollected contribution (R73, R389). -/
def State.timeoutRounds (s : State) (hart : Nat) : State :=
  match s.hart? hart with
  | none => s
  | some h => ((h.freds.filter (fun f => f.state != 2)).map FredRec.tree).foldl (fun (s : State) t => s.timeoutRound hart t) s

/-! Stopping harts and gangs (R73, R150, R218). -/

/-- The streams of a hart wait for no answer and at no port any more, and with `copies` its copies neither; writes that have left the
device go on to their homes. -/
def State.settleHart (s : State) (hart : Nat) (copies : Bool := false) : State :=
  let other (h agent : Nat) : Bool := h != hart || (!copies && decide (65 ≤ agent) && decide (agent < 100))
  { s with
    ext := s.ext.filter (fun e => other e.hart e.agent || (e.write && e.reply.isNone))
    portQ := s.portQ.filter (fun r => other r.hart r.agent) }

/-- A hart issues nothing more: its queue is emptied, what its copies have not yet written is discarded, its parked requests are withdrawn.
Stores that have left its registers are still performed. -/
def State.quietHart (s : State) (hart : Nat) : State :=
  (s.settleHart hart true).modHart hart (fun h => { h with
    queue := []
    rows := h.rows.map (fun (r : Row) => { r with prog := none, run := none, park := none, qdone := h.qbase, stuck := false, fetchWait := none })
    tokens := h.tokens.map (fun (t : Token) => { t with job := none })
    park := none
    fetchWait := none
    fredAt := none
    psyncAt := none
    agateAt := none
    pfreeAt := none
    gbarWait := false
    kvParked := []
    late := []
    stopped := true })

/-- Stop a hart: its rounds time out, its subscriptions go, and it issues nothing more (R73, R389). -/
def State.stopHart (s : State) (hart : Nat) : State :=
  (((s.timeoutRounds hart).unsubAll hart).quietHart hart).modHart hart (fun h => { h with freds := [] })

/-- Rank of a completion status when events coincide (R150). -/
def statusRank (st : Nat) : Nat :=
  match st with
  | 6 => 4
  | 2 => 3
  | 7 => 2
  | 3 => 1
  | _ => 0

/-- Stop every hart of a gang with a status and a TCAUSE value; a hart that has halted stops too, with the work it left queued (R156, R218). -/
def State.stopGang (s : State) (gang status tcause : Nat) : State :=
  let s := s.modGang gang (fun g => { g with
    stop := match g.stop with
      | some (o, t) => if statusRank o < statusRank status then some (status, tcause) else some (o, t)
      | none => some (status, tcause) })
  ((s.harts.filter (fun h => h.gang == gang && !h.stopped)).map Hart.id).foldl State.stopHart s

/-- The home row of a hart. -/
def Hart.home (h : Hart) : Row :=
  match h.rows with
  | r :: _ => r
  | [] => { v := Vector.replicate 32 0, vpoison := Vector.replicate 32 0, vtag := Vector.replicate 32 0, m := Vector.replicate 8 0,
            vl := 0, vstart := 0, strip := 0, vdead := 0, mtrow := 0, ovf := 0, mt0 := {}, mt1 := {}, cluster := none,
            qdone := h.qbase, prog := none, run := none, park := none, readySince := 0, promoted := false }

/-- Clusters the hart holds (R163). -/
def Hart.tl (h : Hart) : Nat := (h.rows.filter (fun r => r.cluster.isSome)).length

/-- The value of control register n as a read gives it (R170); none for an unlisted number. -/
def Hart.csr (h : Hart) (n : Nat) : Option Word :=
  match n with
  | 0x000 => some (h.home.vl.setWidth 64)
  | 0x001 => some (h.vlmax.setWidth 64)
  | 0x002 => some (h.vtype.setWidth 64)
  | 0x003 => some (h.vmt.setWidth 64)
  | 0x004 => some (BitVec.ofNat 64 h.tl)
  | 0x005 => some (h.home.vstart.setWidth 64)
  | 0x006 => some (h.home.strip.setWidth 64)
  | 0x007 => some (h.vloopn.setWidth 64)
  | 0x008 => some (h.vxsat.setWidth 64)
  | 0x009 => some (h.vxrm.setWidth 64)
  | 0x00A => some (h.frm.setWidth 64)
  | 0x00B => some (h.fflags.setWidth 64)
  | 0x00C => some (h.hcr.setWidth 64)
  | 0x00D => some (h.home.vdead.setWidth 64)
  | 0x00E => some (h.home.mtrow.setWidth 64)
  | 0x00F => some (h.apxq.setWidth 64)
  | 0x010 => some (h.apxchk.setWidth 64)
  | 0x011 => some (h.slip.setWidth 64)
  | 0x012 => some (h.shufcnt.setWidth 64)
  | 0x100 => some h.tcause
  | 0x101 => some h.tval
  | 0x102 => some h.tpc
  | 0x103 => some h.tstatus
  | 0x104 => some h.tvec
  | 0x105 => some h.tprog
  | 0x106 => some h.tscratch
  | _ => none

/-- The control registers in image order (R229). -/
def imageCsrs : List Nat := List.range 0x13 ++ (List.range 7).map (fun i => 0x100 + i)

/-- n opaque bytes of an image, from an index. -/
def opaqueBytes (id from_ n : Nat) : List Byte := (List.range n).map (fun i => Config.imageByte id (from_ + i))

/-- Zero bytes. -/
def zeros (n : Nat) : List Byte := List.replicate n 0

/-- Bytes 0x200 to 0xFFF of a hart's image: tokens, FIFOs, queue (R229). -/
def Hart.guarded (h : Hart) (id : Nat) : List Byte :=
  let toks := (List.range 8).flatMap (fun i =>
    match h.tokens[i]? with
    | some t => leBytes 8 t.status.toNat ++ (if t.job.isSome then opaqueBytes id (56 * i) 56 else zeros 56)
    | none => zeros 64)
  let fifo (l : List Word) : List Byte := ((l.take 16).flatMap (fun w => leBytes 8 w.toNat)) ++ zeros (128 - 8 * min 16 l.length)
  let ins := (List.range 4).flatMap (fun i => fifo (((h.inq[i]?).getD []).map RawCmd.w))
  let outs := (List.range 4).flatMap (fun i => fifo (((h.outq[i]?).getD []).map Elem.v))
  let n := min 64 h.queue.length
  toks ++ ins ++ outs ++ opaqueBytes id 1024 (32 * n) ++ zeros (2048 - 32 * n)

/-- Bytes 0 to 0xFFF of a hart's image (R229). -/
def Hart.imageBytes (h : Hart) (id : Nat) : List Byte :=
  let regs := (List.range 32).flatMap (fun i => leBytes 8 (h.rd i).toNat)
  let ctl := leBytes 8 h.pc.toNat ++ leBytes 8 h.level ++ imageCsrs.flatMap (fun n => leBytes 8 ((h.csr n).getD 0).toNat)
  let g := h.guarded id
  regs ++ ctl ++ zeros (252 - ctl.length) ++ leBytes 4 (crc32c g) ++ g

/-- Progress table and masks of a row (row + 0x400 to 0xBFF). -/
def Row.guarded (r : Row) (id idx : Nat) : List Byte :=
  match r.prog with
  | some p => opaqueBytes id (4096 + 16 * idx) 16 ++ zeros 1008 ++ leBytes 128 p.mask.toNat ++ zeros 896
  | none => zeros 2048

/-- The tag word of a tile buffer (R330). -/
def Tile.tag (t : Tile) : Nat := t.state * 2 ^ 10 + b2n t.scaled * 2 ^ 9 + t.fmt

/-- The first 4 KiB of a row's image (R229, R342). -/
def Row.imageBytes (r : Row) (id idx : Nat) : List Byte :=
  let ctl := [r.vl.toNat, r.vstart.toNat, r.strip.toNat, r.vdead.toNat, r.mtrow.toNat, r.qdone].flatMap (leBytes 8)
  let g := r.guarded id idx
  ctl ++ zeros (0x80 - ctl.length) ++ leBytes 8 r.mt0.tag ++ leBytes 8 r.mt1.tag ++ leBytes 8 r.ovf.toNat
    ++ zeros (0x3FC - 0x98) ++ leBytes 4 (crc32c g) ++ g
    ++ (List.range 7).flatMap (fun i => leBytes 128 ((r.m[i + 1]?).getD 0).toNat) ++ zeros 128

/-- Write the live registers of a row (R231). -/
def saveLive (acc : Acc) (r : Row) (base : Nat) : List Nat → Option Nat → M (Option Nat)
  | [], bad => pure bad
  | _ :: _, some b => pure (some b)
  | v :: vs, none => do
    let bad ← if BB r.vdead v then pure none else saveBytes acc (base + 128 * v) (leBytes 128 ((r.v[v]?).getD 0).toNat)
    saveLive acc r base vs bad

/-- Status words of the tokens, none for one whose copy is in flight. -/
def Hart.tokenWords (h : Hart) : List (Option Word) :=
  h.tokens.toList.map (fun (t : Token) => if t.job.isSome then none else some t.status)

/-- Write the register context of R230: hart bytes, and of each row its first 4 KiB and its live registers. The image
number is drawn first. The address that failed, if any. -/
def saveRegisterContext : M (Option Nat) := do
  let h ← theHart
  let s ← get
  let id := s.imgCtr
  let base := s.areaVA h
  let acc := s.trapAcc h
  set { s with imgCtr := id + 1 }
  let bad ← saveBytes acc base (h.imageBytes id)
  let bad ← (List.range h.rows.length).foldlM (fun (bad : Option Nat) i => do
    match bad, h.rows[i]? with
    | none, some r => do
      let rb := base + 0x8_2000 + i * 0x1_2000
      let bad ← saveBytes acc rb (r.imageBytes id i)
      saveLive acc r (rb + 0x1000) (List.range 32) bad
    | b, _ => pure b) bad
  modH (fun h => { h with img := some {
    id := id, queue := h.queue, qbase := h.qbase, sp := h.sp, vlSet := h.vlSet, loopSince := h.loopSince
    level := h.level, inq := h.inq, outq := h.outq, toks := h.tokenWords, apxRow := h.apxRow, late := h.late
    rows := h.rows.map (fun (r : Row) => { r with park := none, stuck := false, fetchWait := none }) } })
  pure bad

/-! Where a row may stop (R227). -/

/-- Active lanes (R11). -/
def State.laneCount (s : State) : Nat := BF s.dev.pwrstat 3 5

/-- The ordered memory forms, whose progress index counts elements performed (R223). -/
def Op.ordered (o : Op) : Bool :=
  match o.i with
  | .vld .. | .vldf .. | .vst .. | .vlds .. | .vldsf .. | .vsts .. => true
  | _ => false

/-- The operation a row is inside, and its VL. -/
def Hart.opOf (h : Hart) (r : Row) : Option (Op × Nat) :=
  match h.queue[r.qdone - h.qbase]? with
  | none => none
  | some e =>
    match r.run with
    | some st => (e.body[st.pos]?).map (fun o => (o, st.vl))
    | none => some (e.op, r.vl.toNat)

/-- May a row stop where it is: outside any entry, at an element that has itself stopped it, at a request that is parked and so withdrawn, at
VSTART, at VL, or at a multiple of the active lanes (R227)? Memory requests of an ordered form carry it there; forms with a completion mask or a count of their own stop anywhere. -/
def Hart.rowMayStop (h : Hart) (lanes : Nat) (r : Row) : Bool :=
  match r.prog, h.opOf r with
  | some p, some (o, vl) => !o.ordered || r.stuck || r.park.isSome || p.k == r.vstart.toNat || p.k == vl || p.k % lanes == 0
  | _, _ => true

/-- May every row of a hart but one stop where it is, and has no write that one of them or the scalar stream sent out still to be taken up?
`scalar` is off where the scalar stream itself stops the hart. -/
def State.mayStop (s : State) (h : Hart) (but : Option Nat := none) (scalar : Bool := true) : Bool :=
  (List.range h.rows.length).all (fun i => but == some i || (match h.rows[i]? with
    | some r => h.rowMayStop s.laneCount r
    | none => true))
  && !s.ext.any (fun e => e.hart == h.id && e.write && decide (e.agent < 65) && (scalar || e.agent != 0) && but.map (· + 1) != some e.agent)

/-- Has another row stopped at an element of an older entry, or of the same entry and a lower row (R221)? Every queue entry is older than the scalar stream's instruction. -/
def Hart.stuckBefore (h : Hart) (t : TrapInfo) : Bool :=
  (List.range h.rows.length).any (fun i => match h.rows[i]? with
    | some r => r.stuck && (!t.vec || (i != t.row && (match h.rows[t.row]? with
        | some me => decide (r.qdone < me.qdone) || (r.qdone == me.qdone && decide (i < t.row))
        | none => false)))
    | none => false)

/-! Taking a trap (R217, R218). -/

/-- The TCAUSE value of a trap. -/
def TrapInfo.tcause (t : TrapInfo) : Nat :=
  t.code + b2n t.vec * 2 ^ 8 + b2n t.mid * 2 ^ 9 + t.sub * 2 ^ 12 + t.row * 2 ^ 16

/-- What entry to a handler sets in the hart, once its context is saved (R217). -/
def Hart.enterTrap (h : Hart) (t : TrapInfo) : Hart :=
  { h with
    tcause := BitVec.ofNat 64 t.tcause
    tval := t.val
    tpc := h.pc
    tprog := if t.vec then t.vpc else 0
    tstatus := BitVec.ofNat 64 (h.level + 4 + 8)
    level := if h.level = 0 then handlerLevel h.fn else h.level
    queue := []
    qbase := 0
    rows := h.rows.map (fun (r : Row) => { r with vstart := 0, qdone := 0, prog := none, run := none, park := none, stuck := false, fetchWait := none })
    park := none
    fetchWait := none
    attempts := 0
    halted := false
    late := []
    fredAt := none
    psyncAt := none
    agateAt := none
    pfreeAt := none
    gbarWait := false
    gbarAt := if h.gbarWait then some h.pc else none
    pc := BitVec.ofNat 64 (BF h.tvec 2 55 * 4) }

/-- A trap that waits for the hart's other rows to reach a place where they may stop (R227). -/
def State.trapWaits (s : State) (h : Hart) (t : TrapInfo) : State :=
  if t.vec then s.modRow h.id t.row (fun r => { r with stuck := true }) else s

/-- A cause raised by an instruction that has completed: its row stands past it (R221). -/
def TrapInfo.committed (t : TrapInfo) : Bool := t.code == 0x11 || t.code == 0x12

/-- take_trap of R217: the one way a hart takes a trap. The hart's pc is the resume address. None while the trap must wait: for
the rows to come where they may stop (R227), or for the saving. -/
def State.takeTrapNow? (s : State) (t : TrapInfo) : Option State :=
  match s.curHart with
  | none => some s
  | some h =>
    if !BB h.tvec 0 || BB h.tstatus 2 || t.code == 0x13 || t.code == 0x14 then some (s.stopGang h.gang 2 t.tcause)
    else if !s.mayStop h (if t.vec && !t.committed then some t.row else none) t.vec then none
    else match whole saveRegisterContext s with
      | .ok none s' => some ((s'.modHart s'.cur (fun h => h.enterTrap t)).settleHart s'.cur)
      | .ok (some va) s' =>
        some (s'.stopGang h.gang 2 { t with code := 0x14, sub := 0, val := BitVec.ofNat 64 va }.tcause)
      | .error .wait _ => none
      | .error _ s' => some (s'.stopGang h.gang 2 { t with code := 0x14, sub := 0 }.tcause)

/-- take_trap, once no older entry or lower row stands stopped at a cause of its own, and no cause of a committed entry is left (R221). -/
def State.takeTrap? (s : State) (t : TrapInfo) : Option State :=
  if s.curHart.any (fun h => !h.late.isEmpty || h.stuckBefore t) then none else s.takeTrapNow? t

/-- The trap of a hart's oldest committed cause (R189, R194, R221): none where it has none, or must wait. What is left goes into the image. -/
def State.takeLate? (s : State) (hart : Nat) : Option State :=
  match (s.hart? hart).map Hart.late with
  | some (t :: rest) =>
    ((({ s with cur := hart } : State).modHart hart (fun h => { h with late := rest })).takeTrapNow? t).map (fun u => { u with cur := s.cur })
  | _ => none

/-- A trap is taken, or waits: nothing of it is lost. -/
def State.takeTrap (s : State) (t : TrapInfo) : State :=
  (s.takeTrap? t).getD (match s.curHart with
    | some h => s.trapWaits h t
    | none => s)

/-- Outcome of a meaning of the scalar stream: done, trap taken, waiting, or parked (R89). A parked request that was
converted at once becomes the page-fault trap (R93), a Garnet one the KV trap. While a trap waits, the instruction has done nothing. -/
def finish (x : M Unit) (s : State) : Out State :=
  match x s with
  | .ok _ s' => .next s'
  | .error (.trap t) s' => .next ((s'.takeTrap? t).getD s)
  | .error .wait s' => .next s'
  | .error (.park p) s' =>
    if p.conv then
      .next ((s'.takeTrap? { code := if p.kv then 0x0F else 0x08, sub := p.cause, val := p.va }).getD s)
    else .next (s'.modHart s'.cur (fun h => { h with park := some p }))

/-! Return from a trap (R219, R388). -/

/-- The value of 8 bytes of an image. -/
def dwordAt (bs : List Byte) (off : Nat) : Nat := leVal ((bs.drop off).take 8)

/-- TSTATUS as a write stores it: PLEV 3 stores 0 (R216). -/
def tstatusOf (v : Word) : Word := BitVec.ofNat 64 (BF v 2 2 * 4 + (if BF v 0 2 = 3 then 0 else BF v 0 2))

/-- TVEC as a write stores it (R216). -/
def tvecOf (v : Word) : Word := BitVec.ofNat 64 (BF v 2 55 * 4 + BF v 0 1)

/-- VSTART as a scalar write stores it (R170). -/
def Hart.vstartOf (h : Hart) (v : Word) : BitVec 11 :=
  if h.vlmax.toNat ≤ BF v 0 11 then h.vlmax - 1 else BitVec.ofNat 11 (BF v 0 11)

/-- FRM as a write stores it. -/
def frmOf (v : Word) : BitVec 3 := if BF v 0 3 < 5 then BitVec.ofNat 3 (BF v 0 3) else 0

/-- MTROW as a write stores it. -/
def mtrowOf (v : Word) : BitVec 9 := BitVec.ofNat 9 (min 256 (BF v 0 9))

/-- APXQ as a write stores it: Q, S and THRESH. -/
def apxqOf (v : Word) : BitVec 32 := BitVec.ofNat 32 (min 6 (BF v 0 3) + BF v 4 4 * 2 ^ 4 + BF v 16 16 * 2 ^ 16)

/-- Change the home row. -/
def Hart.putHome (h : Hart) (f : Row → Row) : Hart := { h with rows := h.rows.modify 0 f }

/-- A control register of an image put back, under the store rules of its register. The home row's own registers stand in its row block too: the
value here counts where it is not the one that was saved, `o` being the row as saved (log 46, DEDUCED, unsafe). -/
def Hart.putCsr (h : Hart) (o : Row) (n v : Nat) : Hart :=
  let w := BitVec.ofNat 64 v
  match n with
  | 0x000 => if v = o.vl.toNat then h else h.putHome (fun r => { r with vl := BitVec.ofNat 11 v })
  | 0x001 => { h with vlmax := BitVec.ofNat 11 v }
  | 0x002 => { h with vtype := BitVec.ofNat 6 v }
  | 0x003 => { h with vmt := BitVec.ofNat 2 v }
  | 0x005 => if v = o.vstart.toNat then h else h.putHome (fun r => { r with vstart := h.vstartOf w })
  | 0x006 => if v = o.strip.toNat then h else h.putHome (fun r => { r with strip := BitVec.ofNat 40 v })
  | 0x007 => { h with vloopn := BitVec.ofNat 40 v }
  | 0x008 => { h with vxsat := BitVec.ofNat 1 v }
  | 0x009 => { h with vxrm := BitVec.ofNat 2 v }
  | 0x00A => { h with frm := frmOf w }
  | 0x00B => { h with fflags := BitVec.ofNat 5 v }
  | 0x00C => if BB w 0 && BB w 2 then h else { h with hcr := BitVec.ofNat 5 v }
  | 0x00D => if v = o.vdead.toNat then h else h.putHome (fun r => { r with
      vdead := BitVec.ofNat 32 v
      v := Vector.ofFn (fun i : Fin 32 => if bit v i.val then 0 else (r.v[i.val]?).getD 0)
      vpoison := Vector.ofFn (fun i : Fin 32 => if bit v i.val then 0 else (r.vpoison[i.val]?).getD 0) })
  | 0x00E => if v = o.mtrow.toNat then h else h.putHome (fun r => { r with mtrow := mtrowOf w })
  | 0x00F => { h with apxq := apxqOf w }
  | 0x010 => { h with apxchk := BitVec.ofNat 32 v }
  | 0x011 => { h with slip := BitVec.ofNat 32 v }
  | 0x012 => { h with shufcnt := BitVec.ofNat 32 v }
  | 0x100 => { h with tcause := w &&& 0x3F_F3FF }
  | 0x101 => { h with tval := w }
  | 0x102 => { h with tpc := w &&& ~~~(3 : Word) }
  | 0x103 => { h with tstatus := tstatusOf w }
  | 0x104 => { h with tvec := tvecOf w }
  | 0x105 => { h with tprog := w }
  | 0x106 => { h with tscratch := w }
  | _ => h

/-- A row restored from its first 4 KiB and its registers, with its saved progress (R231). -/
def Row.restore (snap : Row) (b regs : List Byte) : Row :=
  let dead := dwordAt b 0x18
  { snap with
    vl := BitVec.ofNat 11 (dwordAt b 0)
    vstart := BitVec.ofNat 11 (dwordAt b 8)
    strip := BitVec.ofNat 40 (dwordAt b 0x10)
    vdead := BitVec.ofNat 32 dead
    mtrow := BitVec.ofNat 9 (dwordAt b 0x20)
    ovf := BitVec.ofNat 4 (dwordAt b 0x90)
    m := Vector.ofFn (fun i : Fin 8 => if i.val = 0 then BitVec.allOnes 1024
      else BitVec.ofNat 1024 (leVal ((b.drop (0xC00 + 128 * (i.val - 1))).take 128)))
    v := Vector.ofFn (fun i : Fin 32 => if bit dead i.val then 0
      else BitVec.ofNat 1024 (leVal ((regs.drop (128 * i.val)).take 128)))
    vpoison := Vector.ofFn (fun i : Fin 32 => if bit dead i.val then 0 else (snap.vpoison[i.val]?).getD 0) }

/-- A copy token restored: an idle one has the status word it was saved with; one whose copy was in flight keeps the state that copy has
come to since (R227). -/
def Token.restore (t : Token) (saved : Option Word) : Token :=
  match saved, t.job with
  | some w, none => { t with status := w }
  | _, _ => t

/-- The home row as an image holds it. -/
def Image.home (img : Image) (h : Hart) : Row := (img.rows.head?).getD h.home

/-- Read an image back and check it (R219 steps 1 to 4, R232): the level it holds, or the address of a failing block. -/
def restoreContext (img : Image) (own : Nat) : M (Except Nat Nat) := whole do
  let h ← theHart
  let s ← get
  let base := s.areaVA h
  let acc := s.trapAcc h
  match ← loadBytes acc base 0x1000 with
  | none => pure (.error base)
  | some b =>
    if crc32c (b.drop 0x200) ≠ leVal ((b.drop 0x1FC).take 4) then pure (.error base) else
    let level := dwordAt b 0x108
    if 2 < level ∨ own < level then pure (.error base) else
    let rows ← (List.range img.rows.length).foldlM (fun (got : Except Nat (List Row)) i => do
      match got with
      | .error e => pure (.error e)
      | .ok l =>
        let rb := base + 0x8_2000 + i * 0x1_2000
        match ← loadBytes acc rb 0x1000, ← loadBytes acc (rb + 0x1000) 0x1000, img.rows[i]? with
        | some rbs, some regs, some snap =>
          if crc32c ((rbs.drop 0x400).take 0x800) ≠ leVal ((rbs.drop 0x3FC).take 4) then pure (.error rb)
          else pure (.ok (l ++ [snap.restore rbs regs]))
        | _, _, _ => pure (.error rb)) (.ok [])
    match rows with
    | .error e => pure (.error e)
    | .ok rows =>
      modH (fun h =>
        let h := { h with
          s := Vector.ofFn (fun i : Fin 32 => BitVec.ofNat 64 (dwordAt b (8 * i.val)))
          sp := img.sp
          vlSet := img.vlSet
          loopSince := img.loopSince
          queue := img.queue
          qbase := img.qbase
          inq := img.inq
          outq := img.outq
          apxRow := img.apxRow
          late := img.late
          tokens := Vector.ofFn (fun k : Fin 8 => ((h.tokens[k.val]?).getD { job := none, status := 0 }).restore ((img.toks[k.val]?).getD none))
          rows := (List.range rows.length).filterMap (fun i => match rows[i]?, h.rows[i]? with
            | some r, some o => some { r with cluster := o.cluster, mt0 := o.mt0, mt1 := o.mt1 }
            | some r, none => some r
            | none, _ => none) }
        ((List.range imageCsrs.length).foldl (fun h i => h.putCsr (img.home h) (imageCsrs.getD i 0) (dwordAt b (0x110 + 8 * i))) h))
      pure (.ok level)

/-- What an area holds beside its plain bytes where no context of the hart was ever saved: nothing queued, nothing in a FIFO. -/
def Hart.blankImage (h : Hart) : Image where
  id := 0
  queue := []
  qbase := 0
  rows := h.rows.map (fun (r : Row) => { r with qdone := 0, prog := none, run := none, park := none, stuck := false, fetchWait := none, kvRun := none })
  sp := 0
  vlSet := h.vlSet
  loopSince := false
  level := h.level
  inq := Vector.replicate 4 []
  outq := Vector.replicate 4 []
  toks := List.replicate 8 (some 0)
  apxRow := 0

/-- A hart after its return at an address and a level: a GBAR that the trap interrupted goes on waiting where it stood (R382). -/
def Hart.returned (h : Hart) (pc : Word) (level : Nat) (mask : Word) : Hart :=
  { h with
    pc := pc
    level := level
    tstatus := h.tstatus &&& ~~~mask
    gbarWait := h.gbarAt == some pc
    gbarAt := none }

/-- The level a return goes to: a level that the handler wrote into the image, else PLEV (R219, R232; log 46, DEDUCED, unsafe). -/
def returnLevel (img : Image) (level plev : Nat) : Nat := if level = img.level then plev else level

/-- The return from a trap: with IMAGE = 1 the image is checked and restored, else the registers stay (R219, R388). -/
def returnFromTrap : M Unit := do
  let h ← theHart
  let plev := BF h.tstatus 0 2
  let tpc := h.tpc &&& ~~~(3 : Word)
  if h.level < plev then trapM 0x13 0
  if BB h.tstatus 3 then do
    let img := h.img.getD h.blankImage
    match ← restoreContext img h.level with
    | .error a => trapM 0x13 (BitVec.ofNat 64 a)
    | .ok level => modH (fun h => { h.returned tpc (returnLevel img level plev) 0xC with img := some { img with toks := h.tokenWords } })
  else modH (fun h => h.returned tpc plev 0x4)

/-! Completion (R69, R70, R360). -/

/-- The completion record of R69. -/
def State.cplRecord (s : State) (status reason line gl tcause tag cyc bytes : Nat) : BitVec 256 :=
  s.stamped (status + reason * 2 ^ 8 + line * 2 ^ 16 + gl * 2 ^ 20 + tcause % 2 ^ 32 * 2 ^ 32 + tag % 2 ^ 64 * 2 ^ 64
    + min 0xFFFF_FFFF (ceilDiv cyc 5120) * 2 ^ 128 + min 0xFFFF_FFFF (ceilDiv bytes 65536) * 2 ^ 160)

/-- The MSI-X message that follows a completion record: IRQVEC of a record with IRQ = 1; vectors 0 to 3 belong to no launch (R71). -/
def Gang.irq (g : Gang) : Option (Nat × Nat) :=
  if BB g.record 12 && decide (4 ≤ BF g.record 48 4) then some (g.fn, BF g.record 48 4) else none

/-- The MSI-X message that follows a record. -/
def State.sendIrq (s : State) (irq : Option (Nat × Nat)) : State :=
  match irq with
  | some v => s.msix v.1 v.2
  | none => s

/-- The scheduler as the requester that writes a record of a GLAUNCH, with engine code 0 in the function's memory (R383). -/
def Cpl.acc (c : Cpl) : Acc := { baseAcc c.fn 0 0 with level := 2, hart := 2 ^ 34 + c.id }

/-- A waiting record is gone. -/
def State.dropCpl (s : State) (c : Cpl) : State := { s with cpls := s.cpls.filter (fun x => x.id != c.id) }

/-- The scheduler tries to write a waiting record: a translation that fails parks as an engine's does (R89), a line that the host caches and
an answer of another home are waited for. One that cannot be written, its address converted or without memory, is given up, and its message
goes out (log 84, DESIGN CHOICE, unsafe). -/
def State.cplRun (s : State) (c : Cpl) : State :=
  let given (t : State) : State := ((t.settle c.acc.hart 0).dropCpl c).sendIrq c.irq
  if c.park.any (fun p => !p.conv) then s
  else if c.park.isSome then given s
  else match writeMem c.acc c.va (leBytes 32 c.record.toNat) (List.replicate 32 false) [0, 1, 2, 3] true (s.retry c.acc.hart 0) with
    | .ok _ t => given t
    | .error (.park p) t => { t with cpls := t.cpls.map (fun (x : Cpl) => if x.id == c.id then { x with park := some p } else x) }
    | .error (.trap _) t => given t
    | .error .wait t => t

/-- Every waiting record is tried. -/
def State.cplRetry (s : State) : State := s.cpls.foldl State.cplRun s

/-- The port of a gang's record: that of the die whose scheduler agent ends the gang, the one of its first hart (R60; log 84, DESIGN CHOICE, unsafe). -/
def State.cplPort (s : State) (g : Gang) : Nat :=
  s.cxlPort (match s.harts.find? (fun h => h.gang == g.id) with
    | some h => dieOf h.core
    | none => 0)

/-- Write a completion record: through CXL.cache to CPLADDR, or for a GLAUNCH without one to the record's own
address + 64 (R69, R383); then the MSI-X message when IRQ = 1 (R70). -/
def State.complete (s : State) (g : Gang) (status reason tcause : Nat) : State :=
  let r := s.cplRecord status reason (g.line.getD 0) (b2n g.line.isNone) tcause (BF g.record 64 64) g.cyc g.bytes
  if g.line.isNone && g.cpladdr == 0 then
    let c : Cpl := { id := s.reqCtr, fn := g.fn, va := g.recVA.toNat + 64, record := r, irq := g.irq }
    { s with cpls := s.cpls ++ [c], reqCtr := s.reqCtr + 1 }.cplRun c
  else (s.send (.completion (s.cplPort g) (g.cpladdr * 64) r)).sendIrq g.irq

/-- Has every hart of a gang halted or been stopped by its own HSTOP (R74)? -/
def State.gangHalted (s : State) (g : Nat) : Bool :=
  (s.harts.filter (fun h => h.gang == g)).all (fun h => h.halted || h.stopped)

/-- Has every hart of a gang ended with nothing of it left to perform (R69, R70, R387): no store, entry or copy, and no write that has left
the device unanswered? -/
def State.gangEnded (s : State) (g : Nat) : Bool :=
  (s.harts.filter (fun h => h.gang == g)).all (fun h =>
    (h.halted || h.stopped) && h.wbuf.isEmpty && h.queue.isEmpty && h.tokens.toList.all (fun t => t.job.isNone)
      && !s.ext.any (fun e => e.hart == h.id && e.write && e.reply.isNone))

/-- GANGRESET.BUSY of a function: a gang that a reset stops has not ended (R73). -/
def State.setGangBusy (s : State) (fn : Nat) : State :=
  s.modFn fn (fun g => { g with gangBusy := s.gangs.any (fun x => x.fn == fn && x.line.isSome && (match x.stop with
    | some st => st.1 == 7
    | none => false)) })

/-- Gangs of a class that wait, head first (R149). -/
def State.waiting (s : State) (cls : Nat) : List Gang :=
  s.gangs.filter (fun g => (g.phase == .queued || g.phase == .preempted) && g.cls == cls)

/-- The head of each class's queue notes when it became the head; one that another has displaced heads nothing. -/
def State.noteHeads (s : State) : State :=
  let heads := [1, 2, 3].filterMap (fun c => (s.waiting c).head?.map Gang.id)
  { s with gangs := s.gangs.map (fun (g : Gang) =>
      if g.phase == .queued || g.phase == .preempted then
        { g with headSince := if heads.contains g.id then some (g.headSince.getD s.dev.devtime.toNat) else none }
      else g) }

/-- Complete a gang whose harts have all ended: their subscriptions go, and once every home has answered (R360) the record is written, slots and
areas free. -/
def State.completeGang (s : State) (id : Nat) : State :=
  match s.gang? id with
  | none => s
  | some g =>
    if (g.phase == .placed || g.phase == .preempted) && s.gangEnded id then
      let mine := (s.harts.filter (fun h => h.gang == id)).map Hart.id
      let s := mine.foldl State.unsubAll s
      if !s.gangEnded id then s else
      let st := g.stop.getD (0, 0)
      let s := s.complete g st.1 0 (if st.1 = 2 then st.2 else 0)
      { s with
        harts := s.harts.filter (fun h => h.gang != id)
        gangs := s.gangs.filter (fun x => x.id != id)
        ext := s.ext.filter (fun e => !mine.contains e.hart)
        portQ := s.portQ.filter (fun r => !mine.contains r.hart) }.noteHeads.setGangBusy g.fn
    else s

end Sys2Proof.Machine
end

