-- ==== Sys2Proof/Machine/Sched.lean ====
section
/-! DEFINITION. The gang scheduler: launch records, admission, placement, pre-emption, eviction, windows (R65 to R68, R141 to R153). -/

namespace Sys2Proof.Machine

/-- Active lanes per cluster (R11). -/
def State.lanes (s : State) : Nat := BF s.dev.pwrstat 3 5

/-- VLMAX of a SEW code and an LMUL code with L lanes (R12, R171). -/
def effVlmax (sew lmul lanes : Nat) : Nat := 1024 / (8 * 2 ^ sew) * 2 ^ lmul * lanes / 16

/-! Launch records (R68). -/

/-- Is a launch record malformed? -/
def recMalformed (r : Nat) : Bool :=
  let fields := [(0, 8), (8, 4), (12, 1), (13, 1), (16, 12), (32, 7), (40, 7), (48, 4), (64, 64), (128, 55), (192, 57),
    (256, 46), (320, 32), (352, 32), (384, 32), (416, 51), (472, 8)]
  let known := sumN (fields.map (fun f => bits r f.1 f.2 * 2 ^ f.1))
  let cls := bits r 8 4
  let tlmin := bits r 32 7
  let tlmax := bits r 40 7
  known != r || bits r 0 8 != 1 || decide (3 < cls) || tlmin == 0 || decide (tlmax < tlmin) || decide (64 < tlmax)
    || (bit r 12 && decide (bits r 48 4 < 4))
    || ((bits r 384 32 == 0) == (cls == 0))
    || bits r 320 32 == 0

/-- Cycles a guaranteed hart may be placed (R148). -/
def guarQ (r : Nat) : Nat := ceilDiv (bits r 320 32 * 1024) (bits r 16 12 + 1)

/-! Placement (R142, R143, R228). -/

/-- Where a hart goes: core, slot, clusters with the home first. -/
structure Spot where
  core : Nat
  slot : Nat
  clusters : List Nat
deriving DecidableEq, Repr

/-- What is taken: slots (core × 4 + slot), clusters once per row they hold, clusters of guaranteed harts. -/
structure Occ where
  slots : List Nat
  rows : List Nat
  guar : List Nat
deriving DecidableEq, Repr

/-- What the resident harts take. -/
def State.occ (s : State) : Occ :=
  let hs := s.harts.filter (fun h => !h.saved)
  let cl (h : Hart) : List Nat := h.rows.filterMap Row.cluster
  { slots := hs.map (fun h => h.core * 4 + h.slot)
    rows := hs.flatMap cl
    guar := (hs.filter (fun h => s.clsOf h == 0)).flatMap cl }

/-- Is a slot number eligible for a class? -/
def State.slotOk (s : State) (cls slot : Nat) : Bool := BB s.dev.schedcfg slot == (cls == 0)

/-- Is a cluster reserved? -/
def State.reserved (s : State) (c : Nat) : Bool := BB s.dev.schedcfg (4 + c % 4)

/-- The row of another class on a cluster that an eviction takes first: lowest class, then latest placed (R152). No home row is taken, and no row of
a hart with CARRY = 1, whose grant is fixed (R142, R156). -/
def State.evictVictim (s : State) (c : Nat) : Option (Nat × Nat) :=
  let cands := (s.harts.filter (fun h => !h.saved && s.clsOf h != 0 && !BB h.hcr 3)).flatMap (fun h =>
    (List.range h.rows.length).filterMap (fun r =>
      if (h.rows[r]?.bind Row.cluster) == some c && r != 0 then some (s.clsOf h, h.placedSeq, h.id, r) else none))
  (cands.foldl (fun (b : Option (Nat × Nat × Nat × Nat)) x =>
    match b with
    | none => some x
    | some y => if y.1 < x.1 || (y.1 == x.1 && decide (y.2.1 < x.2.1)) then some x else some y) none).map (fun x => (x.2.2.1, x.2.2.2))

/-- May a hart of a class take a cluster: a reserved one for the guaranteed class, once each, by an eviction where that is allowed and a row can
go; else a free row context. -/
def State.clusterOk (s : State) (o : Occ) (cls : Nat) (evict : Bool) (c : Nat) : Bool :=
  if cls = 0 then s.reserved c && !o.guar.contains c && (decide (o.rows.count c < 4) || (evict && (s.evictVictim c).isSome))
  else decide (o.rows.count c < 4)

/-- Note a cluster taken. -/
def Occ.take (o : Occ) (cls c : Nat) : Occ :=
  { o with rows := c :: o.rows, guar := if cls = 0 then c :: o.guar else o.guar }

/-- Pass 1 for one hart: lowest core, slot and home cluster. -/
def State.findHome (s : State) (o : Occ) (cls : Nat) (evict : Bool) : Option Spot :=
  (List.range 192).findSome? (fun core =>
    match (List.range 4).find? (fun sl => s.slotOk cls sl && !o.slots.contains (core * 4 + sl)),
          (List.range 4).find? (fun c => (s.reserved c == (cls == 0)) && s.clusterOk o cls evict (core * 4 + c)) with
    | some sl, some c => some { core := core, slot := sl, clusters := [core * 4 + c] }
    | _, _ => none)

/-- Pass 1 for the harts of a gang. -/
def State.planHomes (s : State) (cls : Nat) (evict : Bool) : Nat → Occ → Option (List Spot × Occ)
  | 0, o => some ([], o)
  | n + 1, o =>
    match s.findHome o cls evict with
    | none => none
    | some p =>
      let o := { o.take cls (p.clusters.headD 0) with slots := (p.core * 4 + p.slot) :: o.slots }
      match s.planHomes cls evict n o with
      | none => none
      | some (l, o) => some (p :: l, o)

/-- The clusters of the device in the search order of pass 2 for a core. -/
def searchOrder (core : Nat) : List Nat :=
  let d := core / 48
  let cores := core :: ((List.range 48).map (fun i => d * 48 + i)).filter (fun c => c != core)
    ++ [1, 3, 2].flatMap (fun k => (List.range 48).map (fun i => (d + k) % 4 * 48 + i))
  cores.flatMap (fun c => (List.range 4).map (fun i => c * 4 + i))

/-- Pass 2 for one hart: clusters added until the target. -/
def State.growGrant (s : State) (cls : Nat) (evict : Bool) (target : Nat) (o : Occ) (p : Spot) : Spot × Occ :=
  let order := searchOrder p.core
  let cands := if cls = 0 then order.filter (fun c => s.reserved c)
    else order.filter (fun c => !s.reserved c) ++ order.filter (fun c => s.reserved c)
  cands.foldl (fun (x : Spot × Occ) c =>
    if x.1.clusters.length < target && !x.1.clusters.contains c && s.clusterOk x.2 cls evict c then
      ({ x.1 with clusters := x.1.clusters ++ [c] }, x.2.take cls c)
    else x) (p, o)

/-- Save areas of a function that no hart holds, lowest first (R228). -/
def State.freeAreas (s : State) (fn : Nat) (empty : Bool) : List Nat :=
  let n := 2 ^ (min 16 (BF (s.fn fn).savecfg 0 5))
  let used := if empty then [] else (s.harts.filter (fun h => h.fn == fn)).map Hart.area
  (List.range (min n (used.length + 4096))).filter (fun a => !used.contains a)

/-- A plan for a gang, or none when it is not placeable (R143). `empty` plans on a device that holds no gang; `areas`
is off for a gang that keeps its areas. -/
def State.plan (s : State) (fn r : Nat) (empty evict areas : Bool) : Option (List Spot) :=
  let cls := bits r 8 4
  let H := bits r 16 12 + 1
  let o := if empty then { slots := [], rows := [], guar := [] } else s.occ
  let rows := saveRows (s.fn fn).savecfg
  let tlmin := bits r 32 7
  let target := min rows (if cls = 0 then tlmin else bits r 40 7)
  if rows < tlmin ∨ 768 < H ∨ (areas ∧ (s.freeAreas fn empty).length < H) then none else
  match s.planHomes cls evict H o with
  | none => none
  | some (l, o) =>
    let g := l.foldl (fun (x : List Spot × Occ) p =>
      let y := s.growGrant cls evict target x.2 p
      (x.1 ++ [y.1], y.2)) ([], o)
    if g.1.all (fun p => decide (tlmin ≤ p.clusters.length)) then some g.1 else none

/-- The plan a class gets now: a guaranteed gang may evict rows when it must (R152). -/
def State.planNow (s : State) (fn r : Nat) (areas : Bool := true) : Option (List Spot) :=
  match s.plan fn r false false areas with
  | some l => some l
  | none => if bits r 8 4 = 0 then s.plan fn r false true areas else none

/-- A fresh row on a cluster. -/
def Row.fresh (c : Option Nat) (qdone dead now : Nat) : Row where
  v := Vector.replicate 32 0
  vpoison := Vector.replicate 32 0
  vtag := Vector.replicate 32 0
  m := (Vector.replicate 8 0).setIfInBounds 0 (BitVec.allOnes 1024)
  vl := 0
  vstart := 0
  strip := 0
  vdead := BitVec.ofNat 32 dead
  mtrow := 0
  ovf := 0
  mt0 := {}
  mt1 := {}
  cluster := c
  qdone := qdone
  prog := none
  run := none
  park := none
  readySince := now
  promoted := false

/-- A hart as it starts (R144, R168, R170, R215). -/
def State.newHart (s : State) (id gang idx fn level area : Nat) (r : Nat) (p : Spot) : Hart where
  id := id
  gang := gang
  idx := idx
  fn := fn
  core := p.core
  slot := p.slot
  level := level
  s := (Vector.replicate 32 0).setIfInBounds 3 (BitVec.ofNat 64 (bits r 192 57))
  sp := 0
  pc := BitVec.ofNat 64 (bits r 128 55 * 4)
  vlmax := BitVec.ofNat 11 (effVlmax 0 0 s.lanes)
  vtype := 0
  vmt := 0
  vloopn := 0
  vxsat := 0
  vxrm := 0
  frm := 0
  fflags := 0
  hcr := if bit r 13 then 1 else 0
  apxq := 0
  apxchk := 0
  slip := 0
  shufcnt := 0
  vlSet := 0
  loopSince := false
  apxRow := 0
  tcause := 0
  tval := 0
  tpc := 0
  tstatus := 0
  tvec := WS (s.fn fn).trapentry 1 1 0
  tprog := 0
  tscratch := 0
  rows := p.clusters.map (fun c => Row.fresh (some c) 0 0 s.dev.devtime.toNat)
  queue := []
  qbase := 0
  inq := Vector.replicate 4 []
  outq := Vector.replicate 4 []
  tokens := Vector.replicate 8 { job := none, status := 0 }
  cbt := none
  scratch := []
  scratchPoison := []
  slots := Vector.replicate 64 0
  slotPoison := 0
  slotPairs := 0
  arrivals := []
  freds := []
  wbuf := []
  park := none
  fetchWait := none
  halted := false
  stopped := false
  saved := false
  img := none
  area := area
  gbarCount := 0
  gbarWait := false
  placedCyc := 0
  stamp := 0
  attempts := 0
  placedSeq := s.placeCtr

/-! Pre-emption and eviction (R152, R163, R230). -/

/-- The 32 KiB of a tile buffer's image (R342): zero where the buffer holds nothing. -/
def Tile.imageBytes (t : Tile) : List Byte :=
  let filled (l : List Byte) : List Byte := l ++ zeros (0x8000 - l.length)
  if t.state = 0 then zeros 0x8000 else
  let k := if t.fmt = 0x11 then 64 else if t.fmt = 0x17 || t.fmt = 0x18 then 256 else 128
  let rb := if t.fmt = 0x18 then 64 else k * fmtWidth t.fmt / 8
  let rowsB := (List.range k).flatMap (fun i =>
    match t.rows.find? (fun x => x.1 == i) with
    | some x => leBytes rb x.2
    | none => zeros rb)
  if t.scaled then
    filled (rowsB ++ zeros (0x4000 - rowsB.length) ++ (List.range (k / 32)).flatMap (fun j =>
      match t.scales.find? (fun x => x.1 == j) with
      | some x => leBytes k x.2
      | none => zeros k))
  else filled rowsB

/-- Save a row: its first 4 KiB, live registers and tile buffers. The address that failed, if any. -/
def saveRow (r : Nat) (row : Row) (id : Nat) : M (Option Nat) := do
  let h ← theHart
  let s ← get
  let acc := s.trapAcc h
  let rb := s.areaVA h + 0x8_2000 + r * 0x1_2000
  let bad ← saveBytes acc rb (row.imageBytes id r)
  let bad ← saveLive acc row (rb + 0x1000) (List.range 32) bad
  match bad with
  | some b => pure (some b)
  | none =>
    match ← saveBytes acc (rb + 0x2000) row.mt0.imageBytes with
    | some b => pure (some b)
    | none => saveBytes acc (rb + 0xA000) row.mt1.imageBytes

/-- Side of a tile of a format and bytes of a tile row; none for a format outside R329, or scales where R329 forbids them. -/
def tileShape (fmt : Nat) (scaled : Bool) : Option (Nat × Nat) :=
  if fmt = 0x11 then (if scaled then none else some (64, 128))
  else if 0x13 ≤ fmt ∧ fmt ≤ 0x16 then some (128, 128 * fmtWidth fmt / 8)
  else if fmt = 0x17 then (if scaled then none else some (256, 128))
  else if fmt = 0x18 then some (256, 64)
  else none

/-- Read a tile buffer back from its image, from its tag (R342). A tag with a nonzero zero field, or of no tile of R329, is EMPTY; so is STATE 3
(R330). -/
def loadTile (acc : Acc) (va tag : Nat) : M (Option Tile) := do
  let fmt := bits tag 0 6
  let scaled := bit tag 9
  match tileShape fmt scaled with
  | none => pure (some {})
  | some (k, rb) =>
    let state := bits tag 10 2
    if tag >>> 12 ≠ 0 ∨ bits tag 6 3 ≠ 0 ∨ state = 0 ∨ state = 3 then pure (some {}) else
    let b ← loadBytes acc va (k * rb)
    let sc ← if scaled then loadBytes acc (va + 0x4000) (k / 32 * k) else pure (some [])
    match b, sc with
    | some b, some sc => pure (some {
        state := state, scaled := scaled, fmt := fmt
        rows := (List.range k).map (fun i => (i, leVal ((b.drop (rb * i)).take rb)))
        scales := if scaled then (List.range (k / 32)).map (fun j => (j, leVal ((sc.drop (k * j)).take k))) else [] })
    | _, _ => pure none

/-- Both tile buffers of a row read back, whose row block starts at rb with the bytes b. -/
def loadTiles (acc : Acc) (rb : Nat) (b : List Byte) : M (Option (Tile × Tile)) := do
  match ← loadTile acc (rb + 0x2000) (dwordAt b 0x80), ← loadTile acc (rb + 0xA000) (dwordAt b 0x88) with
  | some t, some u => pure (some (t, u))
  | _, _ => pure none

/-- The codebook table read back from its image (R181, R342); a hart that has never loaded one has none. -/
def loadCbt (acc : Acc) (va : Nat) (cbt : Option (List Nat)) : M (Option (Option (List Nat))) := do
  if cbt.isNone then pure (some none)
  else match ← loadBytes acc va 2048 with
    | none => pure none
    | some b => pure (some (some ((List.range 256).map (fun i => bits (dwordAt b (8 * i)) 0 33))))

/-- A computation of the scheduler for one hart, which is the current one while it runs. -/
def withHartM (hart : Nat) (x : M α) : M α := do
  let s ← get
  set { s with cur := hart }
  let r ← x
  modify (fun t => { t with cur := s.cur })
  pure r

/-- One more pre-emption or eviction (R141, R152). -/
def State.countPreempt (s : State) : State :=
  s.modDev (fun d => { d with preempt := if d.preempt = 0xFFFF then d.preempt else d.preempt + 1 })

/-- A context that could not be written or read back stops its gang (R232, R233). -/
def contextFault (gang code row : Nat) (bad : Option Nat) : M Unit :=
  match bad with
  | none => pure ()
  | some va => modify (fun s => s.stopGang gang 2 { code := code, row := row, val := BitVec.ofNat 64 va : TrapInfo }.tcause)

/-- Suspend a row of a hart with its state in the save area, once it stands where it may stop (R152, R163, R227). -/
def evictRow (hart r : Nat) : M Unit := do
  let s ← get
  match s.hart? hart, (s.hart? hart).bind (fun h => h.rows[r]?) with
  | some h, some row => do
    waitUnless (h.rowMayStop s.laneCount row && !s.ext.any (fun e => e.hart == hart && e.write && e.agent == 1 + r))
    set { s with imgCtr := s.imgCtr + 1 }
    let bad ← withHartM hart (saveRow r row s.imgCtr)
    contextFault h.gang 0x14 r bad
    modify (fun s => ((s.settle hart (1 + r)).modRow hart r (fun x => { x with cluster := none, park := none, fetchWait := none })).countPreempt)
  | _, _ => pure ()

/-- Free a row context of every cluster of a plan that is full. -/
def makeRoom (l : List Spot) : M Unit :=
  (l.flatMap Spot.clusters).forM (fun c => do
    let s ← get
    if s.occ.rows.count c < 4 then pure () else
    match s.evictVictim c with
    | some (h, r) => evictRow h r
    | none => pure ())

/-- Place a gang that never ran, by a plan. -/
def placeNew (g : Gang) (l : List Spot) : M Unit := do
  makeRoom l
  let s ← get
  let areas := s.freeAreas g.fn false
  let hs := (List.range l.length).filterMap (fun i =>
    (l[i]?).map (fun p => s.newHart (s.hartCtr + i) g.id i g.fn g.level (areas.getD i 0) g.record.toNat p))
  let s := s.modGang g.id (fun x => { x with phase := .placed, headSince := none, placedSeq := s.placeCtr })
  set { s with harts := s.harts ++ hs, hartCtr := s.hartCtr + l.length, placeCtr := s.placeCtr + 1 }

/-- Resume a saved hart on a new spot: its image is read back and checked, and gives its pc and level (R232). -/
def resumeHart (hart : Nat) (p : Spot) : M Unit := do
  let s ← get
  match s.hart? hart with
  | none => pure ()
  | some h => do
    set (s.modHart hart (fun h => { h with
      core := p.core, slot := p.slot, saved := false, placedSeq := s.placeCtr
      rows := (List.range h.rows.length).filterMap (fun i => (h.rows[i]?).map (fun (r : Row) =>
        { r with cluster := p.clusters[i]?, readySince := s.dev.devtime.toNat })) }))
    match h.img with
    | none => pure ()
    | some img => withHartM hart do
      match ← restoreContext img 2 with
      | .error a => contextFault h.gang 0x13 0 (some a)
      | .ok level => do
        let h ← theHart
        let s ← get
        let acc := s.trapAcc h
        (List.range h.rows.length).forM (fun r => do
          let rb := s.areaVA h + 0x8_2000 + r * 0x1_2000
          match ← loadBytes acc rb 0x1000 with
          | none => contextFault h.gang 0x13 r (some rb)
          | some b => match ← loadTiles acc rb b with
            | none => contextFault h.gang 0x13 r (some rb)
            | some t => modR r (fun x => { x with mt0 := t.1, mt1 := t.2 }))
        match ← loadCbt acc (s.areaVA h + 0x1000) h.cbt with
        | none => contextFault h.gang 0x13 0 (some (s.areaVA h))
        | some c => modH (fun h => { h with cbt := c })
        match ← loadBytes acc (s.areaVA h + 0x100) 8 with
        | none => contextFault h.gang 0x13 0 (some (s.areaVA h))
        | some b => modH (fun h => { h with pc := BitVec.ofNat 64 (leVal b), level := level })

/-- Place a gang that was pre-empted. -/
def placeAgain (g : Gang) (l : List Spot) : M Unit := do
  makeRoom l
  let s ← get
  set (s.modGang g.id (fun x => { x with phase := .placed, headSince := none, placedSeq := s.placeCtr }))
  (((s.harts.filter (fun h => h.gang == g.id)).map Hart.id).zip l).forM (fun x => resumeHart x.1 x.2)
  modify (fun s => { s with placeCtr := s.placeCtr + 1 })

/-- Run a computation of the scheduler: where it must wait it has done nothing. -/
def State.sched (s : State) (x : M Unit) : State :=
  match whole x s with
  | .ok _ t => t
  | .error _ t => t

/-- The plan of a waiting gang, as it stands now. -/
def State.planOf (s : State) (g : Gang) : Option (List Spot) :=
  s.planNow g.fn g.record.toNat (g.phase == .queued)

/-- Does the device accept launches: it runs (R15)? -/
def State.accepts (s : State) : Bool := BF s.dev.idstat 0 4 == 7

/-- Place one waiting gang if it heads its queue, is placeable, and no head of a higher class is (R149). -/
def State.gangPlace (s : State) (id : Nat) : State :=
  match s.gang? id with
  | none => s
  | some g =>
    let heads := (List.range g.cls).filterMap (fun c => (s.waiting c).head?)
    if s.accepts && !s.resetDue && ((s.waiting g.cls).head?.map Gang.id) == some id && heads.all (fun x => (s.planOf x).isNone) then
      match s.planOf g with
      | none => s
      | some l => (s.sched (if g.phase == .queued then placeNew g l else placeAgain g l)).noteHeads
    else s

/-- Save a hart whose rows stand where they may stop, and take it off its core (R227, R230). Its copies go on (R227). -/
def saveHart (hart : Nat) : M Unit := do
  let s ← get
  match s.hart? hart with
  | none => pure ()
  | some h => do
    waitUnless (s.mayStop h)
    let id := s.imgCtr
    let bad ← withHartM hart do
      let bad ← saveRegisterContext
      let h ← theHart
      let s ← get
      let acc := s.trapAcc h
      let base := s.areaVA h
      let parts : List (M (Option Nat)) :=
        [saveBytes acc (base + 0x1000) ((h.cbt.getD []).flatMap (leBytes 8)),
         saveBytes acc (base + 0x2000) (h.scratch.readN 0 0x7_F000 ++ h.slots.toList.flatMap (fun x => leBytes 64 x.toNat))]
        ++ (List.range h.rows.length).filterMap (fun r => (h.rows[r]?).map (fun row => saveRow r row id))
      parts.foldlM (fun (bad : Option Nat) x => match bad with
        | some b => pure (some b)
        | none => x) bad
    contextFault h.gang 0x14 0 bad
    modify (fun s => ((s.settleHart hart).modHart hart (fun h => { h with
      saved := true, park := none, fetchWait := none, fredAt := none, psyncAt := none, agateAt := none, pfreeAt := none
      rows := h.rows.map (fun (x : Row) => { x with cluster := none, park := none, fetchWait := none }) })))

/-- Pre-empt one gang: save its harts, put it at the head of its class's queue (R149, R152). -/
def preemptGang (id : Nat) : M Unit := do
  let s ← get
  ((s.harts.filter (fun h => h.gang == id)).map Hart.id).forM saveHart
  modify (fun s =>
    let s := s.modGang id (fun g => { g with phase := .preempted, headSince := none })
    { s with gangs := s.gangs.filter (fun (g : Gang) => g.id == id) ++ s.gangs.filter (fun (g : Gang) => g.id != id) }.countPreempt)

/-- Has a hart issued a FRED whose FREDW has not completed (R152)? The FRED may still be in the queue. -/
def Hart.reducing (h : Hart) : Bool :=
  !h.freds.isEmpty || h.queue.any (fun e => match e.op.i with
    | .fred _ _ _ => true
    | _ => false)

/-- Gangs that may be pre-empted for a class, first victim first (R152). -/
def State.victims (s : State) (cls : Nat) : List Gang :=
  let l := s.gangs.filter (fun g => g.phase == .placed && decide (cls < g.cls) && g.stop.isNone
    && !(s.harts.any (fun h => h.gang == g.id && h.reducing)))
  (l.map (fun g => (g.cls, g.placedSeq, g))).mergeSort (fun a b =>
    decide (b.1 < a.1) || (a.1 == b.1 && decide (b.2.1 ≤ a.2.1))) |>.map (fun x => x.2.2)

/-- Fewest victims, in order, whose absence makes a gang placeable. -/
def State.pickVictims (s : State) (g : Gang) : List Gang → List Nat → Option (List Nat)
  | [], _ => none
  | v :: vs, taken =>
    let taken := taken ++ [v.id]
    let t := { s with harts := s.harts.map (fun (h : Hart) => if taken.contains h.gang then { h with saved := true } else h) }
    if (t.planOf g).isSome then some taken else s.pickVictims g vs taken

/-- A high or normal gang that has headed its queue for PRWAIT pre-empts (R149, R152). -/
def State.gangPreempt (s : State) (id : Nat) : State :=
  match s.gang? id with
  | none => s
  | some g =>
    let waited := match g.headSince with
      | some t => decide (BF s.dev.schedcfg 8 16 * 1000 ≤ s.dev.devtime.toNat - t)
      | none => false
    if (g.cls == 1 || g.cls == 2) && waited && ((s.waiting g.cls).head?.map Gang.id) == some id && (s.planOf g).isNone then
      match s.pickVictims g (s.victims g.cls) [] with
      | none => s
      | some l => (s.sched (l.forM preemptGang)).noteHeads
    else s

/-! Admission (R145, R146). -/

/-- What a walk over regions has found: a page that fails, more leaves than may be walked, and leaves that may still be walked. -/
structure RegionWalk where
  failed : Bool
  overrun : Bool
  left : Nat
deriving DecidableEq, Repr

/-- Walk the leaves of the pages from va to end (R145). -/
def State.regionWalk (s : State) (fn : Nat) : (left : Nat) → (va end_ : Nat) → (failed : Bool) → RegionWalk
  | 0, va, e, b => ⟨b, decide (va < e), 0⟩
  | k + 1, va, e, b =>
    if e ≤ va then ⟨b, false, k + 1⟩ else
    -- a page of no canonical address has no leaf (R79)
    if va >>> 57 ≠ 0 then s.regionWalk fn k (va + 4096) e true else
    match s.walk fn va with
    | .error _ => s.regionWalk fn k (va + 4096) e true
    | .ok l =>
      let ok := pteKind l.pte == 0 && bit l.pte 10 && !bit l.pte 11 && s.ownsRange fn (ptePaddr l.pte) (2 ^ l.shift)
      s.regionWalk fn k ((va >>> l.shift + 1) <<< l.shift) e (b || !ok)

/-- The requester of a region list: the scheduler, in the function's memory. -/
def regionAcc (fn : Nat) : Acc := { baseAcc fn 0 0 with base := false }

/-- The device reads the entries of a guaranteed record's region list: each read takes its access number (R101). -/
def regionReads (fn r : Nat) : M Unit :=
  (List.range (bits r 472 8)).forM (fun i => do
    let _ ← loadBytes (regionAcc fn) (bits r 416 51 * 64 + 16 * i) 16)

/-- The region reasons of a guaranteed record: 3 UNPINNED where a page of a well-formed entry fails, 4 REGION where an entry
is unreadable or malformed or too many leaves would be walked. -/
def State.regionReasons (s : State) (fn r : Nat) : List Nat :=
  let n := bits r 472 8
  let base := bits r 416 51 * 64
  let read (i : Nat) : Option Nat :=
    match loadBytes (regionAcc fn) (base + 16 * i) 16 s with
    | .ok (some b) _ => some (leVal b)
    | _ => none
  let wellFormed (x : Nat) : Bool := bits x 12 45 * 2 ^ 12 + bits x 64 32 * 2 ^ 64 == x && bits x 64 32 != 0
  let entries := (List.range n).map read
  let good := (entries.filterMap (fun e => e)).filter wellFormed
  let w := good.foldl (fun (w : RegionWalk) x =>
    if w.overrun then w else
    let va := bits x 12 45 * 4096
    s.regionWalk fn w.left va (va + bits x 64 32 * 4096) w.failed) ⟨false, false, 4096⟩
  (if w.failed then [3] else []) ++ (if w.overrun || decide (good.length < n) then [4] else [])

/-- The reason for refusing a well-formed record; none when it is accepted (R146). -/
def State.refuse (s : State) (fn r : Nat) : Option Nat :=
  let cls := bits r 8 4
  if (s.plan fn r true false true).isNone then some 6
  else if cls = 0 then
    let l := (if (s.planNow fn r).isNone then [1] else [])
      ++ (if bits r 384 32 < 4000 + ceilDiv (10 * guarQ r) 36 then [2] else [])
      ++ s.regionReasons fn r
      ++ (if 256 ≤ (s.gangs.filter (fun g => g.cls == 0)).length then [5] else [])
    (l.mergeSort (fun a b => decide (a ≤ b))).head?
  else if 1024 ≤ (s.gangs.filter (fun g => g.phase == .queued || g.phase == .preempted)).length then some 7
  else none

/-- A gang from a record. -/
def State.newGang (s : State) (fn : Nat) (line : Option Nat) (recVA : Word) (r : BitVec 512) (level : Nat) : Gang where
  id := s.gangCtr
  fn := fn
  line := line
  recVA := recVA
  record := r
  level := level
  phase := .queued
  accepted := s.dev.devtime.toNat
  headSince := none
  cyc := 0
  bytes := 0
  stop := none
  placedSeq := 0

/-- Hand a record to the scheduler: status of the decision and its reason (R146, R149, R383). An admission that must evict waits until the
rows stand where they may stop; nothing is decided before. While a device reset is due every gang stops with DEVFAULT (R234), this one too. -/
def submit (fn : Nat) (line : Option Nat) (recVA : Word) (r : BitVec 512) (level : Nat) : M (Nat × Nat) := do
  let s ← get
  let g := s.newGang fn line recVA r level
  set { s with gangCtr := s.gangCtr + 1 }
  if recMalformed r.toNat then
    modify (fun s => s.complete g 4 0 0)
    pure (4, 0)
  else do
    if g.cls = 0 then regionReads fn r.toNat
    let s ← get
    match s.refuse fn r.toNat with
    | some why => do
      modify (fun s => s.complete g 1 why 0)
      pure (1, why)
    | none => do
      if s.resetDue then do
        modify (fun s => s.complete g 6 0 0)
        return (0, 0)
      modify (fun s => { s with gangs := s.gangs ++ [g] })
      if g.cls = 0 then
        match s.planOf g with
        | some l => placeNew g l
        | none => pure ()
      else modify State.noteHeads
      pure (0, 0)

/-! Launch windows (R65 to R67). -/

/-- LLEV of a function's window launches (R215). -/
def State.llev (s : State) (fn : Nat) : Nat :=
  if fn = 0 then (if BB (s.fn 0).trapentry 1 then 2 else 0) else b2n (BB (s.fn fn).vfcfg 227)

/-- Is a function's window live (R15, R65)? -/
def State.windowLive (s : State) (fn : Nat) : Bool :=
  s.accepts && (fn == 0 || (BB (s.fn fn).vfcfg 224 && !s.vfResetting.contains fn))

/-- Physical address of a function's window. -/
def State.windowBase (s : State) (fn : Nat) : Nat :=
  if fn = 0 then BF s.dev.launchwin 10 37 * 1024 else BF (s.fn fn).vfcfg 160 37 * 1024

/-- The live windows that hold a line address: function and line number. -/
def State.windowsAt (s : State) (pa : Nat) : List (Nat × Nat) :=
  (List.range 65).filterMap (fun f =>
    let b := s.windowBase f
    if s.windowLive f && decide (b ≤ pa) && decide (pa < b + 1024) then some (f, (pa - b) / 64) else none)

/-- Is a window line busy? -/
def State.lineBusy (s : State) (fn line : Nat) : Bool := s.gangs.any (fun g => g.fn == fn && g.line == some line)

/-- The push of a full-line write reaches the scheduler: the oldest of its line (R67). -/
def State.launchPush (s : State) (fn line : Nat) (r : BitVec 512) : State :=
  if (s.launchQ.find? (fun x => x.1 == fn && x.2.1 == line)) == some (fn, line, r) then
    let t := { s with launchQ := s.launchQ.erase (fn, line, r) }
    if s.lineBusy fn line then t.complete (s.newGang fn (some line) 0 r 0) 5 0 0
    else match whole (submit fn (some line) 0 r (s.llev fn)) t with
      | .ok _ t => t
      | .error _ t => { t with launchQ := s.launchQ }
  else s

/-- A gang reset through GANGRESET (R73, R74). -/
def State.gangReset (s : State) (fn line : Nat) : State :=
  match s.gangs.find? (fun g => g.fn == fn && g.line == some line) with
  | none => s
  | some g =>
    match g.phase with
    | .queued => { s.complete g 7 0 0 with gangs := s.gangs.filter (fun x => x.id != g.id) }.noteHeads
    | _ => if s.gangHalted g.id && g.stop.isNone then s else (s.stopGang g.id 7 0).setGangBusy fn

/-- Restore a suspended row on the first eligible cluster of the search order (R163). VSTART and MTROW stay as scalar writes have left them since
(R159; log 46, DEDUCED, unsafe). -/
def State.rowRestore (s : State) (hart r : Nat) : State :=
  match s.hart? hart with
  | none => s
  | some h =>
    match h.rows[r]? with
    | none => s
    | some row =>
      if row.cluster.isSome || h.saved || h.stopped then s else
      let cls := s.clsOf h
      let mine := h.rows.filterMap Row.cluster
      let order := searchOrder h.core
      let cands := order.filter (fun c => !s.reserved c) ++ order.filter (fun c => s.reserved c)
      match cands.find? (fun c => !mine.contains c && s.clusterOk s.occ cls false c) with
      | none => s
      | some c =>
        s.sched (do
          let rb := s.areaVA h + 0x8_2000 + r * 0x1_2000
          match ← loadBytes (s.trapAcc h) rb 0x2000 with
          | none => contextFault h.gang 0x13 r (some rb)
          | some b =>
            if crc32c ((b.drop 0x400).take 0x800) ≠ leVal ((b.drop 0x3FC).take 4) then contextFault h.gang 0x13 r (some rb)
            else match ← loadTiles (s.trapAcc h) rb b with
              | none => contextFault h.gang 0x13 r (some rb)
              | some t => modify (fun s => s.modRow hart r (fun x =>
                  { x.restore b (b.drop 0x1000) with
                    cluster := some c, vstart := x.vstart, mtrow := x.mtrow, mt0 := t.1, mt1 := t.2, readySince := s.dev.devtime.toNat })))

end Sys2Proof.Machine
end

