-- ==== Sys2Proof/Machine/Trees.lean ====
section
/-! DEFINITION. In-network reduction trees: install, operands, results (R54 to R59). -/

namespace Sys2Proof.Machine

/-- Is a tree record malformed (R55)? -/
def treeMalformed (r : Nat) : Bool :=
  let fields := [(0, 8), (8, 1), (9, 3), (12, 6), (32, 16), (48, 10), (69, 52), (128, 11)]
  let known := sumN (fields.map (fun f => bits r f.1 f.2 * 2 ^ f.1))
  let fmt := treeFmt r
  known != r || decide (5 < treeOp r) || !([4, 5, 6, 7, 16, 17, 18].contains fmt)
    || (decide (3 ≤ treeOp r) && decide (16 ≤ fmt)) || bits r 32 16 == 0
    || decide (treeBytes r < 4) || decide (512 < treeBytes r) || treeBytes r % (fmtWidth fmt / 8) != 0
    || treeNodes r == 0 || decide (1024 < treeNodes r)

/-- Is a node id of a kind and index that exist (R56)? -/
def nodeOk (n : Nat) : Bool :=
  match nodeKind n with
  | 0 => decide (nodeIdx n < 192)
  | 1 => decide (nodeIdx n < 192)
  | 2 => decide (nodeIdx n < 4)
  | 3 => decide (nodeIdx n < 20)
  | _ => false

/-- A node of a node entry of 256 bits; none when it is malformed (R56). -/
def State.parseNode (s : State) (e : Nat) : Option TreeNode :=
  let node := bits e 0 21
  let parent := bits e 32 21
  let root := bit e 53
  let nch := bits e 56 3
  let ch := [bits e 64 21, bits e 96 21, bits e 128 21, bits e 160 21]
  let known := node + parent * 2 ^ 32 + b2n root * 2 ^ 53 + nch * 2 ^ 56
    + ch.getD 0 0 * 2 ^ 64 + ch.getD 1 0 * 2 ^ 96 + ch.getD 2 0 * 2 ^ 128 + ch.getD 3 0 * 2 ^ 160
  if known != e || nodeDev node != s.devId || !nodeOk node || (root && parent != 0) || (!root && (!nodeOk parent || nodeKind parent == 0))
    || decide (4 < nch) || ((nch == 0) != (nodeKind node == 0))
    || (ch.take nch).any (fun c => !nodeOk c) || (ch.drop nch).any (fun c => c != 0) then none
  else some { node := node, parent := parent, root := root, children := ch.take nch, ops := List.replicate nch none, timer := none }

/-- Set TREESTAT of a function. -/
def State.treestat (s : State) (fn tree st : Nat) : State :=
  s.modFn fn (fun g => { g with treestat := BitVec.ofNat 64 (tree * 2 ^ 8 + st) })

/-- The requester that reads tree records (R54). -/
def treeAcc (fn : Nat) : Acc := { baseAcc fn 0 0 with base := false, hart := 2 ^ 33 + fn }

/-- The bytes that a tree command reads: none when a translation fails. It never parks. -/
def treeBytesAt (fn va n : Nat) : M (Option (List Byte × List Bool)) := do
  match ← apertureOf (treeAcc fn) va with
  | some (i, rec) =>
    let base := bits rec 144 41 * 65536
    let r ← readSurface (treeAcc fn) i rec base (va - base) n
    pure (some r)
  | none =>
  let ps ← (linePieces va (List.replicate n ())).mapM (fun p => do
    let x ← xlateQuiet (treeAcc fn) p.1 false
    pure (x.map (fun x => (p.1, p.2.length, x))))
  if ps.any Option.isNone then pure none else
  let r ← (ps.filterMap (fun p => p)).foldlM (fun (r : List Byte × List Bool) p => do
    let y ← readPiece (treeAcc fn) p.1 p.2.2 p.2.1
    pure (r.1 ++ y.1, r.2 ++ y.2)) ([], [])
  pure (some r)

/-- Read memory for a tree command: none when it cannot be read, or a byte is poisoned. What would park leaves no fault open. -/
def treeRead (fn va n : Nat) : M (Option Nat) := do
  let s ← get
  match ← attempt (treeBytesAt fn va n) with
  | .ok (some r) => pure (if r.2.any id then none else some (leVal r.1))
  | .ok none => pure none
  | .error .wait => waitM
  | .error (.park _) => do
    modify s.waited
    pure none
  | .error (.trap _) => pure none

/-- The command a write of TREESET starts (R54). -/
def treeCommand (fn va : Nat) : M Unit := do
  match ← treeRead fn va 64 with
  | none => modify (fun s => s.treestat fn 0 5)
  | some r =>
    let id := bits r 0 8
    let s ← get
    let own := s.trees.find? (fun t => t.id == id)
    if !bit r 8 then
      match own with
      | some t =>
        if t.owner = fn then
          modify (fun s =>
            let s := s.teardown id
            { s with trees := s.trees.filter (fun t => t.id != id) }.treestat fn id 0)
        else modify (fun s => s.treestat fn id 2)
      | none => modify (fun s => s.treestat fn id 0)
    else
      match ← treeRead fn (bits r 69 52 * 32) (32 * treeNodes r) with
      | none => modify (fun s => s.treestat fn id 5)
      | some l =>
        if treeMalformed r then modify (fun s => s.treestat fn id 3) else
        let nodes := (List.range (treeNodes r)).map (fun i => s.parseNode (bits l (256 * i) 256))
        let ok := nodes.filterMap (fun x => x)
        let dup := ok.any (fun n => decide (1 < (ok.filter (fun m => m.node == n.node)).length))
        if ok.length ≠ nodes.length ∨ dup then modify (fun s => s.treestat fn id 3)
        else
          let quota := (s.trees.filter (fun t => t.owner == fn)).length
          let t : Tree := { id := id, owner := fn, installed := true, record := BitVec.ofNat 512 r, nodes := ok }
          match own with
          | some o =>
            if o.owner ≠ fn ∨ o.installed then modify (fun s => s.treestat fn id 2)
            else modify (fun s => { s with trees := s.trees.map (fun (x : Tree) => if x.id == id then t else x) }.treestat fn id 0)
          | none =>
            if BF (s.fn fn).fabpart 16 9 ≤ quota then modify (fun s => s.treestat fn id 4)
            else modify (fun s => { s with trees := s.trees ++ [t] }.treestat fn id 0)

/-- The oldest tree command of a function goes on: to its end, or busy while a read of it still waits. TREESTAT.TREE is 0 while the record has
not been read, and where it cannot be (log 75, DESIGN CHOICE, unsafe). -/
def State.treeRun (s : State) (fn : Nat) : State :=
  let who := (treeAcc fn).hart
  match (s.fn fn).treeWaiting with
  | [] => s
  | va :: rest =>
    match whole (treeCommand fn va) (s.retry who 0) with
    | .ok _ t => (t.settle who 0).modFn fn (fun g => { g with treeWaiting := rest })
    | .error _ t => t.treestat fn 0 1

/-- A write of TREESET (R54): the command runs once the earlier ones of its function have ended. -/
def State.treeSet (s : State) (fn va : Nat) : State :=
  let idle := (s.fn fn).treeWaiting.isEmpty
  let s := s.modFn fn (fun g => { g with treeWaiting := g.treeWaiting ++ [va] })
  if idle then s.treeRun fn else s

/-- Elements of a contribution. -/
def treeElems (r : Nat) : Nat := treeBytes r * 8 / fmtWidth (treeFmt r)

/-- Combine two contributions element by element: data, poison of elements, flags (R57, R58). -/
def treeCombine (r : Nat) (x y : Nat × Nat × Nat) : Nat × Nat × Nat :=
  let w := fmtWidth (treeFmt r)
  (List.range (treeElems r)).foldl (fun a e =>
    let p := bit x.2.1 e || bit y.2.1 e
    let c := combine (treeOp r) (treeFmt r) (bits x.1 (w * e) w) (bits y.1 (w * e) w)
    (a.1 + c.1 * 2 ^ (w * e), a.2.1 + b2n p * 2 ^ e, a.2.2 ||| (if p then 0 else c.2)))
    (0, 0, x.2.2 ||| y.2.2)

/-- Send a contribution from a node to its parent. -/
def State.sendUp (s : State) (t : Tree) (n : TreeNode) (x : Nat × Nat × Nat) : State :=
  if nodeDev n.parent == s.devId then
    { s with treeUp := s.treeUp ++ [(t.id, n.parent, n.node, x.1, x.2.1, x.2.2)] }
  else s.treeSend 8 t t.elemBytes (n.msg t n.parent x)

/-- Change one node of an installed tree. -/
def State.modNode (s : State) (tree node : Nat) (f : TreeNode → TreeNode) : State :=
  { s with trees := s.trees.map (fun (t : Tree) => if t.id == tree
      then { t with nodes := t.nodes.map (fun (n : TreeNode) => if n.node == node then f n else n) } else t) }

/-- Change FABPSTAT of a port. -/
def State.modPort (s : State) (p : Nat) (f : Word → Word) : State :=
  s.modDev (fun d => { d with fabpstat := d.fabpstat.setIfInBounds p (f (d.fabpstat[p]?.getD 0)) })

/-- Count a discarded flit in CRCERR of a port, saturating (R47, R48). -/
def State.countCrc (s : State) (p : Nat) : State :=
  s.modPort p (fun v => WS v 16 16 (min 0xFFFF (BF v 16 16 + 1)))

/-- An operand of a child reaches a node (R57): held, and combined when all are there. One for a tree that is not installed is discarded and
counted (R59) at the fabric port that the node is, else at port 0 (log 75, DESIGN CHOICE, unsafe). -/
def State.nodeOperand (s : State) (tree node child : Nat) (x : Nat × Nat × Nat) : State :=
  match s.treeNode? tree node with
  | none => s.countCrc (if nodeKind node = 3 then nodeIdx node else 0)
  | some (t, n) =>
    match n.children.findIdx? (fun c => c == child) with
    | none => s
    | some i =>
      let ops := n.ops.set i (some x)
      let now := s.dev.devtime.toNat
      if ops.all Option.isSome then
        let l := ops.filterMap (fun o => o)
        let acc := match l with
          | [] => (0, 0, 0)
          | a :: rest => rest.foldl (treeCombine t.record.toNat) a
        let s := s.modNode tree node (fun n => { n with ops := n.ops.map (fun _ => none), timer := none })
        if n.root then s.sendDown t n acc else s.sendUp t n acc
      else s.modNode tree node (fun n => { n with ops := ops, timer := some (n.timer.getD now) })

/-- The step REDUCTION_OPERAND: an operand on its way inside the device, or one that another device's child sends. -/
def State.reductionOperand (s : State) (tree node child data poison flags : Nat) : State :=
  let key := (tree, node, child, data, poison, flags)
  if s.treeUp.contains key then { s with treeUp := s.treeUp.erase key }.nodeOperand tree node child (data, poison, flags)
  else if nodeDev child != s.devId && s.devId < 640 then s.nodeOperand tree node child (data, poison, flags)
  else s

/-- The step REDUCTION_RESULT: a result moves down to a node or reaches a leaf. -/
def State.reductionResult (s : State) (tree node data poison flags : Nat) : State :=
  let key := (tree, node, data, poison, flags)
  let go (s : State) : State := s.resultAt tree node (data, poison, flags)
  if s.treeDown.contains key then go { s with treeDown := s.treeDown.erase key }
  else match s.treeNode? tree node with
    | some (_, n) => if !n.root && nodeDev n.parent != s.devId && decide (s.devId < 640) then go s else s
    | none => s

/-- The step REDUCTION_TIMEOUT: a node's timer has run out (R59). -/
def State.reductionTimeout (s : State) (tree node : Nat) : State :=
  match s.treeNode? tree node with
  | none => s
  | some (t, n) =>
    match n.timer with
    | none => s
    | some since => if BF t.record 32 16 * 1000 ≤ s.dev.devtime.toNat - since then s.teardown tree else s

end Sys2Proof.Machine
end

