-- ==== Sys2Proof/Machine/Bar.lean ====
section
/-! DEFINITION. BAR0 of each function: every register of the spec, as a read shows it and as a write changes it (R16, R21, R28, R36,
R42, R48, R54, R63, R64, R67, R73, R77, R82, R85, R87, R91, R99, R100, R121, R122, R141, R195, R215, R228, R384). -/

namespace Sys2Proof.Machine

/-- Writing 1 to any bit of a field clears it (W1C). -/
def w1c (old v : Word) (lo n : Nat) : Word := if BF v lo n = 0 then old else WS old lo n 0

/-- A write that reaches the named fields of a register and nothing else. -/
def wFields (old v : Word) (fs : List (Nat × Nat)) : Word :=
  fs.foldl (fun o f => WS o f.1 f.2 (BF v f.1 f.2)) old

/-- Admitted guaranteed gangs. -/
def State.gadm (s : State) : Nat := (s.gangs.filter (fun g => g.cls == 0)).length

/-- SCHEDSTAT as a read shows it (R141). -/
def State.schedstat (s : State) : Word :=
  BitVec.ofNat 64 (s.dev.preempt.toNat * 2 ^ 48
    + (s.gangs.filter (fun g => g.phase == .placed)).length * 2 ^ 32
    + (s.gangs.filter (fun g => g.phase == .queued || g.phase == .preempted)).length * 2 ^ 16 + s.gadm)

/-- IDPART (R16). -/
def idpart : Word := BitVec.ofNat 64 (0x4B4C * 2 ^ 48 + 0x20 * 2 ^ 32 + (Config.major 0).toNat * 2 ^ 24 + (Config.minor 0).toNat * 2 ^ 16)

/-- IDCONF (R16). -/
def idconf : Word := 0x0004_1430_10C0_4004

/-- IDSER: the serial number of the module, never zero (R16). -/
def serialNo : Word := if Config.serial 0 = 0 then 1 else Config.serial 0

/-- Doubleword w of a function's VFCFG with RESETTING (R64). -/
def State.vfcfgWord (s : State) (f w : Nat) : Word :=
  let x := BF (s.fn f).vfcfg (64 * w) 64
  BitVec.ofNat 64 (if w = 3 ∧ s.vfResetting.contains f then setBits x 34 1 1 else x)

/-- Registers that every function has, in its own BAR0. -/
def State.fnRead (s : State) (f off : Nat) : Word :=
  let g := s.fn f
  match off with
  | 0x0000 => idpart
  | 0x0008 => idconf
  | 0x0010 => serialNo
  | 0x0038 => s.dev.devtime
  | 0x0100 => g.surftab
  | 0x0108 => if g.surfBusy then 0x1000 else 0
  | 0x0110 => g.savecfg
  | 0x0118 => if f = 0 then g.trapentry else WS g.trapentry 1 1 (BF g.vfcfg 227 1)
  | 0x0128 => g.treestat
  | 0x0140 => if f = 0 then s.dev.launchwin else BitVec.ofNat 64 (BF g.vfcfg 160 37 * 2 ^ 10)
  | 0x0148 => BitVec.ofNat 64 (g.partial16.toNat * 2 ^ 32
      + sumN ((List.range 16).map (fun l => b2n (s.lineBusy f l) * 2 ^ l)))
  | 0x0150 => if g.gangBusy then 0x1_0000_0000 else 0
  | 0x0160 => if f = 0 then 0 else s.vfcfgWord f 0
  | 0x0168 => if f = 0 then 0 else s.vfcfgWord f 1
  | 0x0170 => if f = 0 then 0 else s.vfcfgWord f 2
  | 0x0178 => if f = 0 then 0 else s.vfcfgWord f 3
  | 0x0180 => g.ptroot
  | 0x0188 => if g.xlBusy then 0x40 else 0
  | 0x0190 => g.fqcfg
  | 0x0198 => BitVec.ofNat 64 (b2n (!g.fqWaiting.isEmpty && g.fqFull) * 2 ^ 32 + g.fqTail.toNat * 2 ^ 16 + g.fqHead.toNat)
  | 0x01A0 => g.kvpool
  | 0x01A8 => g.kvmeta
  | 0x01B0 => BitVec.ofNat 64 (g.kvAlloc.toNat * 2 ^ 32 + b2n g.kvBusy * 2)
  | 0x01B8 => g.frstat
  | _ => if 0x01C0 ≤ off ∧ off < 0x0200 ∧ off % 8 = 0 then
      BitVec.ofNat 64 (BF ((g.hrange[(off - 0x01C0) / 16]?).getD 0) (64 * (off / 8 % 2)) 64)
    else 0

/-- Registers only the physical function's BAR0 has; 0 elsewhere. -/
def State.pfRead (s : State) (off : Nat) : Word :=
  let d := s.dev
  match off with
  | 0x0018 => d.idstat
  | 0x0020 => d.schedcfg
  | 0x0028 => s.schedstat
  | 0x0030 => d.memerr
  | 0x0040 => d.pwrctl
  | 0x0048 => d.pwrstat
  | 0x0050 => d.thermstat
  | 0x0058 => d.oscnt
  | 0x0060 => d.rascap
  | 0x0068 => d.frametab
  | 0x0070 => d.heatcfg
  | 0x0080 => (d.heatcnt[0]?).getD 0
  | 0x0088 => (d.heatcnt[1]?).getD 0
  | 0x0090 => (d.heatcnt[2]?).getD 0
  | 0x0098 => (d.heatcnt[3]?).getD 0
  | 0x0200 => d.fabcfg
  | _ =>
    if off % 8 ≠ 0 then 0
    else if 0x0280 ≤ off ∧ off < 0x0320 then (d.fabpstat[(off - 0x0280) / 8]?).getD 0
    else if 0x0400 ≤ off ∧ off < 0x0608 then (s.fn ((off - 0x0400) / 8)).fabpart
    else if 0x1000 ≤ off ∧ off < 0x1800 then s.vfcfgWord ((off - 0x1000) / 32 + 1) (off / 8 % 4)
    else if 0x2000 ≤ off ∧ off < 0x2820 then s.qosctx ((off - 0x2000) / 32) (off / 8 % 4)
    else if 0x4000 ≤ off ∧ off < 0x5040 then
      BitVec.ofNat 64 (BF (((s.fn ((off - 0x4000) / 64)).hrange[(off - 0x4000) / 16 % 4]?).getD 0) (64 * (off / 8 % 2)) 64)
    else 0

/-- The value a read of function f's BAR0 gives (R63). -/
def State.barRead (s : State) (f off : Nat) : Word :=
  if f = 0 then
    (if (0x0018 ≤ off ∧ off < 0x0100 ∧ off ≠ 0x0038) ∨ 0x0200 ≤ off then s.pfRead off else s.fnRead 0 off)
  else s.fnRead f off

/-! Writes. -/

/-- HRANGE doubleword w of range i of function f (R85): EN is stored 0 when the far ranges would pass FARQ. Whether the far ranges of
all functions together pass 2,304 GiB is not checked (R1, R97; log 79, DESIGN CHOICE, unsafe). -/
def State.hrangeWrite (s : State) (f i w : Nat) (v : Word) : State :=
  let old := ((s.fn f).hrange[i]?).getD 0
  let new := if w = 0
    then BitVec.ofNat 128 (BF old 64 64 * 2 ^ 64 + BF v 12 40 * 2 ^ 12 + BF v 0 2)
    else BitVec.ofNat 128 (BF v 12 40 * 2 ^ 76 + BF old 0 64)
  let s' := s.modFn f (fun g => { g with hrange := g.hrange.setIfInBounds i new })
  let total := sumN ((s'.fn f).hrange.toList.map (fun r =>
    if BB r 0 && BF r 1 1 == 0 then (BF r 76 40 - BF r 12 40) * 4096 else 0))
  if f ≠ 0 ∧ BB new 0 ∧ BF new 1 1 = 0 ∧ BF (s.fn f).vfcfg 21 21 * 2 ^ 21 < total then
    s.modFn f (fun g => { g with hrange := g.hrange.setIfInBounds i (new &&& ~~~(1 : BitVec 128)) })
  else s'

/-- QOSCTX of a context (R77): the guaranteed rates sum to at most 2,048 once they are there. -/
def State.qosWrite (s : State) (f c : Nat) (v : Word) : State :=
  let depth := max 1 (BF v 16 16)
  let want := min 4096 (BF v 0 16)
  let old := BF (s.qosctx f c) 0 16
  let others := sumN (((List.range 65).filter (fun x => x != f)).map (fun x => BF (s.qosctx x 0) 0 16))
  let rate := if c ≠ 0 ∨ want ≤ old ∨ others + want ≤ 2048 then want else max old (2048 - others)
  let new := BitVec.ofNat 64 (BF v 32 1 * 2 ^ 32 + depth * 2 ^ 16 + rate)
  s.modFn f (fun g => { g with qos := g.qos.setIfInBounds c new })

/-- A function-level reset begins (R75, steps 1 and 2): the function receives no work; its harts stop at once and give up their clusters,
and nothing more is reported of its gangs. Writes that have left the device go on to their homes, and the reset waits for them. -/
def State.vfResetStart (s : State) (f : Nat) : State :=
  if f = 0 ∨ 64 < f ∨ s.vfResetting.contains f then s else
  let ids := (s.harts.filter (fun h => h.fn == f)).map Hart.id
  let s := ids.foldl State.quietHart s
  { s with
    vfResetting := s.vfResetting ++ [f]
    harts := s.harts.map (fun (h : Hart) => if h.fn == f then { h with rows := h.rows.map (fun (r : Row) => { r with cluster := none }) } else h)
    gangs := s.gangs.filter (fun g => g.fn != f)
    launchQ := s.launchQ.filter (fun x => x.1 != f)
    cpls := s.cpls.filter (fun c => c.fn != f)
    hints := s.hints.filter (fun x => !ids.contains x.1) }.noteHeads

/-- Doubleword w of VFCFG of function f (R64). Writing 1 to RESET starts a function-level reset. A SUBQ above its range stores the range's end
(log 81, DESIGN CHOICE, unsafe). -/
def State.vfcfgWrite (s : State) (f w : Nat) (v : Word) : State :=
  let x := (s.fn f).vfcfg.toNat
  let set (lo n val : Nat) (x : Nat) : Nat := setBits x lo n val
  match w with
  | 0 => s.modFn f (fun g => { g with vfcfg := BitVec.ofNat 256 (set 0 42 (BF v 0 42) x) })
  | 1 => s.modFn f (fun g => { g with vfcfg := BitVec.ofNat 256 (set 96 17 (min 65536 (BF v 32 17)) (set 64 32 (BF v 0 32) x)) })
  | 2 => s.modFn f (fun g => { g with vfcfg := BitVec.ofNat 256 (set 160 32 (BF v 32 32) (set 128 21 (min 1048576 (BF v 0 21)) x)) })
  | _ =>
    let s := s.modFn f (fun g => { g with vfcfg := BitVec.ofNat 256 (set 227 1 (BF v 35 1) (set 224 1 (BF v 32 1) (set 192 5 (BF v 0 5) x))) })
    if BB v 33 then s.vfResetStart f else s

/-- XLINV (R87): starts an invalidation, or waits for the one in progress. -/
def State.xlinvWrite (s : State) (f : Nat) (v : Word) : State :=
  s.modFn f (fun g => if g.xlBusy then { g with xlWaiting := g.xlWaiting ++ [v] }
    else { g with xlBusy := true, xlVA := BF v 12 45, xlLog2n := BF v 0 6 })

/-- FQCFG (R91): a frame the function does not own sets ERR and stores EN = 0. -/
def State.fqcfgWrite (s : State) (f : Nat) (v : Word) : State :=
  let lg := min 9 (BF v 8 4)
  let base := BF v 12 35
  let err := !s.ownsRange f (base * 4096) (128 * 2 ^ lg * 32)
  (s.modFn f (fun g => { g with
    fqcfg := BitVec.ofNat 64 (base * 2 ^ 12 + lg * 2 ^ 8 + b2n err * 2 + (if err then 0 else BF v 0 1)) })).fqDrain f

/-- KVPOOL (R121, R122): EN from 0 to 1 starts the zeroing of the metadata area. -/
def State.kvpoolWrite (s : State) (f : Nat) (v : Word) : State :=
  let g := s.fn f
  let lg := max 4 (min 24 (BF v 8 5))
  let rs := if 5 < BF v 1 3 then 5 else BF v 1 3
  let new := BitVec.ofNat 64 (BF v 21 36 * 2 ^ 21 + lg * 2 ^ 8 + rs * 2 + BF v 0 1)
  if BB g.kvpool 0 then
    if !BB v 0 && g.kvAlloc == 0 then s.modFn f (fun g => { g with kvpool := new, kvBusy := false, kvPark := none }) else s
  else s.modFn f (fun g => { g with kvpool := new, kvBusy := BB v 0 })

/-- Registers of a function's own BAR0. -/
def State.fnWrite (s : State) (f off : Nat) (v : Word) : State :=
  match off with
  | 0x0100 => s.modFn f (fun g => { g with surftab := BitVec.ofNat 64 (BF v 16 41 * 2 ^ 16 + min 1024 (BF v 0 11)) })
  | 0x0108 => s.modFn f (fun g => { g with surfBusy := true, surfPending := g.surfPending ++ [if BB v 11 then 2048 else BF v 0 11] })
  | 0x0110 =>
    if s.gangs.any (fun g => g.fn == f) then s else
    let rows := max 1 (min 64 (BF v 7 7))
    s.modFn f (fun g => { g with savecfg := BitVec.ofNat 64 (BF v 21 36 * 2 ^ 21 + rows * 2 ^ 7 + min 16 (BF v 0 5)) })
  | 0x0118 => s.modFn f (fun g => { g with trapentry := wFields 0 v (if f = 0 then [(2, 55), (1, 1), (0, 1)] else [(2, 55), (0, 1)]) })
  | 0x0120 => s.treeSet f (BF v 6 51 * 64)
  | 0x0140 => if f = 0 then s.modDev (fun d => { d with launchwin := wFields 0 v [(10, 37)] }) else s
  | 0x0148 => s.modFn f (fun g => { g with partial16 := if BF v 32 16 = 0 then g.partial16 else 0 })
  | 0x0150 => s.gangReset f (BF v 0 4)
  | 0x0180 => s.modFn f (fun g => { g with ptroot := wFields 0 v [(21, 26), (0, 1)] })
  | 0x0188 => s.xlinvWrite f v
  | 0x0190 => s.fqcfgWrite f v
  | 0x0198 => (s.modFn f (fun g => { g with fqHead := BitVec.ofNat 16 (BF v 0 16 % g.fqSize) })).fqDrain f
  | 0x01A0 => s.kvpoolWrite f v
  | 0x01A8 =>
    if BB (s.fn f).kvpool 0 then s else
    s.modFn f (fun g => { g with kvmeta := BitVec.ofNat 64 (BF v 12 45 * 2 ^ 12 + max 10 (min 20 (BF v 0 5))) })
  | 0x01B8 => s.modFn f (fun g => { g with frstat := w1c g.frstat v 32 16 })
  | _ => s

/-- Registers only the physical function's BAR0 has. -/
def State.pfWrite (s : State) (off : Nat) (v : Word) : State :=
  match off with
  | 0x0020 => s.modDev (fun d =>
      let pr := max 1 (BF v 8 16)
      let low := if s.gadm = 0 then BF v 0 8 else BF v 0 8 ||| BF d.schedcfg 0 8
      { d with schedcfg := BitVec.ofNat 64 (pr * 2 ^ 8 + low) })
  | 0x0028 => s.modDev (fun d => { d with preempt := if BF v 48 16 = 0 then d.preempt else 0 })
  | 0x0030 => s.modDev (fun d => { d with memerr := w1c d.memerr v 0 32 })
  | 0x0040 => s.modDev (fun d => { d with pwrctl := BitVec.ofNat 64 (max 1800 (min 4500 (BF v 0 13))) })
  | 0x0048 => s.modDev (fun d => { d with pwrstat := w1c d.pwrstat v 16 16 })
  | 0x0050 => s.modDev (fun d => { d with thermstat := w1c (w1c d.thermstat v 2 1) v 1 1 })
  | 0x0058 => s.modDev (fun d => { d with oscnt := w1c (w1c d.oscnt v 32 32) v 0 32 })
  | 0x0068 => s.modDev (fun d => { d with frametab := wFields 0 v [(21, 26)] })
  | 0x0070 => s.modDev (fun d =>
      let h := max 4 (min 16 (BF v 16 5))
      { d with heatcfg := BitVec.ofNat 64 (BF v 32 1 * 2 ^ 32 + h * 2 ^ 16 + BF v 0 16 % 2 ^ h) })
  | 0x0200 => s.modDev (fun d => { d with fabcfg := BitVec.ofNat 64 (max 1 (BF v 32 16) * 2 ^ 32 + BF v 16 10 * 2 ^ 16) })
  | _ =>
    if off % 8 ≠ 0 then s
    else if 0x0280 ≤ off ∧ off < 0x0320 then s.modPort ((off - 0x0280) / 8) (fun o => w1c (w1c o v 32 16) v 16 16)
    else if 0x0400 ≤ off ∧ off < 0x0608 then
      s.modFn ((off - 0x0400) / 8) (fun g => { g with fabpart := BitVec.ofNat 64 (min 256 (BF v 16 9) * 2 ^ 16 + BF v 0 16) })
    else if 0x1000 ≤ off ∧ off < 0x1800 then s.vfcfgWrite ((off - 0x1000) / 32 + 1) (off / 8 % 4) v
    else if 0x2000 ≤ off ∧ off < 0x2820 then s.qosWrite ((off - 0x2000) / 32) (off / 8 % 4) v
    else if 0x4000 ≤ off ∧ off < 0x5040 then s.hrangeWrite ((off - 0x4000) / 64) ((off - 0x4000) / 16 % 4) (off / 8 % 2) v
    else s

/-- A write of 8 bytes to function f's BAR0 (R63). -/
def State.barWrite (s : State) (f off : Nat) (v : Word) : State :=
  if f = 0 then
    (if (0x0018 ≤ off ∧ off < 0x0100) ∨ 0x0200 ≤ off then s.pfWrite off v else s.fnWrite 0 off v)
  else if off < 0x0100 then s else s.fnWrite f off v

end Sys2Proof.Machine
end

