-- ==== Sys2Proof/Machine/Access.lean ====
section
/-! DEFINITION. Scalar access to memory: windows, aperture, translation, the write buffer, atomics, instruction fetch (R63, R154, R168,
R202, R278 to R280). -/

namespace Sys2Proof.Machine

/-- Base of the function-register window (R63). -/
def regWindow : Nat := 0x1FF_FFFF_FFFF_0000

/-- Base of the scratchpad window (R278). -/
def padWindow : Nat := 0x1FF_FFFF_FFF0_0000

/-- The register window offset of an address. -/
def inRegWindow (va : Nat) : Option Nat := if regWindow ≤ va ∧ va < 2 ^ 57 then some (va - regWindow) else none

/-- The scratchpad offset of an address in the scratchpad window. -/
def inPadWindow (va : Nat) : Option Nat :=
  if padWindow ≤ va ∧ va < padWindow + 0x8_0000 then some (va - padWindow) else none

/-- Do two ranges of bytes overlap? -/
def overlap (a n b m : Nat) : Bool := decide (a < b + m) && decide (b < a + n)

/-- The range scoreboard: wait while a copy of the hart in flight covers the access (R210). -/
def scoreboard (va n : Nat) (wr : Bool) : M Unit := do
  let h ← theHart
  let hit := h.tokens.toList.any (fun t => match t.job with
    | none => false
    | some j => overlap va n j.hi.1 (j.hi.2 - j.hi.1) || (wr && overlap va n j.lo.1 (j.lo.2 - j.lo.1)))
  waitUnless (!hit)

/-! Scratchpad (R168). -/

/-- Bytes of a hart's scratchpad region and their poison; the slot page reads the slots. -/
def Hart.padRead (h : Hart) (off n : Nat) : List Byte × List Bool :=
  let slot (i : Nat) : Byte := BitVec.ofNat 8 (BF ((h.slots[(i - 0x7_F000) / 64]?).getD 0) (8 * (i % 64)) 8)
  let w := h.scratch.readN off n
  (if off + n ≤ 0x7_F000 then w
   else (List.range n).map (fun i => if off + i < 0x7_F000 then w.getD i 0 else slot (off + i)),
   (List.range n).map (fun i => if off + i < 0x7_F000 then poisonedAt h.scratchPoison (off + i) 1
     else BB h.slotPoison ((off + i - 0x7_F000) / 8)))

/-- Write bytes of a hart's scratchpad data. -/
def Hart.padWrite (h : Hart) (off : Nat) (bs : List Byte) (ps : List Bool) : Hart :=
  { h with scratch := h.scratch.write off bs, scratchPoison := poisonWrite h.scratchPoison off ps }

/-- Read the scratchpad: outside it, the access fault. `va` is the address the fault reports. -/
def padReadM (va off n : Nat) : M (List Byte × List Bool) := do
  if 0x8_0000 < off + n then trapM 0x07 (BitVec.ofNat 64 va)
  let h ← theHart
  pure (h.padRead off n)

/-- Write the scratchpad: outside its data, the access fault. -/
def padWriteM (va off : Nat) (bs : List Byte) (ps : List Bool) : M Unit := do
  if 0x7_F000 < off + bs.length then trapM 0x07 (BitVec.ofNat 64 va)
  modH (fun h => h.padWrite off bs ps)

/-! The write buffer (R202, R208). -/

/-- Bytes with a pending write laid over them. -/
def overlay (pa : Nat) (r : List Byte × List Bool) (w : PendWrite) : List Byte × List Bool :=
  let n := r.1.length
  ((List.range n).map (fun i =>
     if decide (w.pa ≤ pa + i) && decide (pa + i < w.pa + w.bytes.length) then w.bytes.getD (pa + i - w.pa) 0 else r.1.getD i 0),
   (List.range n).map (fun i =>
     r.2.getD i false || (w.poison && (sectorsOf w.pa w.bytes.length).contains ((pa + i) / 16))))

/-- Wait until every earlier scalar store of the hart has been performed. -/
def drained : M Unit := do
  let h ← theHart
  waitUnless h.wbuf.isEmpty

/-- Has every queue entry executed on every row? The mask entry of a copy may still wait for its copy (R346). -/
def Hart.performed (h : Hart) : Bool := h.rows.all (fun r => decide (h.qbase + h.queue.length ≤ r.qdone))

/-- Wait until every earlier access of the hart is performed: what a push into an engine waits for (R209). -/
def released : M Unit := do
  let h ← theHart
  waitUnless (h.wbuf.isEmpty && h.performed)

/-- A push into an engine stalls while the hart's input FIFO for it is full (R169). The engine takes an instruction's own word at once; raw words stay
until their result is due (log 72, DEDUCED, safe). -/
def fifoRoom (f : Nat) : M Unit := do
  let h ← theHart
  waitUnless (decide (((h.inq[f]?).getD []).length < 16))

/-! Scalar loads and stores (R278, R279). -/

/-- The canonical checks of an address: alignment, then canonical form. -/
def checkAddr (va width : Nat) : M Unit := do
  if va % width ≠ 0 then trapM 0x06 (BitVec.ofNat 64 va)
  if va >>> 57 ≠ 0 then trapM 0x07 (BitVec.ofNat 64 va)

/-- A range of more than a doubleword that touches the register window is the access fault (R63): GLAUNCH records, bindings, fetches. -/
def outsideRegs (va n : Nat) : M Unit := do
  if regWindow < va + n ∧ va < 2 ^ 57 then trapM 0x07 (BitVec.ofNat 64 va)

/-- The register window from the scalar stream: supervisor or manager level and a doubleword form, else the access fault. -/
def regAccess (va : Nat) (dword : Bool) : M Unit := do
  let h ← theHart
  if h.level = 0 ∨ !dword then trapM 0x07 (BitVec.ofNat 64 va)

/-- A scalar load of `width` bytes. `bad`: the address register is poisoned, which is looked at after the checks of lower codes (R221). -/
def loadScalar (va width : Nat) (bad : Bool := false) : M (Nat × Bool) := do
  checkAddr va width
  let h ← theHart
  match inRegWindow va with
  | some off => do
    regAccess va (width == 8)
    consume bad
    let s ← get
    pure ((s.barRead h.fn off).toNat, false)
  | none =>
    acquired
    match inPadWindow va with
    | some off => do
      consume bad
      scoreboard va width false
      let r ← padReadM va off width
      pure (leVal r.1, r.2.any id)
    | none => asUnit 0 do
      consume bad
      scoreboard va width false
      let s ← get
      let acc := s.accOf h 0
      match ← apertureOf acc va with
      | some (i, rec) => do
        let base := bits rec 144 41 * 65536
        let r ← readSurface acc i rec base (va - base) width
        pure (leVal r.1, r.2.any id)
      | none => do
        let x ← xlate acc va false
        let r ← readPiece acc va x width
        let s ← get
        let r := match s.hereDest x.dest with
          | .localM pa => h.wbuf.foldl (overlay pa) r
          | _ => r
        pure (leVal r.1, r.2.any id)

/-- A scalar store of `width` bytes: to device memory it enters the write buffer, or is performed at once for a release
(`now`); elsewhere it is performed at once. `bad`: as for a load. -/
def storeScalar (va width : Nat) (v : Nat) (p now : Bool) (bad : Bool := false) : M Unit := do
  checkAddr va width
  let h ← theHart
  let bs := leBytes width v
  let ps := List.replicate width p
  match inRegWindow va with
  | some off => do
    regAccess va (width == 8)
    -- a register holds no poison; the data register's is not consumed (R272)
    consume bad
    modify (fun s => s.barWrite h.fn off (BitVec.ofNat 64 v))
  | none =>
    acquired
    match inPadWindow va with
    | some off => do
      if 0x7_F000 < off + width then trapM 0x07 (BitVec.ofNat 64 va)
      consume bad
      scoreboard va width true
      padWriteM va off bs ps
    | none => asUnit 0 do
      scoreboard va width true
      let s ← get
      let acc := s.accOf h 0
      if (← apertureOf acc va).isSome then trapM 0x0A (BitVec.ofNat 64 va)
      consume bad
      let x ← xlate acc va true
      match ← placeOf x width with
      | .localM pa =>
        if now then writePiece acc va x bs ps
        else do
          let s ← get
          set { s with reqCtr := s.reqCtr + 1 }
          modH (fun h => { h with wbuf := h.wbuf ++ [
            { pa := pa, bytes := bs, poison := p, fn := h.fn, die := dieOf h.core, served := false, since := s.reqCtr, gang := h.gang }] })
      | _ => writePiece acc va x bs ps

/-! Atomics (R280). -/

/-- The new memory value of an atomic operation number of R280, on width bits; none for a cas that does not write. -/
def amoValue (op w old v expected : Nat) : Option Nat :=
  let so := sext w old
  let sv := sext w v
  match op with
  | 3 => some v
  | 4 => some ((old + v) % 2 ^ w)
  | 5 => some (old &&& v)
  | 6 => some (old ||| v)
  | 7 => some (old ^^^ v)
  | 8 => some (if sv < so then v else old)
  | 9 => some (if so < sv then v else old)
  | 10 => some (min old v)
  | 11 => some (max old v)
  | _ => if old = expected % 2 ^ w then some v else none

/-- One atomic on `width` bytes: the old value and its poison. The new value's poison travels for amoswap and cas. It waits until every earlier
store of the stream is performed, in the scratchpad too (R202). `bad`: a register that the operation consumes is poisoned, `badA`: the address
register is, which is looked at after every check of a lower code (R221). -/
def atomic (va width op v expected : Nat) (pv : Bool) (bad : Bool := false) (badA : Bool := false) : M (Nat × Bool) := do
  checkAddr va width
  let h ← theHart
  let w := 8 * width
  let v := v % 2 ^ w
  if (inRegWindow va).isSome then trapM 0x07 (BitVec.ofNat 64 va)
  acquired
  match inPadWindow va with
  | some off => do
    if 0x7_F000 ≤ off then trapM 0x07 (BitVec.ofNat 64 va)
    consume badA
    scoreboard va width true
    drained
    let r ← padReadM va off width
    let p := r.2.any id
    if bad ∨ (p ∧ op ≠ 3) then trapM 0x0D 0
    match amoValue op w (leVal r.1) v expected with
    | some n => padWriteM va off (leBytes width n) (List.replicate width pv)
    | none => pure ()
    pure (leVal r.1, p)
  | none => asUnit 0 do
    scoreboard va width true
    drained
    let s ← get
    let acc := s.accOf h 0
    if (← apertureOf acc va).isSome then trapM 0x0A (BitVec.ofNat 64 va)
    consume badA
    let x ← xlate acc va true [0, 2]
    match ← placeOf x width with
    | .localM pa => do
      let s ← get
      let r := s.homeBytes pa width
      let p := r.2.any id
      if bad ∨ (p ∧ op ≠ 3) then trapM 0x0D 0
      snoopClear pa width
      payM (l2Port acc.die (pa / 64)) acc.fn acc.cls acc.hart acc.agent 1
      let _ ← homeRead pa width
      match amoValue op w (leVal r.1) v expected with
      | some n => homeWrite pa (leBytes width n) (List.replicate width pv)
      | none => pure ()
      account acc x pa width
      pure (leVal r.1, p)
    | .remote fa _ => do
      if bad then trapM 0x0D 0
      let q : ExtAsk := { host := false, kind := 4, addr := fa, len := width, write := true, data := op + v * 2 ^ 8 + expected % 2 ^ w * 2 ^ 72, poison := BitVec.ofNat 4 (b2n pv) }
      match ← extAccess acc q with
      | .error st => trapM 0x0B (BitVec.ofNat 64 va) st
      | .ok (d, p, _) => do
        let p := (bytePoison fa width p).any id
        if p ∧ op ≠ 3 then trapM 0x0D 0
        account acc x fa width
        pure (d % 2 ^ w, p)
    | .hostM .. => trapM 0x07 (BitVec.ofNat 64 va)

/-! Instruction fetch (R154, R155). -/

/-- The instruction-cache line of a die that holds an address for a hart: a user-level hart uses only lines of pages with U = 1 (R80). -/
def State.ilineOn (s : State) (die : Nat) (h : Hart) (va : Nat) : Option ILine :=
  s.icache.find? (fun l => l.die == die && l.fn == h.fn && l.va == va / 64 * 64 && (l.user || h.level != 0))

/-- The instruction-cache line that holds an address for a hart. -/
def State.iline (s : State) (h : Hart) (va : Nat) : Option ILine := s.ilineOn (dieOf h.core) h va

/-- The word at an address in a line. -/
def ILine.word (l : ILine) (va : Nat) : Nat := leVal ((l.bytes.drop (va % 64)).take 4)

/-- A miss of one of a hart's sequencers counts in SLIP, which saturates (R155, R170). -/
def Hart.slipped (h : Hart) : Hart := { h with slip := if h.slip = BitVec.allOnes 32 then h.slip else h.slip + 1 }

/-- A missed fetch: the scalar sequencer freezes, and the miss counts once in SLIP (R155). -/
def Hart.missed (h : Hart) (va : Nat) : Hart :=
  let line := va / 64 * 64
  if h.fetchWait = some line then h else { h.slipped with fetchWait := some line }

/-- The word at an address, or freeze on a miss. -/
def fetchWord (va : Nat) : M Nat := do
  let h ← theHart
  let s ← get
  match s.iline h va with
  | some l => pure (l.word va)
  | none => do
    modH (fun h => h.missed va)
    waitM

/-- Lines of a die's instruction cache: 4 MiB (R154). -/
def icacheRoom : Nat := 4 * 2 ^ 20 / 64

/-- A die's instruction cache takes a line, in place of an older copy; beyond its room the line filled first goes (which line goes: log 9,
DESIGN CHOICE, unsafe). -/
def State.keepLine (s : State) (l : ILine) : State :=
  let here := s.icache.filter (fun x => x.die == l.die && !(x.fn == l.fn && x.va == l.va))
  { s with icache := (l :: here).take icacheRoom ++ s.icache.filter (fun x => x.die != l.die) }

/-- The die of a row's cluster. -/
def Row.die (r : Row) (home : Nat) : Nat :=
  match r.cluster with
  | some c => dieOf (c / 4)
  | none => home

/-- Does the scalar sequencer of a hart wait on a die for a line (R155)? -/
def Hart.streamWaits (h : Hart) (die line : Nat) : Bool := dieOf h.core == die && h.fetchWait == some line

/-- Does the block sequencer of a row wait on a die for a line (R155)? -/
def Row.waitsLine (r : Row) (home die line : Nat) : Bool := r.die home == die && r.fetchWait == some line

/-- Does a sequencer of a hart wait on a die for a line, with no park of its own in the way (R155)? -/
def Hart.waitsLine (h : Hart) (die line : Nat) : Bool :=
  (h.streamWaits die line && h.park.isNone) || h.rows.any (fun r => r.waitsLine (dieOf h.core) die line && r.park.isNone)

/-- A delivered line unfreezes the sequencers of a hart that wait for it; a row's block is ready from then on (R151). -/
def Hart.gotLine (h : Hart) (now die line : Nat) : Hart :=
  { h with
    fetchWait := if h.streamWaits die line then none else h.fetchWait
    rows := h.rows.map (fun (r : Row) => if r.waitsLine (dieOf h.core) die line then { r with fetchWait := none, readySince := now } else r) }

/-- Read an instruction line for a hart, at its level (R63, R80, R154): decoded where it lies in an aperture (R33). A hint ends where it would park. -/
def readLine (acc : Acc) (line : Nat) (hint : Bool) : M (List Byte × List Bool × Bool) := whole do
  outsideRegs line 64
  match ← apertureOf acc line with
  | some (i, rec) => do
    let base := bits rec 144 41 * 65536
    let r ← readSurface acc i rec base (line - base) 64
    pure (r.1, r.2, acc.level == 0)
  | none => do
    let x ← if hint then do
        match ← xlateQuiet acc line false with
        | some x => pure x
        | none => trapM 0x08 (BitVec.ofNat 64 line)
      else xlate acc line false
    let r ← readPiece acc line x 64
    pure (r.1, r.2, x.user)

/-- The requester of an instruction fetch of a hart by a die's fetch agent, through that die's service (R154); its sectors count for no gang (R148). -/
def State.fetchAcc (s : State) (h : Hart) (die : Nat) : Acc := { s.accOf h 0 with die := die, agent := 100 + die, uncounted := true }

/-- A park of a fetch: of the scalar sequencer that waits for the line, else of the rows that do (R89). -/
def Hart.fetchParked (h : Hart) (die line : Nat) (p : Park) : Hart :=
  if h.streamWaits die line && h.park.isNone then { h with park := some p }
  else { h with rows := h.rows.map (fun (r : Row) =>
    if r.waitsLine (dieOf h.core) die line && r.park.isNone then { r with park := some p } else r) }

/-- A line read for a hart is kept by the die's cache and delivered to every sequencer of the die that waits for it (R154). -/
def State.lineRead (s : State) (h : Hart) (die line : Nat) (r : List Byte × List Bool × Bool) : State :=
  let t := s.keepLine { die := die, fn := h.fn, va := line, bytes := r.1, poison := r.2.1.any id, user := r.2.2 }
  { t with harts := t.harts.map (fun (x : Hart) => if x.fn == h.fn && (r.2.2 || x.level != 0) then x.gotLine s.dev.devtime.toNat die line else x) }

/-- Fill a line of a die's instruction cache for the hart that waits for it (R154). -/
def State.icacheFill (s : State) (die fn va : Nat) : State :=
  let line := va / 64 * 64
  match s.harts.find? (fun h => h.fn == fn && h.waitsLine die line && !h.saved) with
  | none => s
  | some h =>
    match readLine (s.fetchAcc h die) line false (s.retry h.id (100 + die)) with
    | .ok r t => (t.settle h.id (100 + die)).lineRead h die line r
    | .error (.park p) t => t.modHart h.id (fun h => h.fetchParked die line p)
    | .error (.trap x) t => { ({ t with cur := h.id }.takeTrap x) with cur := s.cur }
    | .error .wait t => t

/-- The fetch agent of a die tries the fill of a hint (R288): where it would park or fault the hint is dropped, and so is that of a hart that is gone;
one whose read waits is tried again. -/
def State.hintRun (s : State) (x : Nat × Nat × Nat) : State :=
  let gone : State := { s with hints := s.hints.erase x }
  match s.hart? x.1 with
  | none => gone
  | some h =>
    let agent := 104 + x.2.1
    match readLine { s.fetchAcc h x.2.1 with agent := agent } x.2.2 true (gone.retry h.id agent) with
    | .ok r t => (t.settle h.id agent).lineRead h x.2.1 x.2.2 r
    | .error .wait t => { t with hints := x :: t.hints }
    | .error _ _ => gone

/-- A hint of a hart reaches its die's fetch agent (R288); its queue has room for every hint (log 9, DESIGN CHOICE, unsafe). -/
def State.icacheHint (s : State) (h : Hart) (va : Nat) : State :=
  let x := (h.id, dieOf h.core, va / 64 * 64)
  if s.hints.contains x then s else State.hintRun { s with hints := x :: s.hints } x

end Sys2Proof.Machine
end

