-- ==== Sys2Proof/Machine/Scalar.lean ====
section
/-! DEFINITION. The scalar integer family, branches and jumps, scalar memory and atomics (R272 to R280). -/

namespace Sys2Proof.Machine

/-! Shared forms. -/

/-- A word of 64 bits from a truth value. -/
def flag64 (b : Bool) : Word := if b then 1 else 0

/-- The sign-extended 16-bit immediate. -/
def imm16 (i : Nat) : Word := (BitVec.ofNat 16 i).signExtend 64

/-- A register-register operation (R273): both sources are consumed. -/
def aluM (d a b : Nat) (f : Word → Word → Word) : M Unit := do
  let x ← useS a
  let y ← useS b
  wrS d (f x y)
  advance

/-- A one-source operation. -/
def unaryM (d a : Nat) (f : Word → Word) : M Unit := do
  let x ← useS a
  wrS d (f x)
  advance

/-- Bits 127:64 of the product of two signed words (R273). -/
def mulHigh (x y : Word) : Word := ((x.signExtend 128) * (y.signExtend 128)).extractLsb' 64 64

/-- Bits 127:64 of the product of two unsigned words. -/
def mulHighU (x y : Word) : Word := ((x.setWidth 128) * (y.setWidth 128)).extractLsb' 64 64

/-- Signed quotient rounded toward zero; −1 for a divisor of 0, −2^63 for −2^63 ÷ −1 (R274). -/
def divS (x y : Word) : Word := if y = 0 then BitVec.allOnes 64 else BitVec.ofInt 64 (x.toInt.tdiv y.toInt)

/-- Unsigned quotient; all ones for a divisor of 0. -/
def divU (x y : Word) : Word := if y = 0 then BitVec.allOnes 64 else x.udiv y

/-- Signed remainder with the sign of the dividend; the dividend for a divisor of 0. -/
def remS (x y : Word) : Word := if y = 0 then x else BitVec.ofInt 64 (x.toInt.tmod y.toInt)

/-- Unsigned remainder; the dividend for a divisor of 0. -/
def remU (x y : Word) : Word := if y = 0 then x else x.umod y

/-- Leading zeros of a word; 64 for 0. -/
def clz64 (x : Word) : Word := BitVec.ofNat 64 (64 - bitLen x.toNat)

/-- Trailing zeros of a word; 64 for 0. -/
def ctz64 (x : Word) : Word := BitVec.ofNat 64 (lowestOne 64 x.toNat)

/-- Ones of a word. -/
def popc64 (x : Word) : Word := BitVec.ofNat 64 (popcount 64 x.toNat)

/-- ADD (R273). -/
def execAdd (d a b : Nat) (s : State) : Out State := finish (aluM d a b (fun x y => x + y)) s
/-- SUB (R273). -/
def execSub (d a b : Nat) (s : State) : Out State := finish (aluM d a b (fun x y => x - y)) s
/-- AND (R273). -/
def execAnd (d a b : Nat) (s : State) : Out State := finish (aluM d a b (fun x y => x &&& y)) s
/-- OR (R273); with b = 0 it carries poison without consuming it (R272). -/
def execOr (d a b : Nat) (s : State) : Out State :=
  finish (if b = 0 then do
      let x ← rdS a
      wrS d x.v x.poison
      advance
    else aluM d a b (fun x y => x ||| y)) s
/-- XOR (R273). -/
def execXor (d a b : Nat) (s : State) : Out State := finish (aluM d a b (fun x y => x ^^^ y)) s
/-- SLL (R273). -/
def execSll (d a b : Nat) (s : State) : Out State := finish (aluM d a b (fun x y => x <<< (y.toNat % 64))) s
/-- SRL (R273). -/
def execSrl (d a b : Nat) (s : State) : Out State := finish (aluM d a b (fun x y => x >>> (y.toNat % 64))) s
/-- SRA (R273). -/
def execSra (d a b : Nat) (s : State) : Out State := finish (aluM d a b (fun x y => x.sshiftRight (y.toNat % 64))) s
/-- SLT (R273). -/
def execSlt (d a b : Nat) (s : State) : Out State := finish (aluM d a b (fun x y => flag64 (x.slt y))) s
/-- SLTU (R273). -/
def execSltu (d a b : Nat) (s : State) : Out State := finish (aluM d a b (fun x y => flag64 (x.ult y))) s
/-- SEQ (R273). -/
def execSeq (d a b : Nat) (s : State) : Out State := finish (aluM d a b (fun x y => flag64 (x == y))) s
/-- MIN (R273). -/
def execMin (d a b : Nat) (s : State) : Out State := finish (aluM d a b (fun x y => if x.slt y then x else y)) s
/-- MAX (R273). -/
def execMax (d a b : Nat) (s : State) : Out State := finish (aluM d a b (fun x y => if x.slt y then y else x)) s
/-- MINU (R273). -/
def execMinu (d a b : Nat) (s : State) : Out State := finish (aluM d a b (fun x y => if x.ult y then x else y)) s
/-- MAXU (R273). -/
def execMaxu (d a b : Nat) (s : State) : Out State := finish (aluM d a b (fun x y => if x.ult y then y else x)) s
/-- MUL (R273). -/
def execMul (d a b : Nat) (s : State) : Out State := finish (aluM d a b (fun x y => x * y)) s
/-- MULH (R273). -/
def execMulh (d a b : Nat) (s : State) : Out State := finish (aluM d a b mulHigh) s
/-- MULHU (R273). -/
def execMulhu (d a b : Nat) (s : State) : Out State := finish (aluM d a b mulHighU) s
/-- DIV (R274). -/
def execDiv (d a b : Nat) (s : State) : Out State := finish (aluM d a b divS) s
/-- DIVU (R274). -/
def execDivu (d a b : Nat) (s : State) : Out State := finish (aluM d a b divU) s
/-- REM (R274). -/
def execRem (d a b : Nat) (s : State) : Out State := finish (aluM d a b remS) s
/-- REMU (R274). -/
def execRemu (d a b : Nat) (s : State) : Out State := finish (aluM d a b remU) s
/-- CLZ (R273). -/
def execClz (d a : Nat) (s : State) : Out State := finish (unaryM d a clz64) s
/-- CTZ (R273). -/
def execCtz (d a : Nat) (s : State) : Out State := finish (unaryM d a ctz64) s
/-- POPC (R273). -/
def execPopc (d a : Nat) (s : State) : Out State := finish (unaryM d a popc64) s
/-- SLLI (R273). -/
def execSlli (d a n : Nat) (s : State) : Out State := finish (unaryM d a (fun x => x <<< n)) s
/-- SRLI (R273). -/
def execSrli (d a n : Nat) (s : State) : Out State := finish (unaryM d a (fun x => x >>> n)) s
/-- SRAI (R273). -/
def execSrai (d a n : Nat) (s : State) : Out State := finish (unaryM d a (fun x => x.sshiftRight n)) s
/-- ADDI (R275). -/
def execAddi (d a i : Nat) (s : State) : Out State := finish (unaryM d a (fun x => x + imm16 i)) s
/-- ORI (R275): the immediate is zero-extended. -/
def execOri (d a i : Nat) (s : State) : Out State := finish (unaryM d a (fun x => x ||| BitVec.ofNat 64 (i % 65536))) s
/-- LUI (R275). -/
def execLui (d i : Nat) (s : State) : Out State :=
  finish (do
    wrS d (imm16 i <<< 16)
    advance) s

/-! Branches and jumps (R276, R277). -/

/-- Where a branch at pc goes: its own address + 4 + 4 × the offset (R253). -/
def branchTarget (pc : Word) (o : Nat) : Word := pc + 4 + 4 * imm16 o

/-- Where a jump at pc goes. -/
def jumpTarget (pc : Word) (o : Nat) : Word := pc + 4 + 4 * (BitVec.ofNat 26 o).signExtend 64

/-- A conditional branch: both operands are consumed, no register is written. -/
def branchM (a b o : Nat) (c : Word → Word → Bool) : M Unit := do
  let x ← useS a
  let y ← useS b
  modH (fun h => { h with pc := if c x y then branchTarget h.pc o else h.pc + 4 })

/-- BEQ (R276). -/
def execBeq (a b o : Nat) (s : State) : Out State := finish (branchM a b o (fun x y => x == y)) s
/-- BNE (R276). -/
def execBne (a b o : Nat) (s : State) : Out State := finish (branchM a b o (fun x y => x != y)) s
/-- BLT (R276). -/
def execBlt (a b o : Nat) (s : State) : Out State := finish (branchM a b o (fun x y => x.slt y)) s
/-- BGE (R276). -/
def execBge (a b o : Nat) (s : State) : Out State := finish (branchM a b o (fun x y => !x.slt y)) s
/-- BLTU (R276). -/
def execBltu (a b o : Nat) (s : State) : Out State := finish (branchM a b o (fun x y => x.ult y)) s
/-- BGEU (R276). -/
def execBgeu (a b o : Nat) (s : State) : Out State := finish (branchM a b o (fun x y => !x.ult y)) s
/-- J (R277). -/
def execJ (o : Nat) (s : State) : Out State :=
  finish (modH (fun h => { h with pc := jumpTarget h.pc o })) s
/-- JAL (R277): the link goes to s1. -/
def execJal (o : Nat) (s : State) : Out State :=
  finish (do
    let h ← theHart
    wrS 1 (h.pc + 4)
    modH (fun h => { h with pc := jumpTarget h.pc o })) s
/-- JALR (R277, R251): a target with bits 1:0 nonzero traps before anything is written. -/
def execJalr (d a : Nat) (s : State) : Out State :=
  finish (do
    let t ← rdS a
    if BF t.v 0 2 ≠ 0 then trapM 0x06 t.v
    consume t.poison
    let h ← theHart
    wrS d (h.pc + 4)
    modH (fun h => { h with pc := t.v })) s

/-! Scalar memory (R278, R279). -/

/-- The destination register is free: no queue entry still owes it a value. -/
def destFree (d : Nat) : M Unit := do
  let h ← theHart
  if h.owed d then waitM

/-- A load of `width` bytes at s[a] + off into s[d], sign- or zero-extended; the value takes the poison it reads. -/
def loadM (d a : Nat) (off : Word) (width : Nat) (signed : Bool) : M Unit := do
  destFree d
  let x ← rdS a
  let r ← loadScalar (x.v + off).toNat width x.poison
  wrS d (if signed then BitVec.ofInt 64 (sext (8 * width) r.1) else BitVec.ofNat 64 r.1) r.2
  advance

/-- A store of the low `width` bytes of s[b] at s[a] + off; the data register's poison travels. -/
def storeM (b a : Nat) (off : Word) (width : Nat) (release : Bool) : M Unit := do
  let x ← rdS a
  let y ← rdS b
  if release then drained
  storeScalar (x.v + off).toNat width y.v.toNat y.poison release x.poison
  advance

/-- LD_D (R279). -/
def execLdD (d a i : Nat) (s : State) : Out State := finish (loadM d a (imm16 i) 8 true) s
/-- ST_D (R279); d is the data register. -/
def execStD (d a i : Nat) (s : State) : Out State := finish (storeM d a (imm16 i) 8 false) s
/-- LD_B_H_W (R279). -/
def execLdBHW (d a w : Nat) (s : State) : Out State := finish (loadM d a 0 (2 ^ w) true) s
/-- LD_BU_HU_WU (R279). -/
def execLdBuHuWu (d a w : Nat) (s : State) : Out State := finish (loadM d a 0 (2 ^ w) false) s
/-- LD_ACQ (R279, R202): a load is performed as it issues and later accesses follow it, so the acquire holds at every scope
(log 4, DESIGN CHOICE, unsafe). -/
def execLdAcq (d a _sc w : Nat) (s : State) : Out State := finish (loadM d a 0 (2 ^ w) true) s
/-- ST_B_H_W (R279). -/
def execStBHW (a b w : Nat) (s : State) : Out State := finish (storeM b a 0 (2 ^ w) false) s
/-- ST_REL (R279, R202): it waits until every earlier store of the stream has been performed at its home. -/
def execStRel (a b _sc w : Nat) (s : State) : Out State := finish (storeM b a 0 (2 ^ w) true) s

/-! Atomics (R280). -/

/-- An atomic of operation op: s[d] receives the old value, sign-extended from its width. -/
def amoM (d a b w op : Nat) : M Unit := do
  destFree d
  let x ← rdS a
  let y ← rdS b
  let e ← rdS d
  let bad := if op = 12 then e.poison else y.poison && op != 3
  let r ← atomic x.v.toNat (2 ^ w) op y.v.toNat (if op = 12 then e.v.toNat else 0) y.poison bad x.poison
  wrS d (BitVec.ofInt 64 (sext (8 * 2 ^ w) r.1)) r.2
  advance

/-- AMOSWAP (R280). Orderings and scopes: log 4 (DESIGN CHOICE, unsafe). -/
def execAmoswap (d a b _sc w _o : Nat) (s : State) : Out State := finish (amoM d a b w 3) s
/-- AMOADD (R280). -/
def execAmoadd (d a b _sc w _o : Nat) (s : State) : Out State := finish (amoM d a b w 4) s
/-- AMOAND (R280). -/
def execAmoand (d a b _sc w _o : Nat) (s : State) : Out State := finish (amoM d a b w 5) s
/-- AMOOR (R280). -/
def execAmoor (d a b _sc w _o : Nat) (s : State) : Out State := finish (amoM d a b w 6) s
/-- AMOXOR (R280). -/
def execAmoxor (d a b _sc w _o : Nat) (s : State) : Out State := finish (amoM d a b w 7) s
/-- AMOMIN (R280). -/
def execAmomin (d a b _sc w _o : Nat) (s : State) : Out State := finish (amoM d a b w 8) s
/-- AMOMAX (R280). -/
def execAmomax (d a b _sc w _o : Nat) (s : State) : Out State := finish (amoM d a b w 9) s
/-- AMOMINU (R280). -/
def execAmominu (d a b _sc w _o : Nat) (s : State) : Out State := finish (amoM d a b w 10) s
/-- AMOMAXU (R280). -/
def execAmomaxu (d a b _sc w _o : Nat) (s : State) : Out State := finish (amoM d a b w 11) s
/-- CAS (R280): s[d] is the expected value and receives the old one. -/
def execCas (d a b _sc w _o : Nat) (s : State) : Out State := finish (amoM d a b w 12) s

end Sys2Proof.Machine
end

