-- ==== Sys2Proof/Machine/Csr.lean ====
section
/-! DEFINITION. Control registers: major 0x3D (R170, R172, R216, R281, R282). -/

namespace Sys2Proof.Machine

/-- Registers whose access waits for every earlier queue entry (R282). -/
def csrWaits (n : Nat) : Bool := [0x000, 0x005, 0x006, 0x007, 0x008, 0x00B, 0x00D, 0x00E, 0x010, 0x012].contains n

/-- The word of a control-register instruction, as TVAL reports it (R281). -/
def csrWord (op d a n : Nat) : Word := BitVec.ofNat 64 (0xF400_0000 + d * 2 ^ 21 + a * 2 ^ 16 + op * 2 ^ 12 + n)

/-- HCR as a write at a level stores it (R172). -/
def Hart.hcrOf (h : Hart) (v : Word) : BitVec 5 :=
  if h.level = 0 then BitVec.ofNat 5 (BF v 0 5) &&& 0x16 ||| h.hcr &&& 0x09 else BitVec.ofNat 5 (BF v 0 5)

/-- write_control of R281 for a writable register. -/
def Hart.csrWrite (h : Hart) (n : Nat) (v : Word) : Hart :=
  match n with
  | 0x003 => { h with vmt := BitVec.ofNat 2 (BF v 0 2) }
  | 0x005 =>
    let x := h.vstartOf v
    { h with rows := h.rows.map (fun (r : Row) => { r with vstart := x }) }
  | 0x008 => { h with vxsat := BitVec.ofNat 1 (BF v 0 1) }
  | 0x009 => { h with vxrm := BitVec.ofNat 2 (BF v 0 2) }
  | 0x00A => { h with frm := frmOf v }
  | 0x00B => { h with fflags := BitVec.ofNat 5 (BF v 0 5) }
  | 0x00C => { h with hcr := h.hcrOf v }
  | 0x00E =>
    let x := mtrowOf v
    { h with rows := h.rows.map (fun (r : Row) => { r with mtrow := x }) }
  | 0x00F => { h with apxq := apxqOf v, apxRow := 0 }
  | 0x010 => { h with apxchk := 0 }
  | 0x011 => { h with slip := 0 }
  | 0x012 => { h with shufcnt := 0 }
  | 0x100 => { h with tcause := v &&& 0x3F_F3FF }
  | 0x101 => { h with tval := v }
  | 0x102 => { h with tpc := v &&& ~~~(3 : Word) }
  | 0x103 => { h with tstatus := tstatusOf v }
  | 0x104 => { h with tvec := tvecOf v }
  | 0x105 => { h with tprog := v }
  | 0x106 => { h with tscratch := v }
  | _ => h

/-- Is the register cleared by a write of a one? -/
def csrW1c (n : Nat) : Bool := n == 0x010 || n == 0x011 || n == 0x012

/-- The checks at decode: listed, writable for a write, and privilege (R269, R270, R281). -/
def csrCheck (op d a n : Nat) : M Unit := do
  let h ← theHart
  if !csrListed n || (op != 0 && csrReadOnly n) then trapM 0x01 (csrWord op d a n)
  if h.level = 0 ∧ 0x100 ≤ n then trapM 0x02 (csrWord op d a n)

/-- The value that an op gives, from the old value and the source. -/
def csrValue (op : Nat) (old src : Word) : Word :=
  match op with
  | 2 => old ||| src
  | 3 => old &&& ~~~src
  | _ => src

/-- Write a control register with the value an op gives; a poisoned source is consumed after the check of HCR (R172, R221, R272). -/
def csrStore (op d a n : Nat) (old : Word) (x : Elem) : M Unit := do
  let h ← theHart
  let src := x.v
  let v := csrValue op old src
  if n = 0x00C ∧ BB (h.hcrOf v) 2 ∧ BB (h.hcrOf v) 0 then trapM 0x04 (csrWord op d a n)
  consume x.poison
  if csrW1c n then
    if op ≠ 3 ∧ src ≠ 0 then modH (fun h => h.csrWrite n src)
  else
    if n = 0x00C then
      -- a change of DET or CARRY waits for the earlier queue entries (R172)
      if (h.hcrOf v ^^^ h.hcr) &&& 0x09 ≠ 0 then waitUnless h.queue.isEmpty
    -- rows are numbered from the write of APXQ (R194), so the rows queued before it come first
    if n = 0x00F then waitUnless h.queue.isEmpty
    modH (fun h => h.csrWrite n v)

/-- An access to a control register. -/
def csrM (op d a n : Nat) : M Unit := do
  csrCheck op d a n
  destFree d
  let src ← if op = 0 then pure { v := 0 } else rdS a
  let h ← theHart
  if csrWaits n then waitUnless h.queue.isEmpty
  let old := (h.csr n).getD 0
  if op ≠ 0 then csrStore op d a n old src
  if op = 0 ∨ op = 4 then wrS d old
  advance

/-- CSRR (R281). -/
def execCsrr (d n : Nat) (s : State) : Out State := finish (csrM 0 d 0 n) s
/-- CSRW (R281). -/
def execCsrw (a n : Nat) (s : State) : Out State := finish (csrM 1 0 a n) s
/-- CSRS (R281). -/
def execCsrs (a n : Nat) (s : State) : Out State := finish (csrM 2 0 a n) s
/-- CSRC (R281). -/
def execCsrc (a n : Nat) (s : State) : Out State := finish (csrM 3 0 a n) s
/-- CSRRW (R281). -/
def execCsrrw (d a n : Nat) (s : State) : Out State := finish (csrM 4 d a n) s

end Sys2Proof.Machine
end

