-- ==== Sys2Proof/Machine/Flags.lean ====
section
/-! DEFINITION. Vector flags and vector traps: FFLAGS, VXSAT, SHUFCNT, the traps a row raises (R164, R170, R189, R216 to R221). -/

namespace Sys2Proof.Machine

/-- Flags ORed into FFLAGS and saturation into VXSAT (R170, R189). -/
def Hart.raise (h : Hart) (fl : Nat) (sat : Bool) : Hart :=
  { h with fflags := h.fflags ||| BitVec.ofNat 5 fl, vxsat := h.vxsat ||| BitVec.ofNat 1 (b2n sat) }

/-- Raise flags of the current hart. -/
def raiseFlags (fl : Nat) (sat : Bool) : M Unit := modH (fun h => h.raise fl sat)

/-- Add n to SHUFCNT, saturating (R164). -/
def countShuffles (n : Nat) : M Unit :=
  modH (fun h => { h with shufcnt := BitVec.ofNat 32 (min (2 ^ 32 - 1) (h.shufcnt.toNat + n)) })

/-- The word of a queued operation, as TVAL reports it. -/
def Op.word (o : Op) : Word := BitVec.ofNat 64 ((encode o.i).getD 0)

/-- A trap of a vector queue entry in a row. -/
def rowTrap (r : Nat) (o : Op) (code : Nat) (val : Word) (sub : Nat := 0) (mid : Bool := false) : M α :=
  throw (.trap { code := code, sub := sub, vec := true, mid := mid, row := r, val := val, vpc := o.pc })

/-- The illegal-instruction trap of a queued word (R184, R268). -/
def rowIllegal (r : Nat) (o : Op) : M α := rowTrap r o 0x01 o.word

/-- The illegal-format trap of a queued word: TVAL holds the descriptor (R184, R220). -/
def rowFormat (r : Nat) (o : Op) : M α := rowTrap r o 0x03 o.sf.v

/-- The determinism trap of a queued word (R271). -/
def rowDet (r : Nat) (o : Op) : M α := rowTrap r o 0x04 o.word

/-- The poison trap (R38, R292). -/
def rowPoison (r : Nat) (o : Op) (e : Nat) (mid : Bool := true) : M α := rowTrap r o 0x0D (BitVec.ofNat 64 e) 0 mid

/-- HCR.DET in force for a hart. -/
def Hart.det (h : Hart) : Bool := BB h.hcr 0

/-- Turn the traps of a computation into those of a row's entry. -/
def asRow (r : Nat) (o : Op) (mid : Bool) (x : M α) : M α := fun s =>
  match x s with
  | .ok a s' => .ok a s'
  | .error (.trap t) s' => .error (.trap { t with vec := true, mid := mid, row := r, vpc := o.pc }) s'
  | .error e s' => .error e s'

end Sys2Proof.Machine
end

