-- ==== Sys2Proof/Machine/Operands.lean ====
section
/-! DEFINITION. Vector operands: register groups, elements, masks, format descriptors, dispatch checks, capture and enqueue
(R158, R164, R166, R173, R179 to R187, R226, R290 to R292). -/

namespace Sys2Proof.Machine

/-! Capture and enqueue (R158, R282). -/

/-- Read an optional scalar operand. -/
def rdOpt : Option Nat → M Elem
  | some n => rdS n
  | none => pure { v := 0 }

/-- The operation with everything it captures at enqueue. -/
def capture (i : Instr) (a b c f : Option Nat) : M Op := do
  let sa ← rdOpt a
  let sb ← rdOpt b
  let sc ← rdOpt c
  let sf ← rdOpt f
  let h ← theHart
  pure { i := i, pc := h.pc, sa := sa, sb := sb, sc := sc, sf := sf, vtype := h.vtype, vmt := h.vmt, vxrm := h.vxrm, frm := h.frm,
         hcr := h.hcr, apxq := h.apxq }

/-- Place an entry; a full queue stalls the scalar unit. -/
def enqueue (e : Entry) : M Unit := do
  let h ← theHart
  waitUnless (decide (h.queue.length < 64))
  let s ← get
  let end_ := h.qbase + h.queue.length
  modH (fun h => { h with
    queue := h.queue ++ [e]
    rows := h.rows.map (fun (r : Row) => if r.qdone = end_ then { r with readySince := s.dev.devtime.toNat } else r) })

/-- Enqueue a vector instruction whose words need no further operand, and go on. -/
def enqueueM (i : Instr) (a b c f : Option Nat) : M Unit := do
  let o ← capture i a b c f
  enqueue { op := o }
  advance

/-! Widths and groups (R171, R184). -/

/-- SEW of a captured VTYPE, in bits. -/
def Op.sew (o : Op) : Nat := 8 * 2 ^ BF o.vtype 0 3
/-- LMUL of a captured VTYPE. -/
def Op.lmul (o : Op) : Nat := 2 ^ BF o.vtype 3 3
/-- Elements in a group at SEW and LMUL. -/
def Op.groupElems (o : Op) : Nat := 1024 / o.sew * o.lmul
/-- The effective group of an operand of a width: LMUL × width ÷ SEW, at least 1; whole registers (log 30, DEDUCED, unsafe). -/
def Op.group (o : Op) (w : Nat) : Nat := max 1 (ceilDiv (o.lmul * w) o.sew)

/-- An operand group: first register, registers, element width, and whether a scale register follows. -/
structure Grp where
  base : Nat
  regs : Nat
  w : Nat
  scaled : Bool := false
deriving DecidableEq, Repr

/-- The first register after an operand and its scales. -/
def Grp.top (g : Grp) : Nat := g.base + g.regs + b2n g.scaled

/-- Is the group placed as R184 and R254 demand? -/
def Grp.ok (g : Grp) : Bool := decide (g.regs ≤ 8) && g.base % g.regs == 0 && decide (g.top ≤ 32)

/-- Do two groups share a register? A scale register follows its group and is no part of it (R179). A word whose destination takes in such a
register reads its sources before it writes (log 85, DESIGN CHOICE, unsafe). -/
def Grp.meets (g h : Grp) : Bool := decide (g.base < h.base + h.regs) && decide (h.base < g.base + g.regs)

/-- Overlap of a destination with a source that R226 forbids; `same` allows the same group at the same width. -/
def Grp.clash (d s : Grp) (same : Bool) : Bool :=
  d.meets s && !(same && d.base == s.base && d.regs == s.regs && d.w == s.w)

/-! Elements (R164, R173, R38). -/

/-- The n bits from bit lo of the group at a base register. -/
def Row.getBits (row : Row) (base lo n : Nat) : Nat :=
  let i := base + lo / 1024
  let x := ((row.v[i]?).getD 0).toNat + ((row.v[i + 1]?).getD 0).toNat * 2 ^ 1024
  bits x (lo % 1024) n

/-- Is a byte of the group poisoned? -/
def Row.bytePoison (row : Row) (base b : Nat) : Bool := BB ((row.vpoison[base + b / 128]?).getD 0) (b % 128)

/-- Element e of width w of a group. -/
def Row.elem (row : Row) (base w e : Nat) : Nat := row.getBits base (w * e) w

/-- Does a byte that an element occupies carry poison? -/
def Row.elemPoison (row : Row) (base w e : Nat) : Bool :=
  (List.range ((w * e + w - 1) / 8 - w * e / 8 + 1)).any (fun i => row.bytePoison base (w * e / 8 + i))

/-- Set the poison of a byte of a group. -/
def Row.setBytePoison (row : Row) (base b : Nat) (p : Bool) : Row :=
  let i := base + b / 128
  let x := BitVec.ofNat 128 (setBits ((row.vpoison[i]?).getD 0).toNat (b % 128) 1 (b2n p))
  { row with vpoison := row.vpoison.setIfInBounds i x }

/-- Write n bits from bit lo of a group, with the layout tag of the write; a written register is dead no more (R166). -/
def Row.putBits (row : Row) (base lo n v tag : Nat) : Row :=
  let i := base + lo / 1024
  let off := lo % 1024
  let n1 := min n (1024 - off)
  let put (row : Row) (i off n v : Nat) : Row :=
    if n = 0 then row else { row with
      v := row.v.setIfInBounds i (BitVec.ofNat 1024 (setBits ((row.v[i]?).getD 0).toNat off n v))
      vtag := row.vtag.setIfInBounds i (BitVec.ofNat 7 tag)
      vdead := row.vdead &&& ~~~(BitVec.ofNat 32 (2 ^ i)) }
  put (put row i off n1 v) (i + 1) 0 (n - n1) (v >>> n1)

/-- A written element: index, bits, poison. -/
structure Wr where
  e : Nat
  v : Nat
  p : Bool
deriving DecidableEq, Repr

/-- Poison of the bytes that the elements of one instruction wrote (R38): a byte written whole takes the OR of what was
written; a byte shared with an element left in place keeps its own as well. -/
def Row.putPoison (row : Row) (base w : Nat) (l : List Wr) : Row :=
  if w % 8 = 0 then
    l.foldl (fun row x => (List.range (w / 8)).foldl (fun row i => row.setBytePoison base (w / 8 * x.e + i) x.p) row) row
  else
    let bytes := (l.flatMap (fun x => [(w * x.e) / 8, (w * x.e + w - 1) / 8])).eraseDups
    bytes.foldl (fun row b =>
      let es := (List.range ((8 * b + 7) / w - 8 * b / w + 1)).map (fun i => 8 * b / w + i)
      let hit := l.filter (fun x => es.contains x.e)
      let p := hit.any Wr.p
      let all := es.all (fun e => l.any (fun x => x.e == e))
      row.setBytePoison base b (p || (!all && row.bytePoison base b))) row

/-- Write elements of width w of a group. -/
def Row.putElems (row : Row) (base w : Nat) (l : List Wr) : Row :=
  (l.foldl (fun (row : Row) x => row.putBits base (w * x.e) w x.v w) row).putPoison base w l

/-- One written element. -/
def Row.putElem (row : Row) (base w e v : Nat) (p : Bool) : Row := row.putElems base w [{ e := e, v := v, p := p }]

/-- Is element e active under mask register mk (R290)? -/
def Row.active (row : Row) (mk e : Nat) : Bool :=
  decide (row.vstart.toNat ≤ e) && decide (e < row.vl.toNat) && (mk == 0 || BB ((row.m[mk]?).getD 0) e)

/-- The active elements at or above k, ascending. -/
def Row.actives (row : Row) (mk k : Nat) : List Nat :=
  ((List.range (row.vl.toNat)).filter (fun e => row.active mk e && decide (k ≤ e)))

/-- Where an entry begins or goes on: its progress index, or VSTART (R223). -/
def Row.startAt (row : Row) : Nat :=
  match row.prog with
  | some p => p.k
  | none => row.vstart.toNat

/-- Flags the entry raised before it stopped. -/
def Row.priorFlags (row : Row) : Nat :=
  match row.prog with
  | some p => p.acc.headD 0
  | none => 0

/-! Reads: layout tags and dead registers (R164, R166). -/

/-- One element read: base register, width, index. -/
structure Rd where
  base : Nat
  w : Nat
  e : Nat
deriving DecidableEq, Repr

/-- The registers an element read touches. -/
def Rd.regs (x : Rd) : List Nat := [x.base + x.w * x.e / 1024, x.base + (x.w * x.e + x.w - 1) / 1024].eraseDups

/-- Does an element read see poison? -/
def Row.rdPoison (row : Row) (x : Rd) : Bool := row.elemPoison x.base x.w x.e

/-- A register read at a width: register and width, once each. -/
def readRegs (l : List Rd) : List (Nat × Nat) := (l.flatMap (fun x => x.regs.map (fun r => (r, x.w)))).eraseDups

/-- The lowest dead register that reads touch. -/
def Row.deadRead (row : Row) (l : List Rd) : Option Nat :=
  (List.range 32).find? (fun n => BB row.vdead n && (readRegs l).any (fun x => x.1 == n))

/-- The dead-register trap of reads of a dead register when HCR.DEADTRAP = 1 (R166). -/
def deadTrap (r : Nat) (o : Op) (dead : Option Nat) : M Unit :=
  match dead with
  | some n => if BB o.hcr 1 then rowTrap r o 0x05 (BitVec.ofNat 64 n) else pure ()
  | none => pure ()

/-- Registers read at a width other than their tag (R164). A register never written has no tag (log 31, DEDUCED, unsafe). -/
def Row.shuffles (row : Row) (l : List Rd) : Nat :=
  (((readRegs l).filter (fun x => let t := ((row.vtag[x.1]?).getD 0).toNat; t != 0 && t != x.2)).map Prod.fst).eraseDups.length

/-- Count the reshuffles of an entry, once (R164). -/
def shuffleCount (r n : Nat) : M Unit := do
  let row ← theRow r
  if row.prog.isNone && n != 0 then countShuffles n

/-- Note the registers an instruction reads in a row; then its descriptor's poison is consumed (R38, R166, R182, R221). -/
def noteReads (r : Nat) (o : Op) (l : List Rd) : M Unit := do
  let row ← theRow r
  deadTrap r o (row.deadRead l)
  if o.sf.poison then rowPoison r o 0 false
  shuffleCount r (row.shuffles l)

/-! Descriptors (R182 to R184). -/

/-- A format descriptor. -/
structure Desc where
  fa : Nat
  fb : Nat
  fd : Nat
  rnd : Nat
  sat : Bool
  bse : Bool
deriving DecidableEq, Repr

/-- The fields of a descriptor word. -/
def Desc.of (x : Word) : Desc where
  fa := BF x 0 6
  fb := BF x 6 6
  fd := BF x 12 6
  rnd := BF x 18 3
  sat := BB x 21
  bse := BB x 22

/-- Does a descriptor word break R184? `single` is a single-source instruction. -/
def descBad (x : Word) (single : Bool) : Bool :=
  let d := Desc.of x
  BF x 32 32 != 0 || (fmtOf d.fa).isNone || (fmtOf d.fb).isNone || (fmtOf d.fd).isNone || decide (6 ≤ d.rnd)
    || BF x 28 4 != b2n d.bse || BF x 23 5 != (if d.bse then 5 else 0)
    || (d.bse && !(fmtMX d.fa || fmtMX d.fb || fmtMX d.fd))
    || (single && d.fb != 0)

/-- The rounding mode of an instruction (R187). -/
def Op.mode (o : Op) (d : Desc) : Nat := if d.rnd = 0 then o.frm.toNat else d.rnd - 1

/-- An operand of a typed instruction. -/
def Op.typed (o : Op) (d : Desc) (base code : Nat) : Grp where
  base := base
  regs := o.group (fmtWidth code)
  w := fmtWidth code
  scaled := d.bse && fmtMX code

/-- An operand of a SEW instruction. -/
def Op.plain (o : Op) (base : Nat) : Grp where
  base := base
  regs := o.lmul
  w := o.sew

/-- The checks of groups at dispatch: placement, and overlap of the destination with each source. -/
def checkGroups (r : Nat) (o : Op) (dst : Option Grp) (srcs : List Grp) (same : Bool) : M Unit := do
  let bad := srcs.any (fun g => !g.ok) || (match dst with
    | some d => !d.ok || srcs.any (fun g => d.clash g same)
    | none => false)
  if bad then rowIllegal r o

/-- The groups of the operands whose format codes exist: what can be misplaced (R184, R221). -/
def knownGroups (l : List (Nat × Grp)) : List Grp := (l.filter (fun x => (fmtOf x.1).isSome)).map Prod.snd

/-- The checks of a typed word, lowest code first (R184, R221): groups, then the descriptor and the formats the entry accepts. Destination
and sources come with their format codes. -/
def checkTyped (r : Nat) (o : Op) (dst : Option (Nat × Grp)) (srcs : List (Nat × Grp)) (same bad : Bool) : M Unit := do
  checkGroups r o (knownGroups dst.toList).head? (knownGroups srcs) same
  if bad then rowFormat r o

/-! Exact values of operands (R179, R290). -/

/-- The reads that an element of a typed operand takes: the element, and its scale. -/
def Grp.reads (g : Grp) (e : Nat) : List Rd :=
  { base := g.base, w := g.w, e := e } ::
    (if g.scaled then [{ base := g.base + g.regs, w := 8, e := e / 32 }] else [])

/-- The exact value of element e of an operand in a format, its block scale applied. -/
def Row.val (row : Row) (g : Grp) (code e : Nat) : Val :=
  let v := decodeFmt code (row.elem g.base g.w e)
  if g.scaled then
    let sc := row.elem (g.base + g.regs) 8 (e / 32)
    if sc = 255 then .nan false else v.scale ((sc : Int) - 127)
  else v

/-- The integer of an element in an integer format. -/
def intOf (code x : Nat) : Int :=
  match fmtOf code with
  | some (.int w true) => sext w x
  | some (.int w false) => ((x % 2 ^ w : Nat) : Int)
  | _ => 0

/-- Is a format code a signed integer format? -/
def fmtSigned (code : Nat) : Bool := decide (code < 0x0A) && code % 2 == 0

/-! Writing results (R185 to R187). -/

/-- An exact result: an integer that wraps or saturates, a value that is rounded, or bits. -/
inductive Ex where
  | int (x : Int)
  | val (v : Val)
  | raw (x : Nat)
deriving DecidableEq, Repr

/-- How a destination takes results. -/
structure Put where
  g : Grp
  code : Nat
  mode : Nat
  sat : Bool
  pc : Word
  strip : Nat
deriving DecidableEq, Repr

/-- The Opal word of element e under SR. -/
def Put.rnd (p : Put) (e : Nat) : Nat := if p.mode = 4 then srWord p.pc (p.strip + e) else 0

/-- One result into its destination format: bits, flags, saturation. -/
def Put.one (p : Put) (e : Nat) (x : Ex) : Nat × Nat × Bool :=
  match x with
  | .raw n => (n, 0, false)
  | .int n =>
    match fmtOf p.code with
    | some (.int w sg) =>
      let y := intoInt w sg p.sat n
      (y.1, 0, y.2)
    | _ =>
      let y := roundFmt p.code p.mode p.sat (p.rnd e) (Val.ofInt n)
      (y.1, y.2, false)
  | .val v =>
    let y := roundFmt p.code p.mode p.sat (p.rnd e) v
    -- an integer result outside its range is clamped: with SAT = 1 that is a saturation (R174)
    (y.1, y.2, p.sat && fmtInt p.code && y.2 == 16 && !v.isNan)

/-- The value of an exact result. -/
def Ex.val' : Ex → Val
  | .int n => Val.ofInt n
  | .val v => v
  | .raw _ => .fin false 0 0

/-- emax of an MX element format (R186). -/
def mxEmax (code : Nat) : Int :=
  match code with
  | 0x13 => 8
  | 0x14 => 15
  | 0x15 => 4
  | _ => 2

/-- floor(log2) of a positive value. -/
def Val.log2 : Val → Int
  | .fin _ m e => e + (bitLen m : Int) - 1
  | _ => 0

/-- mx_block of R186 over the active elements of one block: scale, elements, flags. -/
def mxBlock (p : Put) (l : List (Nat × Val)) : Nat × List (Nat × Nat) × Nat :=
  if l.any (fun x => match x.2 with
    | .fin .. => false
    | _ => true) then (255, l.map (fun x => (x.1, 0)), 16)
  else if l.all (fun x => x.2.isZero) then (0, l.map (fun x => (x.1, 0)), 0)
  else
    let nz := l.filter (fun x => !x.2.isZero)
    let top := nz.foldl (fun (a : Int) x => max a x.2.log2) (match nz with
      | [] => 0
      | x :: _ => x.2.log2)
    let xs := min 127 (max (-127) (top - mxEmax p.code))
    let out := l.map (fun x => (x.1, roundFmt p.code p.mode true (p.rnd x.1) (x.2.scale (-xs))))
    ((xs + 127).toNat, out.map (fun x => (x.1, x.2.1)), out.foldl (fun f x => f ||| x.2.2) 0)

/-- A list of results with their poison committed to a row: the row, flags and saturation. -/
def Put.commit (p : Put) (row : Row) (l : List (Nat × Ex × Bool)) : Row × Nat × Bool :=
  if p.g.scaled then
    let blocks := (l.map (fun x => x.1 / 32)).eraseDups
    blocks.foldl (fun (a : Row × Nat × Bool) k =>
      let here := l.filter (fun x => x.1 / 32 == k)
      let b := mxBlock p (here.map (fun x => (x.1, x.2.1.val')))
      -- the scale is made of every element of the block: one that is poisoned marks it (R38, R112; log 32, DEDUCED, unsafe)
      let bad (e : Nat) : Bool := here.any (fun x => x.1 == e && x.2.2)
      let ws := b.2.1.map (fun x => ({ e := x.1, v := x.2, p := bad x.1 } : Wr))
      ((a.1.putElems p.g.base p.g.w ws).putElem (p.g.base + p.g.regs) 8 k b.1 (here.any (fun x => x.2.2)), a.2.1 ||| b.2.2, a.2.2)) (row, 0, false)
  else
    let ys := l.map (fun x => (x.1, p.one x.1 x.2.1, x.2.2))
    (row.putElems p.g.base p.g.w (ys.map (fun y => { e := y.1, v := y.2.1.1, p := y.2.2 })),
      ys.foldl (fun f y => f ||| y.2.1.2.1) 0, ys.any (fun y => y.2.1.2.2))

/-! The shared form of element-wise instructions (R290 to R292, R223). -/

/-- The results of an element-wise instruction over elements in ascending order, up to the first consumed poison:
what is to be written, flags raised by the operation, and the element that stopped it. `carry` is poison that an inserted
scalar brings (R292). -/
def ewLoop (row : Row) (consume : Bool) (reads : Nat → List Rd) (carry : Nat → Bool) (comp : Row → Nat → Ex × Nat) :
    List Nat → List (Nat × Ex × Bool) × Nat × Option Nat
  | [] => ([], 0, none)
  | e :: es =>
    let p := (reads e).any row.rdPoison
    if p && consume then ([], 0, some e)
    else
      let x := comp row e
      let t := ewLoop row consume reads carry comp es
      ((e, x.1, p || carry e) :: t.1, x.2 ||| t.2.1, t.2.2)

/-- Element-wise execution in a row: reads, results, flags; consumed poison stops it inside itself with its progress kept.
With block scales, the block of the poisoned element is written only when it is complete (log 32, DEDUCED, unsafe). `scal` is the poison of a
scalar operand that active elements consume; `extra` are further elements read without being consumed; `idx` is the index by which a poisoned
element is reported. The flags raised by the whole instruction are returned. -/
def elementwise (r : Nat) (o : Op) (mk : Nat) (scal consume : Bool) (p : Put) (reads : Nat → List Rd)
    (comp : Row → Nat → Ex × Nat) (carry : Nat → Bool := fun _ => false) (extra : List Rd := [])
    (idx : Nat → Nat := id) : M Nat := do
  let row ← theRow r
  let es := row.actives mk row.startAt
  let consume := consume && !o.comb
  noteReads r o (es.flatMap reads ++ extra)
  if scal && !es.isEmpty && !o.comb then rowPoison r o 0 false
  let res := ewLoop row consume reads carry comp es
  let stopAt := match res.2.2 with
    | some e => some (if p.g.scaled then e / 32 * 32 else e)
    | none => none
  let l := match stopAt with
    | some k => res.1.filter (fun x => decide (x.1 < k))
    | none => res.1
  let out := p.commit row l
  let opFl := if stopAt.isNone then res.2.1 else l.foldl (fun f x => f ||| (comp row x.1).2) 0
  let fl := opFl ||| out.2.1
  modR r (fun _ => out.1)
  raiseFlags fl out.2.2
  match stopAt, res.2.2 with
  | some k, some e => do
    modR r (fun row => { row with prog := some { k := k, mask := 0, acc := [fl ||| row.priorFlags] } })
    rowPoison r o (idx e)
  | _, _ => pure (fl ||| row.priorFlags)

end Sys2Proof.Machine
end

