-- ==== Sys2Proof/Machine/Control.lean ====
section
/-! DEFINITION. Vector configuration, the hardware loop, hints and copy waits: majors 0x10 to 0x17 (R12, R160 to R163, R283 to R289). -/

namespace Sys2Proof.Machine

/-! Scalar captures of queued words (R158). -/

/-- The scalar registers a queued word captures: base or seed, second operand, third operand, descriptor. -/
def captures : Instr → Option Nat × Option Nat × Option Nat × Option Nat
  | .vaddI _ _ _ f _ => (none, none, none, some f)
  | .vsubI _ _ _ f _ => (none, none, none, some f)
  | .vmulI _ _ _ f _ => (none, none, none, some f)
  | .vmulhI _ _ _ f _ => (none, none, none, some f)
  | .vminI _ _ _ f _ => (none, none, none, some f)
  | .vmaxI _ _ _ f _ => (none, none, none, some f)
  | .vmaccI _ _ _ f _ => (none, none, none, some f)
  | .vdivI _ _ _ f _ => (none, none, none, some f)
  | .vaddIS _ _ b f _ => (none, some b, none, some f)
  | .vsubIS _ _ b f _ => (none, some b, none, some f)
  | .vmulIS _ _ b f _ => (none, some b, none, some f)
  | .vmulhIS _ _ b f _ => (none, some b, none, some f)
  | .vminIS _ _ b f _ => (none, some b, none, some f)
  | .vmaxIS _ _ b f _ => (none, some b, none, some f)
  | .vmaccIS _ _ b f _ => (none, some b, none, some f)
  | .vdivIS _ _ b f _ => (none, some b, none, some f)
  | .vaddF _ _ _ f _ => (none, none, none, some f)
  | .vsubF _ _ _ f _ => (none, none, none, some f)
  | .vmulF _ _ _ f _ => (none, none, none, some f)
  | .vdivF _ _ _ f _ => (none, none, none, some f)
  | .vminF _ _ _ f _ => (none, none, none, some f)
  | .vmaxF _ _ _ f _ => (none, none, none, some f)
  | .vfmaF _ _ _ f _ => (none, none, none, some f)
  | .vsqrtF _ _ f _ => (none, none, none, some f)
  | .vaddFS _ _ b f _ => (none, some b, none, some f)
  | .vsubFS _ _ b f _ => (none, some b, none, some f)
  | .vmulFS _ _ b f _ => (none, some b, none, some f)
  | .vdivFS _ _ b f _ => (none, some b, none, some f)
  | .vminFS _ _ b f _ => (none, some b, none, some f)
  | .vmaxFS _ _ b f _ => (none, some b, none, some f)
  | .vfmaFS _ _ b f _ => (none, some b, none, some f)
  | .vandS _ _ b _ => (none, some b, none, none)
  | .vorS _ _ b _ => (none, some b, none, none)
  | .vxorS _ _ b _ => (none, some b, none, none)
  | .vsllS _ _ b _ => (none, some b, none, none)
  | .vsrlS _ _ b _ => (none, some b, none, none)
  | .vsraS _ _ b _ => (none, some b, none, none)
  | .vcmpeq _ _ _ f _ => (none, none, none, some f)
  | .vcmpne _ _ _ f _ => (none, none, none, some f)
  | .vcmplt _ _ _ f _ => (none, none, none, some f)
  | .vcmple _ _ _ f _ => (none, none, none, some f)
  | .vcmpgt _ _ _ f _ => (none, none, none, some f)
  | .vcmpge _ _ _ f _ => (none, none, none, some f)
  | .vcmpun _ _ _ f _ => (none, none, none, some f)
  | .vcmpeqS _ _ b f _ => (none, some b, none, some f)
  | .vcmpneS _ _ b f _ => (none, some b, none, some f)
  | .vcmpltS _ _ b f _ => (none, some b, none, some f)
  | .vcmpleS _ _ b f _ => (none, some b, none, some f)
  | .vcmpgtS _ _ b f _ => (none, some b, none, some f)
  | .vcmpgeS _ _ b f _ => (none, some b, none, some f)
  | .vcmpunS _ _ b f _ => (none, some b, none, some f)
  | .vbcast _ b _ => (none, some b, none, none)
  | .vext _ _ b => (none, some b, none, none)
  | .vcvt _ _ f _ => (none, none, none, some f)
  | .vclass _ _ f _ => (none, none, none, some f)
  | .vrecpe _ _ f _ => (none, none, none, some f)
  | .vexp2e _ _ f _ => (none, none, none, some f)
  | .vsadd _ _ _ f _ => (none, none, none, some f)
  | .vssub _ _ _ f _ => (none, none, none, some f)
  | .vsmul _ _ _ f _ => (none, none, none, some f)
  | .vsmacc _ _ _ f _ => (none, none, none, some f)
  | .vssra _ _ _ f _ => (none, none, none, some f)
  | .vssrl _ _ _ f _ => (none, none, none, some f)
  | .vnclip _ _ _ f _ => (none, none, none, some f)
  | .vavg _ _ _ f _ => (none, none, none, some f)
  | .vsaddS _ _ b f _ => (none, some b, none, some f)
  | .vssubS _ _ b f _ => (none, some b, none, some f)
  | .vsmulS _ _ b f _ => (none, some b, none, some f)
  | .vsmaccS _ _ b f _ => (none, some b, none, some f)
  | .vssraS _ _ b f _ => (none, some b, none, some f)
  | .vssrlS _ _ b f _ => (none, some b, none, some f)
  | .vnclipS _ _ b f _ => (none, some b, none, some f)
  | .vavgS _ _ b f _ => (none, some b, none, some f)
  | .vredsumO _ _ _ f _ => (none, none, none, some f)
  | .vredsumU _ _ _ f _ => (none, none, none, some f)
  | .vredmin _ _ _ f _ => (none, none, none, some f)
  | .vredmax _ _ _ f _ => (none, none, none, some f)
  | .vredand _ _ _ f _ => (none, none, none, some f)
  | .vredor _ _ _ f _ => (none, none, none, some f)
  | .vredxor _ _ _ f _ => (none, none, none, some f)
  | .vscanO _ _ f _ => (none, none, none, some f)
  | .vscanFast _ _ f _ => (none, none, none, some f)
  | .rnggen _ a b _ => (some a, some b, none, none)
  | .vslideup _ _ b _ => (none, some b, none, none)
  | .vslidedn _ _ b _ => (none, some b, none, none)
  | .vslide1up _ _ b _ => (none, some b, none, none)
  | .vslide1dn _ _ b _ => (none, some b, none, none)
  | .xchg _ _ b => (none, some b, none, none)
  | .vld _ a _ _ _ => (some a, none, none, none)
  | .vldu _ a _ _ _ => (some a, none, none, none)
  | .vldf _ a _ _ _ => (some a, none, none, none)
  | .vst _ a _ _ _ => (some a, none, none, none)
  | .vstu _ a _ _ _ => (some a, none, none, none)
  | .vlds _ a b _ _ _ => (some a, some b, none, none)
  | .vldsu _ a b _ _ _ => (some a, some b, none, none)
  | .vldsf _ a b _ _ _ => (some a, some b, none, none)
  | .vsts _ a b _ _ _ => (some a, some b, none, none)
  | .vstsu _ a b _ _ _ => (some a, some b, none, none)
  | .vldx _ a _ _ _ => (some a, none, none, none)
  | .vldxu _ a _ _ _ => (some a, none, none, none)
  | .vstx _ a _ _ _ => (some a, none, none, none)
  | .vstxu _ a _ _ _ => (some a, none, none, none)
  | .vamoaddI _ a _ _ _ => (some a, none, none, none)
  | .vamoadduI _ a _ _ _ => (some a, none, none, none)
  | .vamoaddF _ a _ _ _ => (some a, none, none, none)
  | .vamoadduF _ a _ _ _ => (some a, none, none, none)
  | .vamoswap _ a _ _ _ => (some a, none, none, none)
  | .vamoswapu _ a _ _ _ => (some a, none, none, none)
  | .vamomin _ a _ _ _ => (some a, none, none, none)
  | .vamominu _ a _ _ _ => (some a, none, none, none)
  | .vamomax _ a _ _ _ => (some a, none, none, none)
  | .vamomaxu _ a _ _ _ => (some a, none, none, none)
  | .vamoand _ a _ _ _ => (some a, none, none, none)
  | .vamoandu _ a _ _ _ => (some a, none, none, none)
  | .vamoor _ a _ _ _ => (some a, none, none, none)
  | .vamooru _ a _ _ _ => (some a, none, none, none)
  | .vamoxor _ a _ _ _ => (some a, none, none, none)
  | .vamoxoru _ a _ _ _ => (some a, none, none, none)
  | .vdead a => (some a, none, none, none)
  | .mrow _ _ _ f => (none, none, none, some f)
  | .mrowm _ a _ f => (some a, none, none, some f)
  | .mrowx _ _ _ f => (none, none, none, some f)
  | .mxrd _ _ f => (none, none, none, some f)
  | .mtload _ a b f => (some a, some b, none, some f)
  | .cbload a => (some a, none, none, none)
  | .fred _ b _ => (none, some b, none, none)
  | .fredw _ b _ => (none, some b, none, none)
  | .skth _ _ c => (none, none, some c, none)
  | .swgt _ _ c => (none, none, some c, none)
  | .stopp _ _ c => (none, none, some c, none)
  | .sdraw _ _ c => (none, none, some c, none)
  | .sdrawHw _ _ c => (none, none, some c, none)
  | .papp a _ c => (some a, none, some c, none)
  | .pld _ b c => (none, some b, some c, none)
  | .kvld _ b c => (none, some b, some c, none)
  | .kvldB _ b => (none, some b, none, none)
  | .kvapp _ b c => (none, some b, some c, none)
  | _ => (none, none, none, none)

/-- Enqueue a vector word with its captures and go on. -/
def enqueueI (i : Instr) : M Unit :=
  let c := captures i
  enqueueM i c.1 c.2.1 c.2.2.1 c.2.2.2

/-! VSETL, VSETTL, VSETMT, VDEAD (R283 to R287). -/

/-- The word of an instruction of format I, as TVAL reports it. -/
def iWord (op d a i : Nat) : Word := BitVec.ofNat 64 (op * 2 ^ 26 + d * 2 ^ 21 + a * 2 ^ 16 + i)

/-- HCR.CARRY of a hart. -/
def Hart.carry (h : Hart) : Bool := BB h.hcr 3

/-- The new VTYPE and VLMAX of a VSETL, with its configuration entry (R283). -/
def vsetlM (d a v : Nat) : M Unit := do
  if 4 ≤ v % 8 ∨ 4 ≤ v / 8 then trapM 0x01 (iWord 0x10 d a v)
  destFree d
  let n := (← useS a).toNat
  let h ← theHart
  let s ← get
  let vlmax := effVlmax (v % 8) (v / 8) s.lanes
  let n := min n (h.tl * vlmax)
  let o ← capture (.vsetl d a v) none none none none
  enqueue { op := o, sub := 3, n := n, vlmax := vlmax }
  modH (fun h => { h with vtype := BitVec.ofNat 6 v, vlmax := BitVec.ofNat 11 vlmax, vlSet := BitVec.ofNat 11 (min vlmax n), loopSince := false })
  wrS d (BitVec.ofNat 64 n)
  advance

/-- VSETL (R283). -/
def execVsetl (d a v : Nat) (s : State) : Out State := finish (vsetlM d a v) s

/-- The configuration entry of a VSETL in row r (R160): n counts the elements the grant covers. -/
def Row.config (row : Row) (r n vlmax : Nat) : Row :=
  { row with
    strip := BitVec.ofNat 40 (r * vlmax)
    vl := BitVec.ofNat 11 (min vlmax (n - r * vlmax))
    vstart := 0 }

/-- Rows after a grant has shrunk to a number of clusters: the last ones are dropped (R284). -/
def dropRows (target : Nat) : List Row → Nat → List Row
  | [], _ => []
  | r :: rs, k => if k < target then r :: dropRows target rs (k + b2n r.cluster.isSome) else []

/-- VSETTL (R284). Rows that it adds take part from the next VSETL or VLOOP on. -/
def vsettlM (d a : Nat) : M Unit := do
  let h ← theHart
  if h.carry then trapM 0x01 (iWord 0x13 d a 0)
  destFree d
  let t := (← useS a).toNat
  waitUnless h.queue.isEmpty
  let s ← get
  match s.gang? h.gang with
  | none => waitM
  | some g => do
    let t := if t = 0 then g.tlmax else t
    let target := min (min (max t g.tlmin) g.tlmax) (saveRows (s.fn h.fn).savecfg)
    if target < h.tl then modH (fun h => { h with rows := dropRows (max 1 target) h.rows 0 })
    else
      let mine := h.rows.filterMap Row.cluster
      let p := (s.growGrant g.cls false (target - (h.rows.length - mine.length)) s.occ { core := h.core, slot := h.slot, clusters := mine }).1
      let fresh := (p.clusters.drop mine.length).map (fun c =>
        { Row.fresh (some c) h.qbase 0xFFFF_FFFF s.dev.devtime.toNat with joined := false })
      modH (fun h => { h with rows := h.rows ++ fresh })
    let h ← theHart
    wrS d (BitVec.ofNat 64 h.tl)
    advance

/-- VSETTL (R284). -/
def execVsettl (d a : Nat) (s : State) : Out State := finish (vsettlM d a) s

/-- VSETMT (R285). -/
def execVsetmt (m : Nat) (s : State) : Out State :=
  finish (do
    modH (fun h => { h with vmt := BitVec.ofNat 2 m })
    advance) s

/-- VDEAD (R287): the mask is consumed when the word issues. -/
def execVdead (a : Nat) (s : State) : Out State :=
  finish (do
    let _ ← useS a
    enqueueI (.vdead a)) s

/-- VDEAD in a row: the marked registers hold zero from here on (R166). -/
def Row.kill (row : Row) (mask : Nat) : Row :=
  { row with
    vdead := row.vdead ||| BitVec.ofNat 32 mask
    v := Vector.ofFn (fun i : Fin 32 => if bit mask i.val then 0 else (row.v[i.val]?).getD 0)
    vpoison := Vector.ofFn (fun i : Fin 32 => if bit mask i.val then 0 else (row.vpoison[i.val]?).getD 0) }

/-! VLOOP and VNEXT (R162, R286). -/

/-- The word of VNEXT. -/
def vnextWord : Nat := 0x4800_0000

/-- A word that may stand in the body of a loop; none for any other. -/
def decodeBody (w : Nat) : Option Instr :=
  let i := match fieldAt w 26 6 with
    | 0x15 => decodeMajor15 w
    | 0x18 => decodeMajor18 w
    | 0x19 => decodeMajor19 w
    | 0x1A => decodeMajor1A w
    | 0x1B => decodeMajor1B w
    | 0x1C => decodeMajor1C w
    | 0x1D => decodeMajor1D w
    | 0x1E => decodeMajor1E w
    | 0x1F => decodeMajor1F w
    | 0x20 => decodeMajor20 w
    | 0x21 => decodeMajor21 w
    | 0x22 => decodeMajor22 w
    | 0x23 => decodeMajor23 w
    | 0x24 => decodeMajor24 w
    | 0x25 => decodeMajor25 w
    | 0x26 => decodeMajor26 w
    | 0x28 => decodeMajor28 w
    | 0x29 => decodeMajor29 w
    | 0x2A => decodeMajor2A w
    | 0x2B => decodeMajor2B w
    | 0x2C => decodeMajor2C w
    | 0x2D => decodeMajor2D w
    | 0x2E => decodeMajor2E w
    | _ => none
  match i with
  | some (.vext _ _ _) => none
  | some (.mpopc _ _) => none
  | some (.mfirst _ _) => none
  | some (.xchg _ _ _) => none
  | some i => if i.wf then some i else none
  | none => none

/-- The word of a loop body at an address: a miss freezes the sequencer, a poisoned line is consumed. -/
def bodyWord (va : Nat) : M Nat := do
  let w ← fetchWord va
  let h ← theHart
  let s ← get
  if (s.iline h va).any ILine.poison then trapM 0x0D 0
  pure w

/-- Read a body of at most n words up to its VNEXT: the instructions with their addresses. `w0` is the VLOOP's word. -/
def readBody (w0 : Word) (va : Nat) : (n : Nat) → (got : List (Nat × Instr)) → M (List (Nat × Instr))
  | n, got => do
    let w ← bodyWord va
    if w = vnextWord then pure got.reverse else
    match n with
    | 0 => trapM 0x01 w0
    | n + 1 =>
      match decodeBody w with
      | none => trapM 0x01 w0
      | some i => readBody w0 ((va + 4) % 2 ^ 57) n ((va, i) :: got)

/-- A word of a body with what it captures; the mask of a VDEAD is consumed (R162, R272). -/
def captureWord (x : Nat × Instr) : M Op := do
  let c := captures x.2
  let o ← capture x.2 c.1 c.2.1 c.2.2.1 c.2.2.2
  match x.2 with
  | .vdead _ => consume o.sa.poison
  | _ => pure ()
  pure { o with pc := BitVec.ofNat 64 x.1 }

/-- VLOOP (R286): the body is checked as the word is decoded, then the loop takes one queue entry and the scalar stream goes on after VNEXT. -/
def vloopM (a : Nat) : M Unit := do
  let h ← theHart
  let w := iWord 0x11 0 a 0
  if h.carry then trapM 0x01 w
  let words ← readBody w ((h.pc + 4).toNat) 256 []
  let x ← rdS a
  if 2 ^ 40 ≤ x.v.toNat then trapM 0x01 w
  consume x.poison
  let body ← words.mapM captureWord
  let o ← capture (.vloop a) none none none none
  enqueue { op := o, n := x.v.toNat, body := body }
  modH (fun h => { h with loopSince := true, pc := h.pc + 4 * (BitVec.ofNat 64 body.length + 2) })

/-- VLOOP (R286). -/
def execVloop (a : Nat) (s : State) : Out State := finish (vloopM a) s

/-- VNEXT on its own (R286). -/
def execVnext (s : State) : Out State := finish (trapM 0x01 (BitVec.ofNat 64 vnextWord)) s

/-! ICPF, CWAIT (R288, R289). -/

/-- ICPF (R288). -/
def execIcpf (a i : Nat) (s : State) : Out State :=
  finish (do
    let x ← rdS a
    let h ← theHart
    let va := (x.v + imm16 i).toNat
    let s ← get
    if !x.poison && va >>> 57 == 0 && (s.iline h va).isNone then modify (fun s => s.icacheHint h va)
    advance) s

/-- CWAIT (R289). -/
def execCwait (k : Nat) (s : State) : Out State :=
  finish (do
    let h ← theHart
    waitUnless ((List.range 8).all (fun i => !bit k i || ((h.tokens[i]?).bind Token.job).isNone))
    advance) s

end Sys2Proof.Machine
end

