-- ==== Sys2Proof/Machine/System.lean ====
section
/-! DEFINITION. Fences, barriers, launch and system words: majors 0x3C and 0x3E, without the fault commands (R202, R208, R381 to R383,
R385 to R389). -/

namespace Sys2Proof.Machine

/-- The word of a system instruction of major 0x3E, as TVAL reports it (R252). -/
def xWord (d a b fn8 : Nat) : Word := BitVec.ofNat 64 (0xF800_0000 + d * 2 ^ 21 + a * 2 ^ 16 + b * 2 ^ 11 + fn8)

/-- The privilege check of a word (R270). -/
def needLevel (n : Nat) (w : Word) : M Unit := do
  let h ← theHart
  if h.level < n then trapM 0x02 w

/-- Place a fence or barrier in the vector queue. -/
def enqueueFence (i : Instr) : M Unit := do
  let o ← capture i none none none none
  enqueue { op := o }

/-! Fences (R202, R206, R208, R381). Every scope is performed at once (log 4, DESIGN CHOICE, unsafe). -/

/-- FENCE_SV: the earlier scalar stores are performed, then the fence enters the queue. -/
def execFenceSv (sc : Nat) (s : State) : Out State :=
  finish (do
    drained
    enqueueFence (.fenceSv sc)
    advance) s

/-- FENCE_VS: the scalar unit waits until the queue ahead has performed its accesses. -/
def execFenceVs (sc : Nat) (s : State) : Out State :=
  finish (do
    let h ← theHart
    waitUnless h.performed
    enqueueFence (.fenceVs sc)
    advance) s

/-- FENCE_SVB: both, and a tile barrier. -/
def execFenceSvb (sc : Nat) (s : State) : Out State :=
  finish (do
    released
    enqueueFence (.fenceSvb sc)
    advance) s

/-- FENCE_REL: earlier scalar accesses are performed before every later scalar store. -/
def execFenceRel (_sc : Nat) (s : State) : Out State :=
  finish (do
    drained
    advance) s

/-- FENCE_ACQ: scalar loads are performed as they issue, so nothing is left to wait for. -/
def execFenceAcq (_sc : Nat) (s : State) : Out State := finish advance s

/-- FENCE_ROW: placed in the queue for every row. -/
def execFenceRow (sc : Nat) (s : State) : Out State :=
  finish (do
    enqueueFence (.fenceRow sc)
    advance) s

/-- VBAR: placed in the queue; each row waits there for the others. -/
def execVbar (sc : Nat) (s : State) : Out State :=
  finish (do
    enqueueFence (.vbar sc)
    advance) s

/-! GBAR (R156, R382). -/

/-- Has every other hart of the gang arrived at the barrier that the hart waits at, or ended? -/
def State.allArrived (s : State) (h : Hart) : Bool :=
  (s.harts.filter (fun x => x.gang == h.gang && x.id != h.id)).all (fun x =>
    x.halted || x.stopped || decide (h.gbarCount ≤ x.gbarCount))

/-- Pass the barrier once every hart is there. -/
def gbarLeave : M Unit := do
  let h ← theHart
  let s ← get
  waitUnless (s.allArrived h)
  modH (fun h => { h with gbarWait := false })
  advance

/-- GBAR: the fence, the arrival, the wait. -/
def gbarM (sc : Nat) : M Unit := do
  let h ← theHart
  if h.gbarWait then gbarLeave
  else do
    if h.carry then drained
    else do
      released
      enqueueFence (.gbar sc)
    modH (fun h => { h with gbarCount := h.gbarCount + 1, gbarWait := true })
    gbarLeave

/-- GBAR (R382). -/
def execGbar (sc : Nat) (s : State) : Out State := finish (gbarM sc) s

/-! HALT, YIELD, TRAP, ERET (R386 to R388). -/

/-- HALT (R387): with CARRY = 1 and vector work still queued the stream passes it and runs into the next kernel (R156); the hart ends at a HALT
that it meets with nothing queued (log 58, DEDUCED, unsafe). The pc stays at the HALT that ends it. -/
def execHalt (s : State) : Out State :=
  finish (do
    let h ← theHart
    if h.carry && !h.queue.isEmpty then advance
    else do
      waitUnless (h.queue.isEmpty && h.tokens.toList.all (fun t => t.job.isNone))
      modH (fun h => { h with halted := true })) s

/-- YIELD (R386): the hart ranks as most recently issued. -/
def execYield (s : State) : Out State :=
  finish (do
    modify (fun s => { s.modHart s.cur (fun h => { h with stamp := s.issueCtr + 1 }) with issueCtr := s.issueCtr + 1 })
    advance) s

/-- TRAP (R386): the instruction commits, then the software trap is taken. -/
def execTrap (i : Nat) (s : State) : Out State :=
  finish (do
    advance
    trapM 0x10 (BitVec.ofNat 64 i)) s

/-- ERET (R219, R388): the handler's own queue runs out first. -/
def execEret (s : State) : Out State :=
  finish (do
    let h ← theHart
    -- the lowest code goes first (R269)
    if !BB h.tstatus 2 then trapM 0x01 (xWord 0 0 0 3)
    needLevel 1 (xWord 0 0 0 3)
    waitUnless h.queue.isEmpty
    returnFromTrap) s

/-! GLAUNCH (R383). -/

/-- GLAUNCH. -/
def glaunchM (d a : Nat) : M Unit := do
  needLevel 1 (xWord d a 0 4)
  destFree d
  let xe ← rdS a
  let x := xe.v
  if BF x 57 7 ≠ 0 ∨ BF x 1 5 ≠ 0 then trapM 0x03 x
  let va := BF x 6 51 * 64
  outsideRegs va 64
  consume xe.poison
  drained
  let h ← theHart
  asUnit 0 (whole do
    let s ← get
    let r ← readAny (s.accOf h 0) va 64
    if r.2.any id then trapM 0x0D 0
    let s ← get
    if h.fn ≠ 0 ∧ !s.windowLive h.fn then wrS d 8
    else do
      let y ← submit h.fn none (BitVec.ofNat 64 va) (BitVec.ofNat 512 (leVal r.1)) (if BB x 0 then h.level else 0)
      wrS d (BitVec.ofNat 64 (y.1 + y.2 * 2 ^ 8))
    advance)

/-- GLAUNCH (R383). -/
def execGlaunch (d a : Nat) (s : State) : Out State := finish (glaunchM d a) s

/-! HEATAGE (R103, R385). -/

/-- Halve HEAT of n frames from a frame, in ascending index. -/
def State.ageFrames (s : State) (f : Nat) : (n : Nat) → State
  | 0 => s
  | n + 1 => (s.homeOp (.heat f true)).ageFrames (f + 1) n

/-- Does a halving of n frames from a frame still wait at its home? -/
def State.ageing (s : State) (f n : Nat) : Bool :=
  s.homeWait.any (fun o => match o with
    | .heat x true => decide (f ≤ x) && decide (x < f + n)
    | _ => false)

/-- HEATAGE (R385): the halvings go out once, and the hart waits until every one is performed. -/
def heatageM (a b : Nat) : M Unit := do
  needLevel 2 (xWord 0 a b 7)
  let xe ← rdS a
  let ye ← rdS b
  let x := xe.v
  let y := ye.v
  if BF x 35 29 ≠ 0 then trapM 0x03 x
  consume (xe.poison || ye.poison)
  let last := min (x.toNat + y.toNat) 200_441_856
  let h ← theHart
  if !h.ageAt.contains h.pc then do
    modify (fun s => s.ageFrames x.toNat (last - x.toNat))
    modH (fun h => { h with ageAt := h.pc :: h.ageAt })
  let s ← get
  waitUnless (!s.ageing x.toNat (last - x.toNat))
  modH (fun h => { h with ageAt := h.ageAt.erase h.pc })
  advance

/-- HEATAGE (R385). -/
def execHeatage (a b : Nat) (s : State) : Out State := finish (heatageM a b) s

/-! HSTOP (R389). -/

/-- HSTOP: a hart reset of the issuing hart, once its rows stand where they may stop (R227). -/
def execHstop (s : State) : Out State :=
  finish (do
    needLevel 1 (xWord 0 0 0 8)
    let h ← theHart
    let s ← get
    waitUnless (s.mayStop h none false)
    modify (fun s => s.stopHart s.cur)) s

end Sys2Proof.Machine
end

