-- ==== Sys2Proof/Machine/Copy.lean ====
section
/-! DEFINITION. The copy engine: major 0x34 and the retirement of copies (R32, R209, R210, R343 to R351). -/

namespace Sys2Proof.Machine

/-! The shape record (R345). -/

/-- Dimensions. -/
def CopyJob.ndim (j : CopyJob) : Nat := BF j.shape 2 2 + 1
/-- Element size. -/
def CopyJob.esz (j : CopyJob) : Nat := 2 ^ BF j.shape 0 2
/-- Extent of dimension d; that of dimension 0 is the shortened VL. -/
def CopyJob.ext (j : CopyJob) (d : Nat) : Nat := if d = 0 then j.n0 else if d < j.ndim then BF j.shape (16 * d) 16 else 1
/-- Start coordinate of dimension d. -/
def CopyJob.x (j : CopyJob) (d : Nat) : Int := sext 16 (BF j.shape (64 + 16 * d) 16)
/-- Bound of dimension d. -/
def CopyJob.bound (j : CopyJob) (d : Nat) : Nat := BF j.shape (128 + 16 * d) 16
/-- PADZ; copy.z takes it as 1 (R349). -/
def CopyJob.padz (j : CopyJob) : Bool := BB j.shape 7 || j.mode == 3
/-- MREG. -/
def CopyJob.mreg (j : CopyJob) : Nat := BF j.shape 4 3

/-- Strides of dimensions 0 to 3: the element size, a pitch or its default, then products. -/
def strides (esz pitch : Nat) (n : Nat → Nat) (d : Nat) : Nat :=
  let s1 := if pitch = 0 then n 0 * esz else pitch
  match d with
  | 0 => esz
  | 1 => s1
  | 2 => s1 * n 1
  | _ => s1 * n 1 * n 2

/-- Source stride of dimension d. -/
def CopyJob.ss (j : CopyJob) (d : Nat) : Nat := strides j.esz (BF j.shape 192 32) j.bound d
/-- Destination stride of dimension d. -/
def CopyJob.ds (j : CopyJob) (d : Nat) : Nat := strides j.esz (BF j.shape 224 32) j.ext d

/-- Elements. -/
def CopyJob.count (j : CopyJob) : Nat := j.ext 0 * j.ext 1 * j.ext 2 * j.ext 3

/-- Coordinate d of the element with linear index t (R346). -/
def CopyJob.coord (j : CopyJob) (t d : Nat) : Nat :=
  match d with
  | 0 => t % j.ext 0
  | 1 => t / j.ext 0 % j.ext 1
  | 2 => t / (j.ext 0 * j.ext 1) % j.ext 2
  | _ => t / (j.ext 0 * j.ext 1 * j.ext 2)

/-- Is the element in range? -/
def CopyJob.inRange (j : CopyJob) (t : Nat) : Bool :=
  (List.range j.ndim).all (fun d =>
    let c : Int := j.x d + (j.coord t d : Int)
    decide (0 ≤ c) && decide (c < (j.bound d : Int)))

/-- Source address of an element. -/
def CopyJob.srcAt (j : CopyJob) (t : Nat) : Nat :=
  (BitVec.ofInt 64 ((j.src.toNat : Int) + (List.range 4).foldl (fun (a : Int) d =>
    a + ((if d < j.ndim then j.x d else 0) + (j.coord t d : Int)) * (j.ss d : Int)) 0)).toNat

/-- Destination address of an element. -/
def CopyJob.dstAt (j : CopyJob) (t : Nat) : Nat :=
  (j.dst.toNat + sumN ((List.range 4).map (fun d => j.coord t d * j.ds d))) % 2 ^ 64

/-- Coordinates of dimension d that are in range: first and last, none where there is none. -/
def CopyJob.span (j : CopyJob) (d : Nat) : Option (Int × Int) :=
  if d < j.ndim then
    let lo := max 0 (j.x d)
    let hi := min (j.bound d : Int) (j.x d + (j.ext d : Int)) - 1
    if lo ≤ hi then some (lo, hi) else none
  else some (0, 0)

/-- Bytes the copy can read: from the lowest to past the highest; equal where there are none (R346). -/
def CopyJob.srcRange (j : CopyJob) : Nat × Nat :=
  let l := (List.range 4).filterMap (fun d => (j.span d).map (fun p => (p.1 * (j.ss d : Int), p.2 * (j.ss d : Int))))
  if l.length = 4 ∧ j.count ≠ 0 then
    (j.src.toNat + (l.foldl (fun (a : Int) p => a + p.1) 0).toNat, j.src.toNat + (l.foldl (fun (a : Int) p => a + p.2) 0).toNat + j.esz)
  else (0, 0)

/-- Bytes the copy can write. -/
def CopyJob.dstRange (j : CopyJob) : Nat × Nat :=
  if j.count = 0 then (0, 0)
  else if j.mode = 1 ∨ j.mode = 2 then (j.dst.toNat, j.dst.toNat + j.ext 0 * j.esz)
  else if j.mode = 3 then (j.dst.toNat, j.dst.toNat + j.count * j.esz)
  else (j.dst.toNat, j.dst.toNat + sumN ((List.range 4).map (fun d => (j.ext d - 1) * j.ds d)) + j.esz)

/-- Mask bits of R347. -/
def CopyJob.maskBits (j : CopyJob) : Nat :=
  sumN ((List.range (min 1024 j.count)).map (fun t => if j.inRange t then 2 ^ t else 0))

/-- A copy as it is pushed. -/
def CopyJob.start (mode : Nat) (dst src : Word) (shape : BitVec 256) (n0 level stamp : Nat) : CopyJob where
  mode := mode
  dst := dst
  src := src
  shape := shape
  n0 := n0
  lo := (0, 0)
  hi := (0, 0)
  level := level
  t := 0
  acc := []
  flags := 0
  out := 0
  raw := 0
  park := none
  stamp := stamp

/-! Issue (R344 to R346). -/

/-- The offending word of a shape record, if any (R345). The pitches are fields of dimension 1. -/
def shapeBad (mode : Nat) (w : List Word) : Option Word :=
  let w0 := w.getD 0 0
  let w1 := w.getD 1 0
  let w2 := w.getD 2 0
  let w3 := w.getD 3 0
  let nd := BF w0 2 2 + 1
  let above := (List.range 4).filter (fun d => decide (nd ≤ d))
  let below := List.range nd
  let fold := mode == 1 || mode == 2
  let rf := BF w0 10 6
  if above.any (fun d => BF w0 (16 * d) 16 != 0) || BF w0 8 2 == 3 || (!fold && BF w0 8 8 != 0)
      || (fold && (!([0x04, 0x05, 0x06, 0x07, 0x10, 0x11, 0x12].contains rf) || fmtWidth rf != 8 * 2 ^ BF w0 0 2)) then some w0
  else if above.any (fun d => BF w1 (16 * d) 16 != 0) then some w1
  else if above.any (fun d => BF w2 (16 * d) 16 != 0) || below.any (fun d => BF w2 (16 * d) 16 == 0) then some w2
  else if (mode != 0 && BF w3 32 32 != 0) || (nd == 1 && w3 != 0) then some w3
  else none

/-- The value that is not a multiple of the element size, if any. -/
def shapeMisaligned (src dst : Word) (w : List Word) : Option Word :=
  let e := 2 ^ BF (w.getD 0 0) 0 2
  [src, dst, BitVec.ofNat 64 (BF (w.getD 3 0) 0 32), BitVec.ofNat 64 (BF (w.getD 3 0) 32 32)].find? (fun x => x.toNat % e != 0)

/-- Is an entry a VLOOP? -/
def Entry.isLoop (e : Entry) : Bool :=
  match e.op.i with
  | .vloop _ => e.sub == 0
  | _ => false

/-- VL of the home row for a COPY (R346 step 1). -/
def copyN0 : M Nat := do
  let h ← theHart
  if h.loopSince then do
    waitUnless (!h.queue.any Entry.isLoop)
    pure h.home.vl.toNat
  else pure h.vlSet.toNat

/-- Copies in flight on a core. -/
def State.coreCopies (s : State) (core : Nat) : Nat :=
  ((s.harts.filter (fun h => h.core == core)).map (fun h => (h.tokens.toList.filter (fun t => t.job.isSome)).length)).foldl (· + ·) 0

/-- The copy forms. -/
def copyM (mode : Nat) (i : Instr) (a b c k : Nat) : M Unit := do
  let w := (List.range 4).map (fun n => c + n)
  let xs ← w.mapM rdS
  let dst ← rdS a
  let src ← rdS b
  let h ← theHart
  let ws := xs.map Elem.v
  let det := mode == 2 && h.det
  let tw : Word := BitVec.ofNat 64 ((encode i).getD 0)
  match shapeBad mode ws with
  | some x => trapM 0x03 x
  | none => pure ()
  if det then trapM 0x04 tw
  match shapeMisaligned src.v dst.v ws with
  | some x => trapM 0x06 x
  | none => pure ()
  if dst.poison || src.poison || xs.any Elem.poison then trapM 0x0D 0
  released
  fifoRoom 0
  let n0 ← copyN0
  let s ← get
  let shape : BitVec 256 := BitVec.ofNat 256 (sumN ((List.range 4).map (fun n => (ws.getD n 0).toNat * 2 ^ (64 * n))))
  let x0 := sext 16 (BF shape 64 16)
  let b0 := BF shape 128 16
  let short := decide ((b0 : Int) < x0 + (n0 : Int))
  let n := if short then ((b0 : Int) - x0).toNat else n0
  let j := CopyJob.start mode dst.v src.v shape n h.level s.reqCtr
  let j := { j with lo := j.srcRange, hi := j.dstRange }
  waitUnless (((h.tokens[k]?).bind Token.job).isNone)
  waitUnless (decide (s.coreCopies h.core < 64))
  waitUnless (decide (h.queue.length + b2n short + b2n (j.mreg != 0) ≤ 64))
  let o ← capture i none none none none
  if short then enqueue { op := o, sub := 1, n := n }
  if j.mreg ≠ 0 then enqueue { op := o, sub := 2, n := k, vlmax := j.mreg }
  modify (fun s => { s with reqCtr := s.reqCtr + 1 })
  modH (fun h => { h with tokens := h.tokens.setIfInBounds k { job := some j, status := 0 } })
  advance

/-- COPY (R347). -/
def execCopy (a b c k : Nat) (s : State) : Out State := finish (copyM 0 (.copy a b c k) a b c k) s
/-- COPYR_O (R348). -/
def execCopyrO (a b c k : Nat) (s : State) : Out State := finish (copyM 1 (.copyrO a b c k) a b c k) s
/-- COPYR_U (R348). -/
def execCopyrU (a b c k : Nat) (s : State) : Out State := finish (copyM 2 (.copyrU a b c k) a b c k) s
/-- COPY_Z (R349). -/
def execCopyZ (a b c k : Nat) (s : State) : Out State := finish (copyM 3 (.copyZ a b c k) a b c k) s
/-- COPY_MIG (R350). -/
def execCopyMig (a b c k : Nat) (s : State) : Out State := finish (copyM 4 (.copyMig a b c k) a b c k) s

/-! The engine (R347 to R351). -/

/-- The copy in flight on a token. -/
def theJob (k : Nat) : M CopyJob := do
  let h ← theHart
  match (h.tokens[k]?).bind Token.job with
  | some j => pure j
  | none => waitM

/-- Change the copy in flight on a token. -/
def modJob (k : Nat) (f : CopyJob → CopyJob) : M Unit :=
  modH (fun h => { h with tokens := h.tokens.setIfInBounds k (match h.tokens[k]? with
    | some t => { t with job := t.job.map f }
    | none => { job := none, status := 0 }) })

/-- The unit of a hart that the copy of a token is. -/
def copyAgent (k : Nat) : Nat := 65 + k

/-- The token of a copy in flight, which its place in the order of copies tells. -/
def Hart.tokenOf (h : Hart) (j : CopyJob) : Nat :=
  ((List.range 8).find? (fun k => match (h.tokens[k]?).bind Token.job with
    | some x => x.stamp == j.stamp
    | none => false)).getD 0

/-- The requester of a copy: an engine acting alone for its hart (R351). -/
def copyAcc (j : CopyJob) : M Acc := do
  let h ← theHart
  let s ← get
  pure { s.accOf h 2 with level := j.level, alone := true, agent := copyAgent (h.tokenOf j) }

/-- Is a copy a page migration? At user level copy.mig acts as copy (R350). -/
def CopyJob.ignMig (j : CopyJob) : Bool := j.mode == 4 && decide (1 ≤ j.level)

/-- Read bytes of one line for a copy. -/
def copyRead (j : CopyJob) (va n : Nat) : M (List Byte × List Bool) := do
  let acc ← copyAcc j
  if (inRegWindow va).isSome then trapM 0x07 (BitVec.ofNat 64 va)
  match inPadWindow va with
  | some off => padReadM va off n
  | none =>
    match ← apertureOf acc va with
    | some (i, rec) =>
      let base := bits rec 144 41 * 65536
      readSurface acc i rec base (va - base) n
    | none => do
      let x ← xlate acc va false [0, 1, 2, 3] j.ignMig
      readPiece acc va x n

/-- Write bytes of one line for a copy. -/
def copyWrite (j : CopyJob) (va : Nat) (bs : List Byte) (ps : List Bool) : M Unit := do
  let acc ← copyAcc j
  if (inRegWindow va).isSome then trapM 0x07 (BitVec.ofNat 64 va)
  match inPadWindow va with
  | some off => do
    padWriteM va off bs ps
    -- the scratchpad of a saved hart is in its image (R227, R229)
    let h ← theHart
    let s ← get
    if h.saved then
      let _ ← saveBytes (s.trapAcc h) (s.areaVA h + 0x2000 + off) bs
  | none => do
    if (← apertureOf acc va).isSome then trapM 0x0A (BitVec.ofNat 64 va)
    let x ← xlate acc va true [0, 1, 2, 3] j.ignMig
    writePiece acc va x bs ps

/-- Elements from t that one request carries: a run within dimension 0, one line of the destination and, in range, one of
the source (log 41, DEDUCED, unsafe). -/
def CopyJob.runLen (j : CopyJob) (t : Nat) : Nat :=
  let r := j.inRange t
  let n := min 64 (j.ext 0 - j.coord t 0)
  match (List.range n).find? (fun i => i != 0 && (j.inRange (t + i) != r || j.dstAt (t + i) / 64 != j.dstAt t / 64
      || (r && j.srcAt (t + i) / 64 != j.srcAt t / 64))) with
  | some i => i
  | none => n

/-- Elements from t that one request writes: a run, or for a page migration a whole line of the destination, which is dense, where each of
its elements is written; so a sector is written whole and its poison is copied as it stands (R350). -/
def CopyJob.reqLen (j : CopyJob) : Nat :=
  if j.ignMig && (j.padz || (List.range (64 / j.esz)).all (fun i => j.inRange (j.t + i))) then 64 / j.esz else j.runLen j.t

/-- The bytes of n elements from t, run by run; zeros for those out of range. -/
def copyGather (j : CopyJob) : (fuel : Nat) → (t n : Nat) → M (List Byte × List Bool)
  | 0, _, _ => pure ([], [])
  | fuel + 1, t, n => do
    if n = 0 then pure ([], []) else
    let m := max 1 (min n (j.runLen t))
    let x ← if j.inRange t then copyRead j (j.srcAt t) (m * j.esz)
      else pure (List.replicate (m * j.esz) (0 : Byte), List.replicate (m * j.esz) false)
    let y ← copyGather j fuel (t + m) (n - m)
    pure (x.1 ++ y.1, x.2 ++ y.2)

/-- One request of a plain copy. An element whose source or destination lies in the function-register window is not accessed (R347). -/
def copyRun (k : Nat) (j : CopyJob) : M Unit := do
  let n := j.reqLen
  let hit := (List.range n).filter (fun i => j.inRange (j.t + i))
  if !hit.isEmpty || j.padz then do
    if (inRegWindow (j.dstAt j.t)).isSome || (j.inRange j.t && (inRegWindow (j.srcAt j.t)).isSome) then trapM 0x07 (BitVec.ofNat 64 (j.dstAt j.t))
    let x ← copyGather j n j.t n
    copyWrite j (j.dstAt j.t) x.1 x.2
  modJob k (fun j => { j with t := j.t + n, out := j.out + (n - hit.length) })

/-- Combine values in a tree that free values choose (R348). -/
def foldTree (op fmt : Nat) : (fuel : Nat) → List Nat → M (Nat × Nat)
  | 0, l => pure (l.headD 0, 0)
  | _ + 1, [] => pure (0, 0)
  | _ + 1, [x] => pure (x, 0)
  | fuel + 1, l => do
    let f ← freeWord
    let g ← freeWord
    let i := f.toNat % l.length
    let l1 := l.eraseIdx i
    let i2 := g.toNat % l1.length
    let y := combine op fmt (l.getD i 0) (l1.getD i2 0)
    let t ← foldTree op fmt fuel (y.1 :: l1.eraseIdx i2)
    pure (t.1, t.2 ||| y.2)

/-- The folded element i of the destination strip: value and flags. -/
def CopyJob.fold (j : CopyJob) (i : Nat) : M (Nat × Nat) := do
  let op := BF j.shape 8 2
  let fmt := BF j.shape 10 6
  let n := j.ext 0
  let init := j.acc.getD i 1 - 1
  let xs := ((List.range (j.ext 1 * j.ext 2 * j.ext 3)).map (fun o => j.acc.getD (n + o * n + i) 0)).filter (fun x => x != 0)
    |>.map (fun x => x - 1)
  if j.mode = 2 then foldTree op fmt (xs.length + 1) (init :: xs)
  else pure (xs.foldl (fun (a : Nat × Nat) x =>
    let y := combine op fmt a.1 x
    (y.1, a.2 ||| y.2)) (init, 0))

/-- One step of a fold: the destination strip is read, then the sources, then the strip is written at retirement. `acc`
holds what was read, one above the value and 0 out of range; after the reads it holds the results. -/
def foldRun (k : Nat) (j : CopyJob) : M Unit := do
  let n := j.ext 0
  let all := n + j.count
  if j.t < n then do
    let x ← copyRead j ((j.dst.toNat + j.t * j.esz) % 2 ^ 64) j.esz
    if x.2.any id then trapM 0x0D 0
    modJob k (fun j => { j with t := j.t + 1, acc := j.acc ++ [leVal x.1 + 1] })
  else if j.t < all then do
    let t := j.t - n
    if j.inRange t then do
      let x ← copyRead j (j.srcAt t) j.esz
      if x.2.any id then trapM 0x0D 0
      modJob k (fun j => { j with t := j.t + 1, acc := j.acc ++ [leVal x.1 + 1] })
    else modJob k (fun j => { j with t := j.t + 1, acc := j.acc ++ [0], out := j.out + 1 })
  else if j.t = all then do
    let r ← (List.range n).mapM j.fold
    modJob k (fun j => { j with
      t := j.t + 1, acc := r.map Prod.fst, flags := BitVec.ofNat 5 (r.foldl (fun f x => f ||| x.2) 0) })
  else do
    let i := j.t - all - 1
    copyWrite j ((j.dst.toNat + i * j.esz) % 2 ^ 64) (leBytes j.esz (j.acc.getD i 0)) (List.replicate j.esz false)
    modJob k (fun j => { j with t := j.t + 1 })

/-- The surface a compress-mode copy writes: index and record; none for BADSURF (R349). -/
def zSurface (j : CopyJob) : M (Option (Nat × Nat)) := do
  let acc ← copyAcc j
  let total := j.count * j.esz
  match ← rawAliasOf acc j.dst.toNat with
  | some (i, rec) =>
    let base := bits rec 16 41 * 65536
    let ok := !surfMalformed rec && bits rec 320 4 == 1 && j.dst.toNat % 256 == 0 && total % 256 == 0
      && decide (j.dst.toNat + total ≤ base + bits rec 64 32 * 65536)
    pure (if ok then some (i, rec) else none)
  | none => pure none

/-- Bytes of the dense linear order from byte lo on, and elements out of range among them. -/
def zBytes (j : CopyJob) (lo : Nat) : (n : Nat) → M (List Byte × Bool × Nat)
  | 0 => pure ([], false, 0)
  | n + 1 => do
    let t := lo / j.esz + (256 / j.esz - 1 - n)
    let x ← if j.inRange t then copyRead j (j.srcAt t) j.esz else pure (List.replicate j.esz (0 : Byte), List.replicate j.esz false)
    let r ← zBytes j lo n
    pure (x.1 ++ r.1, x.2.any id || r.2.1, b2n (!j.inRange t) + r.2.2)

/-- One block of a compress-mode copy: chunks, check word, then nibble (R32, R349). -/
def zRun (k : Nat) (j : CopyJob) (rec : Nat) : M Unit := do
  let acc ← copyAcc j
  let x ← zBytes j (256 * j.t) (256 / j.esz)
  if x.2.1 then trapM 0x0D 0
  let e := kbcEncode x.1
  let base := bits rec 16 41 * 65536
  let block := (j.dst.toNat - base) / 256 + j.t
  let clean (n : Nat) : List Bool := List.replicate n false
  let ca := bits rec 266 47 * 1024 + 4 * block
  let ma := bits rec 199 50 * 128 + block / 2
  -- a block that parks has been written nowhere (R351)
  probeMem acc (base + 256 * block) e.2.length true
  probeMem (surfAcc acc) ca 4 true
  probeMem (surfAcc acc) ma 1 true
  let m ← readMem (surfAcc acc) ma 1
  writeMem acc (base + 256 * block) e.2 (clean e.2.length)
  writeMem (surfAcc acc) ca (leBytes 4 (crc32c x.1)) (clean 4)
  writeMem (surfAcc acc) ma (leBytes 1 (setBits (leVal m.1) (4 * (block % 2)) 4 e.1)) (clean 1)
  modJob k (fun j => { j with t := j.t + 1, out := j.out + x.2.2, raw := j.raw + b2n (e.1 == 15) })

/-- COMP set in the surface record in memory, with nothing else of it changed (R29, R349). -/
def zComp (j : CopyJob) (idx : Nat) : M Unit := whole do
  let acc ← copyAcc j
  let s ← get
  let a := BF (s.fn acc.fn).surftab 16 41 * 2 ^ 16 + 64 * idx + 40
  let x ← readMem (surfAcc acc) a 1
  if !bit (leVal x.1) 4 then writeMem (surfAcc acc) a (leBytes 1 (setBits (leVal x.1) 4 1 1)) x.2

/-- Status and SUB of the failure that ends a copy (R351). -/
def copyStatus (t : TrapInfo) : Nat × Nat :=
  match t.code with
  | 0x0D => (2, 0)
  | 0x0B => (3, t.sub)
  | 0x0C => (4, t.sub)
  | 0x0A => (6, 0)
  | _ => (5, 0)

/-- Run requests until the copy ends: status and SUB. A park or a wait leaves the progress where it stands. -/
def copyLoop (k : Nat) (done : CopyJob → Bool) (one : CopyJob → M Unit) : (fuel : Nat) → M (Nat × Nat)
  | 0 => pure (0, 0)
  | fuel + 1 => do
    let j ← theJob k
    if done j then pure (0, 0) else
    match ← attempt (whole (one j)) with
    | .ok _ => do
      progressed (copyAgent k)
      copyLoop k done one fuel
    | .error (.trap t) => pure (copyStatus t)
    | .error (.park p) =>
      if p.conv then pure (1, 0)
      else do
        modJob k (fun j => { j with park := some p })
        waitM
    | .error .wait => waitM

/-- The whole of a copy from where it stands: status and SUB. -/
def copyAll (k : Nat) (j : CopyJob) : M (Nat × Nat) := do
  let total := j.count
  if total = 0 then pure (0, 0)
  else if j.mode = 1 ∨ j.mode = 2 then
    let all := j.ext 0 + total
    copyLoop k (fun j => decide (all + 1 + j.ext 0 ≤ j.t)) (foldRun k) (all + j.ext 0 + 2)
  else if j.mode = 3 then do
    match ← attempt (zSurface j) with
    | .ok none => pure (7, 0)
    | .ok (some (_, rec)) => copyLoop k (fun j => decide (total * j.esz / 256 ≤ j.t)) (fun j => zRun k j rec) (total + 1)
    | .error (.trap t) => pure (copyStatus t)
    | .error (.park p) =>
      if p.conv then pure (1, 0)
      else do
        modJob k (fun j => { j with park := some p })
        waitM
    | .error .wait => waitM
  else if j.ignMig && (j.src.toNat % 4096 != 0 || j.dst.toNat % 4096 != 0 || total * j.esz % 4096 != 0) then pure (5, 0)
  else copyLoop k (fun j => decide (total ≤ j.t)) (copyRun k) (total + 1)

/-- Has every row executed the entry at the head of a queue, and may it leave? An unretired mask entry stays (R346). -/
def headDone (rows : List Row) (qbase : Nat) (e : Entry) : Bool :=
  rows.all (fun (r : Row) => decide (qbase < r.qdone)) && (e.sub != 2 || e.started)

/-- A queue without the finished entries at its head, and the number of its first entry. -/
def popQueue (rows : List Row) (qbase : Nat) : List Entry → List Entry × Nat
  | [] => ([], qbase)
  | e :: es => if headDone rows qbase e then popQueue rows (qbase + 1) es else (e :: es, qbase)

/-- Drop the finished entries at the head of the queue. -/
def Hart.pop (h : Hart) : Hart :=
  let q := popQueue h.rows h.qbase h.queue
  { h with queue := q.1, qbase := q.2 }

/-- The mask of a retired copy reaches its entry, and the home row where that has passed the entry (R346 step 5). -/
def placeMask (k mask : Nat) (q : List Entry) (qbase : Nat) (rows : List Row) : List Entry × List Row :=
  match q.findIdx? (fun e => e.sub == 2 && e.n == k && !e.started) with
  | none => (q, rows)
  | some i =>
    let reg := match q[i]? with
      | some e => e.vlmax
      | none => 0
    (q.modify i (fun (e : Entry) => { e with started := true, carry := [{ pos := 0, next := 0, acc := [mask], poison := false }] }),
      rows.modify 0 (fun (r : Row) => if qbase + i < r.qdone then { r with m := r.m.setIfInBounds reg (BitVec.ofNat 1024 mask) } else r))

/-- The status word of R351. -/
def CopyJob.statusWord (j : CopyJob) (status sub : Nat) : Word :=
  BitVec.ofNat 64 (status + sub * 2 ^ 8 + j.flags.toNat * 2 ^ 16 + min 0xFFFF j.raw * 2 ^ 24 + min 0xFF_FFFF j.out * 2 ^ 40)

/-- A copy retires: its token takes the status, its mask entry its mask, commands that wait for it go on. So they do in the image of a hart whose
context was saved while it was in flight (R227). -/
def Hart.retireCopy (h : Hart) (k : Nat) (j : CopyJob) (status sub : Nat) : Hart :=
  let w := j.statusWord status sub
  let live := placeMask k j.maskBits h.queue h.qbase h.rows
  let answered (q : Vector (List RawCmd) 4) : Vector (List RawCmd) 4 := q.map (fun l => l.map (fun (c : RawCmd) =>
    { c with after := c.after.filter (fun x => x != k), res := if c.query && c.after.contains k then some w else c.res }))
  let h : Hart := { h with
    tokens := h.tokens.setIfInBounds k { job := none, status := w }
    queue := live.1
    rows := live.2
    img := h.img.map (fun (i : Image) =>
      let y := placeMask k j.maskBits i.queue i.qbase i.rows
      let q := popQueue y.2 i.qbase y.1
      let first := (i.toks[k]?).getD none == none
      { i with
        queue := q.1, qbase := q.2, rows := y.2
        inq := if first then answered i.inq else i.inq
        toks := if first then i.toks.set k (some w) else i.toks })
    inq := answered h.inq }
  h.pop

/-- The end of a compress-mode copy, whatever its status: COMP is set and the aperture of the surface flushed (R32, R349). Where setting
COMP fails, the copy ends with that status if it had none. `last`: it has parked before and may not again. -/
def zEnd (k : Nat) (j : CopyJob) (r : Nat × Nat) (last : Bool) : M (Nat × Nat) := do
  let s ← get
  match ← attempt (zSurface j) with
  | .ok (some (i, _)) => do
    let acc ← copyAcc j
    let flush : M Unit := modify (fun s => s.flushSurf acc.fn (some i))
    match ← attempt (zComp j i) with
    | .ok _ => do
      flush
      pure r
    | .error .wait => waitM
    | .error (.park p) => do
      if !(p.conv || last) then
        modJob k (fun j => { j with park := some p })
        waitM
      if last then set s
      flush
      pure (if r.1 = 0 then (1, 0) else r)
    | .error (.trap t) => do
      flush
      pure (if r.1 = 0 then copyStatus t else r)
  | .error .wait => waitM
  | _ => pure r

/-- Is the copy the oldest of its core's that may issue (R167)? A parked copy lets others pass. -/
def State.copyTurn (s : State) (h : Hart) (j : CopyJob) : Bool :=
  !s.harts.any (fun x => x.core == h.core && x.tokens.toList.any (fun t => match t.job with
    | some o => decide (o.stamp < j.stamp) && (match o.park with
      | some p => p.conv
      | none => true)
    | none => false))

/-- A copy runs until it retires, parks or waits. -/
def copyRetireM (k : Nat) : M Unit := do
  let j ← theJob k
  let h ← theHart
  let s ← get
  waitUnless (s.copyTurn h j)
  let r ← match j.park with
    | some p => if p.conv then pure (1, 0) else waitM
    | none => copyAll k j
  let r ← if j.mode = 3 ∧ r.1 ≠ 7 ∧ j.count ≠ 0 then zEnd k j r j.park.isSome else pure r
  let j ← theJob k
  modH (fun h => { h.retireCopy k j r.1 r.2 with attempts := 0 })

/-- Run a computation as a hart, keeping what it did. -/
def State.asHart (s : State) (hart : Nat) (x : M Unit) : State :=
  match x { s with cur := hart } with
  | .ok _ s' => { s' with cur := s.cur }
  | .error _ s' => { s' with cur := s.cur }

/-- COPY_RETIRE (R351). -/
def execCopyRetire (hart token : Nat) (s : State) : Out State :=
  .next (s.asHart hart (asUnit (copyAgent token) (copyRetireM token)))

end Sys2Proof.Machine
end

