-- ==== Sys2Proof/Machine/VArith.lean ====
section
/-! DEFINITION. What a row does with the element-wise words: integer, floating, logic, compare, mask, move, conversion, fixed point
(R290 to R305). Each answers the flags the word raised in the row. -/

namespace Sys2Proof.Machine

/-! The set-up of typed words. -/

/-- A typed element-wise word in a row: its descriptor and operand groups, checked (R184, R291). -/
structure Typed where
  d : Desc
  ga : Grp
  gb : Option Grp
  gd : Grp
deriving DecidableEq, Repr

/-- Checks of a typed word (R184). `vb` is the vector operand b; `readD` says that vd is a source; a CB2 source shares no register with the
destination. -/
def typedSetup (r : Nat) (o : Op) (vd va : Nat) (vb : Option Nat) (single readD : Bool) (ok : Desc → Bool) : M Typed := do
  let d := Desc.of o.sf.v
  let ga := o.typed d va d.fa
  let gb := vb.map (fun b => o.typed d b d.fb)
  let gd := o.typed d vd d.fd
  checkTyped r o (some (d.fd, gd)) ([(d.fa, ga)] ++ (gb.map (fun g => (d.fb, g))).toList ++ (if readD then [(d.fd, gd)] else []))
    (!(single && d.fa == 0x18)) (descBad o.sf.v single || !ok d)
  pure { d := d, ga := ga, gb := gb, gd := gd }

/-- The destination of a typed word. -/
def typedPut (r : Nat) (o : Op) (t : Typed) : M Put := do
  let row ← theRow r
  pure { g := t.gd, code := t.d.fd, mode := o.mode t.d, sat := t.d.sat, pc := o.pc, strip := row.strip.toNat }

/-- The reads of an element of a typed word. -/
def Typed.reads (t : Typed) (readD : Bool) (e : Nat) : List Rd :=
  t.ga.reads e ++ (match t.gb with
    | some g => g.reads e
    | none => []) ++ (if readD then t.gd.reads e else [])

/-! Integers (R294, R305). -/

/-- Element e of operand a, of operand b and of vd, as exact integers. -/
def intArgs (o : Op) (t : Typed) (row : Row) (e : Nat) : Int × Int × Int :=
  (intOf t.d.fa (row.elem t.ga.base t.ga.w e),
   match t.gb with
   | some g => intOf t.d.fb (row.elem g.base g.w e)
   | none => intOf t.d.fb (o.sb.v.toNat % 2 ^ fmtWidth t.d.fb),
   intOf t.d.fd (row.elem t.gd.base t.gd.w e))

/-- A typed integer word: formats and their condition, and the result of x, y and d. -/
def intOp (r : Nat) (o : Op) (vd va : Nat) (vb : Option Nat) (mk : Nat) (readD : Bool) (cond : Desc → Bool) (satAll : Bool)
    (f : Desc → Int → Int → Int → Ex) : M Nat := do
  let t ← typedSetup r o vd va vb false readD (fun d => fmtInt d.fa && fmtInt d.fb && fmtInt d.fd && cond d)
  let p ← typedPut r o t
  let p := { p with sat := p.sat || satAll }
  elementwise r o mk (vb.isNone && o.sb.poison) true p (t.reads readD) (fun row e =>
    let x := intArgs o t row e
    (f t.d x.1 x.2.1 x.2.2, 0))

/-- No condition on the formats. -/
def anyFmt (_ : Desc) : Bool := true

/-- Width of FMTD. -/
def Desc.wd (d : Desc) : Nat := fmtWidth d.fd

/-- All three formats of one width. -/
def sameWidth (d : Desc) : Bool := fmtWidth d.fa == d.wd && fmtWidth d.fb == d.wd

/-- vadd.i. -/
def rowAddI (r : Nat) (o : Op) (vd va : Nat) (vb : Option Nat) (mk : Nat) : M Nat :=
  intOp r o vd va vb mk false anyFmt false (fun _ x y _ => .int (x + y))
/-- vsub.i. -/
def rowSubI (r : Nat) (o : Op) (vd va : Nat) (vb : Option Nat) (mk : Nat) : M Nat :=
  intOp r o vd va vb mk false anyFmt false (fun _ x y _ => .int (x - y))
/-- vmul.i. -/
def rowMulI (r : Nat) (o : Op) (vd va : Nat) (vb : Option Nat) (mk : Nat) : M Nat :=
  intOp r o vd va vb mk false anyFmt false (fun _ x y _ => .int (x * y))
/-- vmulh.i: the low w bits of ⌊x × y ÷ 2^w⌋. -/
def rowMulhI (r : Nat) (o : Op) (vd va : Nat) (vb : Option Nat) (mk : Nat) : M Nat :=
  intOp r o vd va vb mk false sameWidth false (fun d x y _ => .raw (wrapTo d.wd (x * y / (2 ^ d.wd : Nat))))
/-- vmin.i. -/
def rowMinI (r : Nat) (o : Op) (vd va : Nat) (vb : Option Nat) (mk : Nat) : M Nat :=
  intOp r o vd va vb mk false anyFmt false (fun _ x y _ => .int (min x y))
/-- vmax.i. -/
def rowMaxI (r : Nat) (o : Op) (vd va : Nat) (vb : Option Nat) (mk : Nat) : M Nat :=
  intOp r o vd va vb mk false anyFmt false (fun _ x y _ => .int (max x y))
/-- vmacc.i. -/
def rowMaccI (r : Nat) (o : Op) (vd va : Nat) (vb : Option Nat) (mk : Nat) : M Nat :=
  intOp r o vd va vb mk true anyFmt false (fun _ x y z => .int (z + x * y))
/-- vdiv.i: toward zero; all ones for y = 0. -/
def rowDivI (r : Nat) (o : Op) (vd va : Nat) (vb : Option Nat) (mk : Nat) : M Nat :=
  intOp r o vd va vb mk false anyFmt false (fun d x y _ => if y = 0 then .raw (2 ^ d.wd - 1) else .int (x.tdiv y))

/-- Both formats signed or both unsigned, by their codes. -/
def sameSign (a b : Nat) : Bool := fmtSigned a == fmtSigned b

/-- The condition of vsmul and vsmacc. -/
def fixMulOk (d : Desc) : Bool := sameWidth d && fmtSigned d.fa && fmtSigned d.fb && fmtSigned d.fd

/-- The shift amount of fixed point: the low bits of y below n. -/
def shAmount (y : Int) (n : Nat) : Nat := (y % (n : Int)).toNat

/-- vsadd. -/
def rowSadd (r : Nat) (o : Op) (vd va : Nat) (vb : Option Nat) (mk : Nat) : M Nat :=
  intOp r o vd va vb mk false anyFmt true (fun _ x y _ => .int (x + y))
/-- vssub. -/
def rowSsub (r : Nat) (o : Op) (vd va : Nat) (vb : Option Nat) (mk : Nat) : M Nat :=
  intOp r o vd va vb mk false anyFmt true (fun _ x y _ => .int (x - y))
/-- vsmul. -/
def rowSmul (r : Nat) (o : Op) (vd va : Nat) (vb : Option Nat) (mk : Nat) : M Nat :=
  intOp r o vd va vb mk false fixMulOk true (fun d x y _ => .int (fixedRound (x * y) (d.wd - 1) o.vxrm.toNat))
/-- vsmacc. -/
def rowSmacc (r : Nat) (o : Op) (vd va : Nat) (vb : Option Nat) (mk : Nat) : M Nat :=
  intOp r o vd va vb mk true fixMulOk true (fun d x y z => .int (z + fixedRound (x * y) (d.wd - 1) o.vxrm.toNat))
/-- vssra. -/
def rowSsra (r : Nat) (o : Op) (vd va : Nat) (vb : Option Nat) (mk : Nat) : M Nat :=
  intOp r o vd va vb mk false (fun d => fmtSigned d.fa && fmtSigned d.fd && fmtWidth d.fa == d.wd) true
    (fun d x y _ => .int (fixedRound x (shAmount y d.wd) o.vxrm.toNat))
/-- vssrl. -/
def rowSsrl (r : Nat) (o : Op) (vd va : Nat) (vb : Option Nat) (mk : Nat) : M Nat :=
  intOp r o vd va vb mk false (fun d => !fmtSigned d.fa && !fmtSigned d.fd && fmtWidth d.fa == d.wd) true
    (fun d x y _ => .int (fixedRound x (shAmount y d.wd) o.vxrm.toNat))
/-- vnclip. -/
def rowNclip (r : Nat) (o : Op) (vd va : Nat) (vb : Option Nat) (mk : Nat) : M Nat :=
  intOp r o vd va vb mk false (fun d => fmtWidth d.fa == 2 * d.wd && sameSign d.fa d.fd) true
    (fun d x y _ => .int (fixedRound x (shAmount y (2 * d.wd)) o.vxrm.toNat))
/-- vavg. -/
def rowAvg (r : Nat) (o : Op) (vd va : Nat) (vb : Option Nat) (mk : Nat) : M Nat :=
  intOp r o vd va vb mk false (fun d => d.fa == d.fb && d.fa == d.fd) true
    (fun _ x y _ => .int (fixedRound (x + y) 1 o.vxrm.toNat))

/-! Floating point (R295, R296). -/

/-- Element e of operand a, of operand b and of vd, as exact values. -/
def fltArgs (o : Op) (t : Typed) (row : Row) (e : Nat) : Val × Val × Val :=
  (row.val t.ga t.d.fa e,
   match t.gb with
   | some g => row.val g t.d.fb e
   | none => decodeFmt t.d.fb (o.sb.v.toNat % 2 ^ fmtWidth t.d.fb),
   row.val t.gd t.d.fd e)

/-- A typed floating word: the exact result of x, y and d, and the flags of forming it. -/
def fltOp (r : Nat) (o : Op) (vd va : Nat) (vb : Option Nat) (mk : Nat) (single readD : Bool)
    (f : Bool → Val → Val → Val → Val × Nat) : M Nat := do
  let t ← typedSetup r o vd va vb single readD (fun d => fmtFlt d.fa && (single || fmtFlt d.fb) && fmtFlt d.fd)
  let p ← typedPut r o t
  elementwise r o mk (!single && vb.isNone && o.sb.poison) true p (t.reads readD) (fun row e =>
    let x := fltArgs o t row e
    let y := f (p.mode == 2) x.1 x.2.1 x.2.2
    (.val y.1, y.2))

/-- Less, with −0 below +0. -/
def lessZ (x y : Val) : Bool := x.lt y || (x.eq y && x.isZero && x.sign && !(y.sign))

/-- The smaller or the larger of two values under R296. -/
def minmax (wantMax : Bool) (x y : Val) : Val × Nat :=
  let fl := sigFlag [x, y]
  match x.isNan, y.isNan with
  | true, true => (.nan false, fl)
  | true, false => (y, fl)
  | false, true => (x, fl)
  | false, false => (if wantMax then (if lessZ x y then y else x) else (if lessZ y x then y else x), fl)

/-- vadd.f. -/
def rowAddF (r : Nat) (o : Op) (vd va : Nat) (vb : Option Nat) (mk : Nat) : M Nat :=
  fltOp r o vd va vb mk false false (fun rdn x y _ => x.add y rdn)
/-- vsub.f. -/
def rowSubF (r : Nat) (o : Op) (vd va : Nat) (vb : Option Nat) (mk : Nat) : M Nat :=
  fltOp r o vd va vb mk false false (fun rdn x y _ => x.add y.neg rdn)
/-- vmul.f. -/
def rowMulF (r : Nat) (o : Op) (vd va : Nat) (vb : Option Nat) (mk : Nat) : M Nat :=
  fltOp r o vd va vb mk false false (fun _ x y _ => x.mul y)
/-- vdiv.f. -/
def rowDivF (r : Nat) (o : Op) (vd va : Nat) (vb : Option Nat) (mk : Nat) : M Nat :=
  fltOp r o vd va vb mk false false (fun _ x y _ => x.div y)
/-- vmin.f. -/
def rowMinF (r : Nat) (o : Op) (vd va : Nat) (vb : Option Nat) (mk : Nat) : M Nat :=
  fltOp r o vd va vb mk false false (fun _ x y _ => minmax false x y)
/-- vmax.f. -/
def rowMaxF (r : Nat) (o : Op) (vd va : Nat) (vb : Option Nat) (mk : Nat) : M Nat :=
  fltOp r o vd va vb mk false false (fun _ x y _ => minmax true x y)
/-- vfma.f. -/
def rowFmaF (r : Nat) (o : Op) (vd va : Nat) (vb : Option Nat) (mk : Nat) : M Nat :=
  fltOp r o vd va vb mk false true (fun rdn x y z => x.fma y z rdn)
/-- vsqrt.f. -/
def rowSqrtF (r : Nat) (o : Op) (vd va mk : Nat) : M Nat :=
  fltOp r o vd va none mk true false (fun _ x _ _ => x.sqrt)

/-! Logic and shifts at SEW (R297). -/

/-- The destination of a SEW word. -/
def plainPut (r : Nat) (o : Op) (vd : Nat) : M Put := do
  let row ← theRow r
  pure { g := o.plain vd, code := 0, mode := 0, sat := false, pc := o.pc, strip := row.strip.toNat }

/-- A SEW word of two operands on raw bits. -/
def logicOp (r : Nat) (o : Op) (vd va : Nat) (vb : Option Nat) (mk : Nat) (single : Bool) (f : Nat → Nat → Nat → Nat) : M Nat := do
  let ga := o.plain va
  let gb := if single then none else vb.map o.plain
  checkGroups r o (some (o.plain vd)) ([ga] ++ gb.toList) true
  let p ← plainPut r o vd
  let w := o.sew
  elementwise r o mk (!single && vb.isNone && o.sb.poison) true p
    (fun e => ga.reads e ++ (match gb with
      | some g => g.reads e
      | none => []))
    (fun row e =>
      let x := row.elem va w e
      let y := match gb with
        | some g => row.elem g.base w e
        | none => o.sb.v.toNat % 2 ^ w
      (.raw (f w x y), 0))

/-- Shift right with copies of the top bit. -/
def sraBits (w x n : Nat) : Nat := wrapTo w (sext w x / (2 ^ n : Nat))

/-- vand. -/
def rowAnd (r : Nat) (o : Op) (vd va : Nat) (vb : Option Nat) (mk : Nat) : M Nat :=
  logicOp r o vd va vb mk false (fun _ x y => x &&& y)
/-- vor. -/
def rowOr (r : Nat) (o : Op) (vd va : Nat) (vb : Option Nat) (mk : Nat) : M Nat :=
  logicOp r o vd va vb mk false (fun _ x y => x ||| y)
/-- vxor. -/
def rowXor (r : Nat) (o : Op) (vd va : Nat) (vb : Option Nat) (mk : Nat) : M Nat :=
  logicOp r o vd va vb mk false (fun _ x y => x ^^^ y)
/-- vnot. -/
def rowNot (r : Nat) (o : Op) (vd va mk : Nat) : M Nat :=
  logicOp r o vd va none mk true (fun w x _ => 2 ^ w - 1 - x)
/-- vsll. -/
def rowSll (r : Nat) (o : Op) (vd va : Nat) (vb : Option Nat) (mk : Nat) : M Nat :=
  logicOp r o vd va vb mk false (fun w x y => (x <<< (y % w)) % 2 ^ w)
/-- vsrl. -/
def rowSrl (r : Nat) (o : Op) (vd va : Nat) (vb : Option Nat) (mk : Nat) : M Nat :=
  logicOp r o vd va vb mk false (fun w x y => x >>> (y % w))
/-- vsra. -/
def rowSra (r : Nat) (o : Op) (vd va : Nat) (vb : Option Nat) (mk : Nat) : M Nat :=
  logicOp r o vd va vb mk false (fun w x y => sraBits w x (y % w))

/-! Compares (R298). -/

/-- A row with bits of mask register n replaced. -/
def Row.setMaskBits (row : Row) (n : Nat) (l : List (Nat × Bool)) : Row :=
  if n = 0 then row else
  let x := l.foldl (fun (x : Nat) b => setBits x b.1 1 (b2n b.2)) ((row.m[n]?).getD 0).toNat
  { row with m := row.m.setIfInBounds n (BitVec.ofNat 1024 x) }

/-- Compare number c of R298 on two values: the truth and the flags. -/
def compareVal (c : Nat) (x y : Val) : Bool × Nat :=
  let un := x.isNan || y.isNan
  let fl := if un && decide (2 ≤ c) && decide (c ≤ 5) then 16 else sigFlag [x, y]
  (match c with
   | 0 => !un && x.eq y
   | 1 => un || !x.eq y
   | 2 => !un && x.lt y
   | 3 => !un && (x.lt y || x.eq y)
   | 4 => !un && y.lt x
   | 5 => !un && (y.lt x || x.eq y)
   | _ => un, fl)

/-- Results of a compare over elements in order, up to the first consumed poison: bits, flags, the element that stopped it,
and whether poison was met without being consumed. -/
def cmpLoop (row : Row) (consume : Bool) (reads : Nat → List Rd) (f : Nat → Bool × Nat) :
    List Nat → List (Nat × Bool) × Nat × Option Nat × Bool
  | [] => ([], 0, none, false)
  | e :: es =>
    let p := (reads e).any row.rdPoison
    if p && consume then ([], 0, some e, true)
    else
      let x := f e
      let t := cmpLoop row consume reads f es
      ((e, x.1) :: t.1, x.2 ||| t.2.1, t.2.2.1, p || t.2.2.2)

/-- A compare into mask register vd. In a combiner, poison that a compare meets is reported as flag 32 (R112). -/
def rowCompare (c r : Nat) (o : Op) (vd va : Nat) (vb : Option Nat) (mk : Nat) : M Nat := do
  let d := Desc.of o.sf.v
  let ga := o.typed d va d.fa
  let gb := vb.map (fun b => o.typed d b d.fb)
  let ok := d.fd == 0 && ((fmtInt d.fa && fmtInt d.fb && c != 6) || (fmtFlt d.fa && fmtFlt d.fb))
  checkTyped r o none ([(d.fa, ga)] ++ (gb.map (fun g => (d.fb, g))).toList) true (descBad o.sf.v false || !ok)
  let t : Typed := { d := d, ga := ga, gb := gb, gd := ga }
  let row ← theRow r
  let es := row.actives mk row.startAt
  noteReads r o (es.flatMap (t.reads false))
  if vb.isNone && o.sb.poison && !es.isEmpty && !o.comb then rowPoison r o 0 false
  let res := cmpLoop row (!o.comb) (t.reads false) (fun e =>
    if fmtInt d.fa then
      let x := intArgs o t row e
      compareVal c (Val.ofInt x.1) (Val.ofInt x.2.1)
    else
      let x := fltArgs o t row e
      compareVal c x.1 x.2.1) es
  modR r (fun row => row.setMaskBits vd res.1)
  raiseFlags res.2.1 false
  let fl := res.2.1 ||| row.priorFlags
  match res.2.2.1 with
  | some e => do
    modR r (fun row => { row with prog := some { k := e, mask := 0, acc := [fl] } })
    rowPoison r o e
  | none => pure (if o.comb && res.2.2.2 then fl ||| 32 else fl)

/-! Mask operations (R299). -/

/-- A mask word: bits from VSTART below VL of md. -/
def maskOp (r vd va vb : Nat) (f : Bool → Bool → Bool) : M Nat := do
  modR r (fun row =>
    let x := (row.m[va]?).getD 0
    let y := (row.m[vb]?).getD 0
    row.setMaskBits vd ((row.actives 0 0).map (fun e => (e, f (BB x e) (BB y e)))))
  pure 0

/-- mand. -/
def rowMand (r vd va vb : Nat) : M Nat := maskOp r vd va vb (fun x y => x && y)
/-- mor. -/
def rowMor (r vd va vb : Nat) : M Nat := maskOp r vd va vb (fun x y => x || y)
/-- mxor. -/
def rowMxor (r vd va vb : Nat) : M Nat := maskOp r vd va vb (fun x y => x != y)
/-- mandn. -/
def rowMandn (r vd va vb : Nat) : M Nat := maskOp r vd va vb (fun x y => x && !y)
/-- mnot. -/
def rowMnot (r vd va : Nat) : M Nat := maskOp r vd va 0 (fun x _ => !x)

/-- Set bits of a mask register below VL, VSTART ignored. -/
def Row.maskBelow (row : Row) (n : Nat) : List Nat :=
  (List.range row.vl.toNat).filter (fun e => BB ((row.m[n]?).getD 0) e)

/-- Write a scalar result of a queue entry. -/
def putScalar (n : Nat) (v : Word) (p : Bool) : M Unit := modH (fun h => h.wr n v p)

/-- mpopc, in the home row. -/
def rowMpopc (r d a : Nat) : M Nat := do
  let row ← theRow r
  putScalar d (BitVec.ofNat 64 (row.maskBelow a).length) false
  pure 0

/-- mfirst, in the home row. -/
def rowMfirst (r d a : Nat) : M Nat := do
  let row ← theRow r
  putScalar d (match row.maskBelow a with
    | e :: _ => BitVec.ofNat 64 e
    | [] => BitVec.allOnes 64) false
  pure 0

/-! Moves and merges (R300). -/

/-- vmerge: every element from VSTART below VL, from va or vb by mk. -/
def rowMerge (r : Nat) (o : Op) (vd va vb mk : Nat) : M Nat := do
  let row ← theRow r
  checkGroups r o (some (o.plain vd)) [o.plain va, o.plain vb] true
  let p ← plainPut r o vd
  let src (e : Nat) : Nat := if BB ((row.m[mk]?).getD 0) e then va else vb
  elementwise r o 0 false false p (fun e => (o.plain (src e)).reads e) (fun row e => (.raw (row.elem (src e) o.sew e), 0))

/-- vmv. -/
def rowMv (r : Nat) (o : Op) (vd va mk : Nat) : M Nat := do
  checkGroups r o (some (o.plain vd)) [o.plain va] true
  let p ← plainPut r o vd
  elementwise r o mk false false p (o.plain va).reads (fun row e => (.raw (row.elem va o.sew e), 0))

/-- vbcast: the scalar's poison goes with it. -/
def rowBcast (r : Nat) (o : Op) (vd mk : Nat) : M Nat := do
  checkGroups r o (some (o.plain vd)) [] true
  let p ← plainPut r o vd
  elementwise r o mk false false p (fun _ => []) (fun _ _ => (.raw (o.sb.v.toNat % 2 ^ o.sew), 0)) (fun _ => o.sb.poison)

/-- vext, in the home row: VL, VSTART and masks are ignored. -/
def rowExt (r : Nat) (o : Op) (d va : Nat) : M Nat := do
  checkGroups r o none [o.plain va] true
  let row ← theRow r
  let i := o.sb.v.toNat
  noteReads r o (if i < o.groupElems then (o.plain va).reads i else [])
  if o.sb.poison then rowPoison r o 0 false
  if i < o.groupElems then
    putScalar d (BitVec.ofNat 64 (row.elem va o.sew i)) (row.elemPoison va o.sew i)
  else putScalar d 0 false
  pure 0

/-! Conversions, classes and estimates (R301 to R304). -/

/-- Weight i of a CB2 index under a codebook table, without its block scale (R180, R181). -/
def cb2Weight (cbt : List Nat) (x i : Nat) : Val :=
  let entry := cbt.getD (bits x 8 8) 0
  let signs := bits x 1 7
  let sgn := if i = 7 then (popcount 7 signs + bits entry 32 1) % 2 == 1 else bit signs i
  .fin sgn (2 * bits entry (4 * i) 4 + bits x 0 1) (-2)

/-- Formats vcvt accepts. -/
def cvtOk (d : Desc) : Bool := (fmtInt d.fa || fmtFlt d.fa || d.fa == 0x18) && (fmtInt d.fd || fmtFlt d.fd)

/-- vcvt. -/
def rowCvt (r : Nat) (o : Op) (vd va mk : Nat) : M Nat := do
  let t ← typedSetup r o vd va none true false cvtOk
  let p ← typedPut r o t
  let h ← theHart
  let row ← theRow r
  if t.d.fa = 0x18 then
    let cbt := h.cbt.getD []
    if h.cbt.isNone && !(row.actives mk row.startAt).isEmpty then rowFormat r o
    elementwise r o mk false true p
      (fun e => { base := t.ga.base, w := 16, e := e / 8 } ::
        (if t.d.bse then [({ base := t.ga.base + t.ga.regs, w := 8, e := e / 32 } : Rd)] else []))
      (fun row e =>
        let v := cb2Weight cbt (row.elem t.ga.base 16 (e / 8)) (e % 8)
        let sc := row.elem (t.ga.base + t.ga.regs) 8 (e / 32)
        (.val (if t.d.bse then (if sc = 255 then .nan false else v.scale ((sc : Int) - 127)) else v), 0))
  else elementwise r o mk false true p (t.reads false) (fun row e =>
    if fmtInt t.d.fa then (.int (intOf t.d.fa (row.elem t.ga.base t.ga.w e)), 0)
    else
      let v := row.val t.ga t.d.fa e
      (.val v, sigFlag [v]))

/-- The class of an encoding (R302). -/
def classOf (code x : Nat) (nanScale : Bool) : Nat :=
  match fmtOf code with
  | some (.flt f) =>
    let neg := bit x (f.e + f.m)
    if nanScale then 9 else
    match f.decode x with
    | .nan s => if s then 8 else 9
    | .inf n => if n then 0 else 7
    | .fin _ m _ =>
      if m = 0 then (if neg then 3 else 4)
      else if bits x f.m f.e = 0 then (if neg then 2 else 5)
      else (if neg then 1 else 6)
  | _ => 9

/-- vclass. -/
def rowClass (r : Nat) (o : Op) (vd va mk : Nat) : M Nat := do
  let t ← typedSetup r o vd va none true false (fun d => fmtFlt d.fa && fmtInt d.fd && decide (16 ≤ d.wd))
  let p ← typedPut r o t
  elementwise r o mk false true p (t.reads false) (fun row e =>
    let bad := t.ga.scaled && row.elem (t.ga.base + t.ga.regs) 8 (e / 32) == 255
    (.raw (2 ^ classOf t.d.fa (row.elem t.ga.base t.ga.w e) bad), 0))

/-- The reciprocal estimate (R303). -/
def recipEst (x : Val) : Val × Nat :=
  match x with
  | .nan s => (.nan false, if s then 16 else 0)
  | .inf n => (.fin n 0 0, 0)
  | .fin n m e =>
    if m = 0 then (.inf n, 8) else
    let l := bitLen m
    let E : Int := e + l - 1
    let i := ((m <<< 8) >>> l) % 128
    (.fin n (2 ^ 17 / (257 + 2 * i)) (-E - 9), 1)

/-- vrecpe. -/
def rowRecpe (r : Nat) (o : Op) (vd va mk : Nat) : M Nat := do
  let t ← typedSetup r o vd va none true false (fun d => fmtFlt d.fa && fmtFlt d.fd && !d.bse)
  let p ← typedPut r o t
  elementwise r o mk false true p (t.reads false) (fun row e =>
    let y := recipEst (row.val t.ga t.d.fa e)
    (.val y.1, y.2))

/-- The integer square root of a number. -/
def natSqrt (x : Nat) : Nat := isqrtGo x (bitLen x / 2 + 1) 0

/-- E(j) of R304: 2^(31 + j/64) to the nearest integer, by six square roots. -/
def exp2Table (j : Nat) : Nat := (natSqrt (natSqrt (natSqrt (natSqrt (natSqrt (natSqrt (2 ^ (64 * 32 + j))))))) + 1) / 2

/-- The power-of-two estimate (R304). An exponent beyond ±4,096 overflows or underflows every format alike. -/
def exp2Est (x : Val) : Val × Nat :=
  match x with
  | .nan s => (.nan false, if s then 16 else 0)
  | .inf n => (if n then .fin false 0 0 else .inf false, 0)
  | .fin n m e =>
    let u := roundUnits 0 n 0 m e (-6)
    let t : Int := if n then -(u.1 : Int) else u.1
    let k := max (-4096) (min 4096 (t / 64))
    let j := (t % 64).toNat
    (.fin false (exp2Table j) (k - 31), if u.2 || j != 0 then 1 else 0)

/-- vexp2e. -/
def rowExp2e (r : Nat) (o : Op) (vd va mk : Nat) : M Nat := do
  let t ← typedSetup r o vd va none true false (fun d => fmtFlt d.fa && fmtFlt d.fd && !d.bse)
  let p ← typedPut r o t
  elementwise r o mk false true p (t.reads false) (fun row e =>
    let y := exp2Est (row.val t.ga t.d.fa e)
    (.val y.1, y.2))

end Sys2Proof.Machine
end

