-- ==== Sys2Proof/Machine/VCross.lean ====
section
/-! DEFINITION. What a row does with the cross-element words: reductions, scans, indices, random numbers, compress, expand, slides,
permutes, and the exchange between rows (R190, R306 to R312). -/

namespace Sys2Proof.Machine

/-! Values kept in a progress record (R226). -/

/-- A value as five numbers. -/
def encVal : Val → List Nat
  | .nan s => [0, b2n s, 0, 0, 0]
  | .inf n => [1, b2n n, 0, 0, 0]
  | .fin n m e => [2, b2n n, m, b2n (decide (e < 0)), e.natAbs]

/-- The value of five numbers. -/
def decVal (l : List Nat) : Val :=
  let neg := l.getD 1 0 == 1
  match l.getD 0 0 with
  | 0 => .nan neg
  | 1 => .inf neg
  | _ => .fin neg (l.getD 2 0) (if l.getD 3 0 = 1 then -(l.getD 4 0 : Int) else l.getD 4 0)

/-- The integer of an exact integer value. -/
def Val.toInt : Val → Int
  | .fin n m e => unitsAt n m e 0
  | _ => 0

/-! Partial sums. -/

/-- A partial result rounded into the destination format, as a value, and flags; with block scales the scale is that of the
element alone (R306). -/
def Put.partialVal (p : Put) (e : Nat) (v : Val) : Val × Nat :=
  if p.g.scaled then
    let b := mxBlock p [(e, v)]
    match b.2.1 with
    | x :: _ => (if b.1 = 255 then .nan false else (decodeFmt p.code x.2).scale ((b.1 : Int) - 127), b.2.2)
    | [] => (v, b.2.2)
  else
    let y := roundFmt p.code p.mode p.sat (p.rnd e) v
    (decodeFmt p.code y.1, y.2)

/-- Bitwise operation on two exact integers: 4 and, 5 or, 6 xor. -/
def intBits (kind : Nat) (x y : Int) : Int :=
  let a := BitVec.ofInt 128 x
  let b := BitVec.ofInt 128 y
  (match kind with
   | 4 => a &&& b
   | 5 => a ||| b
   | _ => a ^^^ b).toInt

/-- One step of an ordered reduction: kind 0 and 1 sum, 2 min, 3 max, 4 and, 5 or, 6 xor. -/
def redStep (kind : Nat) (flt : Bool) (p : Put) (acc x : Val) (e : Nat) : Val × Nat :=
  match kind with
  | 2 => minmax false acc x
  | 3 => minmax true acc x
  | 4 => (Val.ofInt (intBits 4 acc.toInt x.toInt), 0)
  | 5 => (Val.ofInt (intBits 5 acc.toInt x.toInt), 0)
  | 6 => (Val.ofInt (intBits 6 acc.toInt x.toInt), 0)
  | _ =>
    let s := acc.add x (p.mode == 2)
    if flt then
      let y := p.partialVal e s.1
      (y.1, s.2 ||| y.2)
    else s

/-- Take the i-th element out of a list. -/
def takeAt (l : List Val) (i : Nat) : Val × List Val := (l.getD i (.fin false 0 0), l.eraseIdx i)

/-- The value of a full binary tree over leaves, each node rounded once; free values choose the tree (R190, log 14, DESIGN CHOICE, safe). -/
def treeSum (p : Put) (e : Nat) : (fuel : Nat) → List Val → M (Val × Nat)
  | 0, l => pure (l.headD (.fin false 0 0), 0)
  | k + 1, l =>
    if l.length ≤ 1 then pure (l.headD (.fin false 0 0), 0) else do
      let w ← freeWord
      let a := takeAt l (w.toNat % l.length)
      let b := takeAt a.2 (w.toNat / 2 ^ 32 % a.2.length)
      let s := a.1.add b.1 (p.mode == 2)
      let y := p.partialVal e s.1
      let t ← treeSum p e k (y.1 :: b.2)
      pure (t.1, t.2 ||| s.2 ||| y.2)

/-! Carries of a VLOOP (R307). -/

/-- The loop entry a row is in. -/
def loopEntry (r : Nat) : M Entry := do
  let h ← theHart
  let row ← theRow r
  match h.queue[row.qdone - h.qbase]? with
  | some e => pure e
  | none => waitM

/-- The carry at a place of the body. -/
def theCarry (r pos : Nat) : M Carry := do
  let e ← loopEntry r
  match e.carry.find? (fun c => c.pos == pos) with
  | some c => pure c
  | none => pure { pos := pos, next := 0, acc := [], poison := false }

/-- Put a carry back. -/
def setCarry (r : Nat) (c : Carry) : M Unit := do
  let row ← theRow r
  modH (fun h => { h with queue := h.queue.modify (row.qdone - h.qbase) (fun (e : Entry) =>
    { e with carry := c :: e.carry.filter (fun x => x.pos != c.pos) }) })

/-- The STRIP after the strip a row runs. -/
def Row.nextStrip (row : Row) : Nat :=
  match row.run with
  | some t => t.first + t.vl
  | none => row.strip.toNat

/-- The value of kept bits and scale of element 0. -/
def bitsVal (g : Grp) (code : Nat) (l : List Nat) : Val :=
  let v := decodeFmt code (l.getD 0 0)
  if g.scaled then (if l.getD 1 0 = 255 then .nan false else v.scale ((l.getD 1 0 : Int) - 127)) else v

/-- Bits and scale of element 0 of a group. -/
def Row.elem0 (row : Row) (g : Grp) : List Nat := [row.elem g.base g.w 0, if g.scaled then row.elem (g.base + g.regs) 8 0 else 0]

/-- Poison of element 0 and its scale. -/
def Row.poison0 (row : Row) (g : Grp) : Bool := (g.reads 0).any row.rdPoison

/-- Write kept bits and scale to element 0. -/
def Row.putElem0 (row : Row) (g : Grp) (l : List Nat) (p : Bool) : Row :=
  let row := row.putElem g.base g.w 0 (l.getD 0 0) p
  if g.scaled then row.putElem (g.base + g.regs) 8 0 (l.getD 1 0) p else row

/-! Reductions (R306, R307). -/

/-- The set-up of a reduction or scan: descriptor, groups and checks; a reduction's formats make a pair, a scan's need not (R306, R308). Answers
whether its additions are floating ones. -/
def crossSetup (r : Nat) (o : Op) (vd va : Nat) (vb : Option Nat) (intOnly det : Bool) : M (Desc × Grp × Grp × Bool) := do
  let d := Desc.of o.sf.v
  let ga := o.typed d va d.fa
  let gd := o.typed d vd d.fd
  let flt := fmtFlt d.fa && (vb.isNone || fmtFlt d.fd)
  let known (c : Nat) : Bool := fmtFlt c || fmtInt c
  let pair := if vb.isNone then known d.fa && known d.fd else (flt && !intOnly) || (fmtInt d.fa && fmtInt d.fd)
  checkTyped r o (some (d.fd, gd)) ([(d.fa, ga)] ++ (vb.map (fun b => (d.fd, o.typed d b d.fd))).toList) false
    (descBad o.sf.v true || !pair)
  let h ← theHart
  if det && h.det then rowDet r o
  pure (d, ga, gd, flt)

/-- Fold a reduction over elements in order, up to the first consumed poison: value, flags, stop, poison met. -/
def redLoop (row : Row) (consume : Bool) (ga : Grp) (code : Nat) (f : Val → Val → Nat → Val × Nat) :
    List Nat → Val → Val × Nat × Option Nat × Bool
  | [], acc => (acc, 0, none, false)
  | e :: es, acc =>
    let p := (ga.reads e).any row.rdPoison
    if p && consume then (acc, 0, some e, true)
    else
      let y := f acc (row.val ga code e) e
      let t := redLoop row consume ga code f es y.1
      (t.1, y.2 ||| t.2.1, t.2.2.1, p || t.2.2.2)

/-- What a carry of a reduction holds: whether an active element has been met, bits and scale of element 0, and the exact value: that of an integer
format, and a minimum or maximum, is put into FMTD once, at the end (R306, R307). -/
def redCarry (met : Bool) (raw : List Nat) (v : Val) : List Nat := b2n met :: raw ++ encVal v

/-- The partial value of a carry. -/
def Carry.value (c : Carry) (g : Grp) (code : Nat) (exact : Bool) : Val :=
  if exact then decVal (c.acc.drop 3) else bitsVal g code (c.acc.drop 1)

/-- Is another row inside the word at a place of a loop's body: it has taken up the carry and has still to leave its sum (R307)? -/
def Hart.carryTaken (h : Hart) (r pos : Nat) : Bool :=
  h.rows.zipIdx.any (fun x => x.2 != r && x.1.prog.isSome && x.1.run.any (fun t => t.pos == pos))

/-- Bits and scale of element 0 that a carry holds. -/
def Carry.raw (c : Carry) : List Nat := (c.acc.drop 1).take 2

/-- The value a reduction in a row starts from, its poison, bits and scale as they stand, and whether an active element has been met: from the
progress record, the carry, or element 0 of vb. -/
def redInit (r : Nat) (row : Row) (gb : Grp) (code : Nat) (exact : Bool) (unordered : Bool) (lp : Option Nat) : M (Val × Bool × List Nat × Bool) :=
  match row.prog, lp with
  | some g, _ => pure (decVal (g.acc.drop 1), false, [], true)
  | none, none => pure (row.val gb code 0, row.poison0 gb, row.elem0 gb, false)
  | none, some pos => do
    let c ← theCarry r pos
    let h ← theHart
    if (if unordered then h.carryTaken r pos else c.next != row.strip.toNat) then waitM
    pure (c.value gb code exact, c.poison, c.raw, c.acc.headD 0 == 1)

/-- The traps and reshuffles of reading the element that a carry starts from belong to the first strip (R164, R166, R307). -/
def carryReads (r : Nat) (o : Op) (lp : Option Nat) : M Unit := do
  match lp with
  | none => pure ()
  | some pos => do
    let c ← theCarry r pos
    deadTrap r o c.dead
    shuffleCount r c.shuffles

/-- A reduction in a row; `lp` is its place in the body of a VLOOP. -/
def rowReduce (kind r : Nat) (o : Op) (vd va vb mk : Nat) (lp : Option Nat) : M Nat := do
  let d0 := Desc.of o.sf.v
  let isF := fmtFlt d0.fa
  let (d, ga, gd, flt) ← crossSetup r o vd va (some vb) (decide (4 ≤ kind)) (kind == 1 && isF)
  let gb := o.typed d vb d.fd
  let row ← theRow r
  let p : Put := { g := gd, code := d.fd, mode := o.mode d, sat := d.sat, pc := o.pc, strip := row.strip.toNat }
  let es := row.actives mk row.startAt
  let exact := !flt || decide (2 ≤ kind)
  let init ← redInit r row gb d.fd exact (kind == 1) lp
  carryReads r o lp
  noteReads r o (es.flatMap ga.reads ++ (if row.prog.isNone && lp.isNone then gb.reads 0 else []))
  if init.2.1 && !o.comb then rowPoison r o 0
  let last := es.getLastD 0
  let res ← if kind = 1 && flt then do
      let t := redLoop row (!o.comb) ga d.fa (fun a _ _ => (a, 0)) es init.1
      let use := match t.2.2.1 with
        | some e => es.filter (fun x => decide (x < e))
        | none => es
      let y ← treeSum p last (use.length + 1) (init.1 :: use.map (fun e => row.val ga d.fa e))
      pure (y.1, y.2, t.2.2.1, t.2.2.2)
    else pure (redLoop row (!o.comb) ga d.fa (redStep kind flt p) es init.1)
  let fl := res.2.1
  match res.2.2.1 with
  | some e => do
    raiseFlags fl false
    modR r (fun row => { row with prog := some { k := e, mask := 0, acc := (fl ||| row.priorFlags) :: encVal res.1 } })
    rowPoison r o e
  | none => do
    let poison := o.comb && (init.2.1 || res.2.2.2)
    let met := !es.isEmpty || init.2.2.2
    let out :=
      if !met && !gd.scaled then (row.putElem0 gd init.2.2.1 poison, 0, false)
      else p.commit row [(0, if flt then .val res.1 else .int res.1.toInt, poison)]
    -- an exact carry is put into FMTD once, at the end of the loop: a strip's own element is put there without a flag
    let final := lp.isNone || !exact
    let fl := if final then fl ||| out.2.1 else fl
    modR r (fun _ => out.1)
    raiseFlags fl (final && out.2.2)
    match lp with
    | some pos =>
      setCarry r { pos := pos, next := row.nextStrip, acc := redCarry met (if met || gd.scaled then out.1.elem0 gd else init.2.2.1) res.1, poison := false }
    | none => pure ()
    pure (fl ||| row.priorFlags)

/-- The carry that a loop starts with for a reduction of its body: element 0 of vb in the home row (R307). -/
def carryStart (home : Row) (o : Op) (vb : Nat) (pos : Nat) : Carry :=
  let d := Desc.of o.sf.v
  let gb := o.typed d vb d.fd
  { pos := pos, next := 0, acc := redCarry false (home.elem0 gb) (home.val gb d.fd 0), poison := home.poison0 gb
    dead := home.deadRead (gb.reads 0), shuffles := home.shuffles (gb.reads 0) }

/-- What the end of a loop writes in a row for a reduction of its body, with flags and saturation; `order` where it is a minimum or maximum. SR takes
its bits for element index 0 (log 33, DEDUCED, unsafe). -/
def Row.carryEnd (row : Row) (o : Op) (vd : Nat) (order : Bool) (c : Carry) : Row × Nat × Bool :=
  let d := Desc.of o.sf.v
  let gd := o.typed d vd d.fd
  let v := decVal (c.acc.drop 3)
  if (fmtFlt d.fd && !order) || c.acc.headD 0 == 0 then (row.putElem0 gd c.raw c.poison, 0, false)
  else
    let p : Put := { g := gd, code := d.fd, mode := o.mode d, sat := d.sat, pc := o.pc, strip := 0 }
    p.commit row [(0, if fmtFlt d.fd then .val v else .int v.toInt, c.poison)]

/-! Scans (R308). -/

/-- Sums of an ordered scan: results by element, value, flags, stop, poison met. The first addition, which is to the initial zero, is exact; one to
a carry is not the first of the scan, and the sums of a loop do not depend on where its strips are cut (R213, R313; log 33, DEDUCED, unsafe). -/
def scanLoop (row : Row) (consume flt : Bool) (p : Put) (ga : Grp) (code : Nat) :
    List Nat → Option Val → List (Nat × Val × Bool) × Option Val × Nat × Option Nat
  | [], acc => ([], acc, 0, none)
  | e :: es, acc =>
    let poi := (ga.reads e).any row.rdPoison
    if poi && consume then ([], acc, 0, some e)
    else
      let x := row.val ga code e
      let y : Val × Nat := match acc with
        | none => (Val.fin false 0 0).add x (p.mode == 2)
        | some a =>
          let s := a.add x (p.mode == 2)
          if flt then
            let q := p.partialVal e s.1
            (q.1, s.2 ||| q.2)
          else s
      let t := scanLoop row consume flt p ga code es (some y.1)
      ((e, y.1, poi) :: t.1.map (fun z => (z.1, z.2.1, z.2.2 || (poi && !consume))), t.2.1, y.2 ||| t.2.2.1, t.2.2.2)

/-- Sums of a fast scan of floating values: each element its own tree. -/
def scanFast (row : Row) (p : Put) (ga : Grp) (code : Nat) :
    List Nat → List Val → M (List (Nat × Val × Bool) × Nat)
  | [], _ => pure ([], 0)
  | e :: es, leaves => do
    let leaves := leaves ++ [row.val ga code e]
    let y ← treeSum p e leaves.length leaves
    let t ← scanFast row p ga code es leaves
    -- a tree of one leaf has no node to raise what a signalling NaN raises (R178)
    pure ((e, y.1, false) :: t.1, y.2 ||| t.2 ||| (if leaves.length = 1 then sigFlag leaves else 0))

/-- The results a stopped scan keeps. -/
def scanKeep (l : List (Nat × Val × Bool)) : List Nat := l.flatMap (fun x => x.1 :: encVal x.2.1)

/-- The results read back. -/
def scanKept : (fuel : Nat) → List Nat → List (Nat × Val × Bool)
  | 0, _ => []
  | k + 1, l =>
    match l with
    | [] => []
    | e :: rest => (e, decVal (rest.take 5), false) :: scanKept k (rest.drop 5)

/-- A scan in a row. The progress record holds flags, whether a sum exists, the sum, and the results. -/
def rowScan (fast : Bool) (r : Nat) (o : Op) (vd va mk : Nat) (lp : Option Nat) : M Nat := do
  let (d, ga, gd, flt) ← crossSetup r o vd va none false fast
  let row ← theRow r
  let p : Put := { g := gd, code := d.fd, mode := o.mode d, sat := d.sat, pc := o.pc, strip := row.strip.toNat }
  let es := row.actives mk row.startAt
  let init ← match row.prog, lp with
    | some g, _ => pure (if g.acc.getD 1 0 = 1 then some (decVal (g.acc.drop 2)) else none, scanKept g.acc.length (g.acc.drop 7))
    | none, none => pure (none, [])
    | none, some pos => do
      let c ← theCarry r pos
      if c.next != row.strip.toNat then waitM
      pure (if c.acc.isEmpty then none else some (decVal c.acc), [])
  noteReads r o (es.flatMap ga.reads)
  let stop := scanLoop row (!o.comb) flt p ga d.fa es init.1
  let res ← if fast && flt then do
      let y ← scanFast row p ga d.fa (stop.1.map (fun x => x.1)) init.1.toList
      pure (y.1, (y.1.getLast?.map (fun x => x.2.1)).or init.1, y.2, stop.2.2.2)
    else pure stop
  let outs := init.2 ++ res.1
  match res.2.2.2 with
  | some e => do
    raiseFlags res.2.2.1 false
    let acc := match res.2.1 with
      | some v => 1 :: encVal v
      | none => [0, 0, 0, 0, 0, 0]
    modR r (fun row => { row with prog := some { k := e, mask := 0, acc := (res.2.2.1 ||| row.priorFlags) :: acc ++ scanKeep outs } })
    rowPoison r o e
  | none => do
    let out := p.commit row (outs.map (fun x => (x.1, if flt then .val x.2.1 else .int x.2.1.toInt, x.2.2)))
    modR r (fun _ => out.1)
    raiseFlags (res.2.2.1 ||| out.2.1) out.2.2
    match lp with
    | some pos =>
      let keep := match res.2.1 with
        | some v => encVal v
        | none => []
      setCarry r { pos := pos, next := row.nextStrip, acc := keep, poison := false }
    | none => pure ()
    pure (res.2.2.1 ||| out.2.1 ||| row.priorFlags)

/-! Indices and random numbers (R309). -/

/-- viota. -/
def rowIota (r : Nat) (o : Op) (vd ma mk : Nat) : M Nat := do
  checkGroups r o (some (o.plain vd)) [] true
  let p ← plainPut r o vd
  elementwise r o mk false false p (fun _ => []) (fun row e =>
    let n := ((List.range e).filter (fun j => row.active mk j && BB ((row.m[ma]?).getD 0) j)).length
    (.raw (n % 2 ^ o.sew), 0))

/-- vid. -/
def rowId (r : Nat) (o : Op) (vd mk : Nat) : M Nat := do
  checkGroups r o (some (o.plain vd)) [] true
  let p ← plainPut r o vd
  elementwise r o mk false false p (fun _ => []) (fun row e => (.raw ((row.strip.toNat + e) % 2 ^ o.sew), 0))

/-- The RNGGEN word of linear coordinate i (R197). -/
def rngWord (seed : Word) (tensor i : Nat) : Nat :=
  opal (bits (i / 4) 0 32) (bits (i / 4) 32 32) tensor 0 (BF seed 0 32) (BF seed 32 32) (i % 4)

/-- rnggen. -/
def rowRng (r : Nat) (o : Op) (vd mk : Nat) : M Nat := do
  checkGroups r o (some (o.plain vd)) [] true
  let p ← plainPut r o vd
  let t := BF o.sb.v 0 32
  elementwise r o mk (o.sa.poison || o.sb.poison) false p (fun _ => []) (fun row e =>
    let i := BF o.sb.v 32 32 + row.strip.toNat + e
    (.raw (if o.sew = 64 then rngWord o.sa.v t (2 * i) + rngWord o.sa.v t (2 * i + 1) * 2 ^ 32
      else rngWord o.sa.v t i % 2 ^ o.sew), 0))

/-! Compress, expand, slides, permutes (R310, R311). -/

/-- Move elements of va to elements of vd: pairs (destination, source), pure moves that carry poison. -/
def moveElems (r : Nat) (o : Op) (vd va : Nat) (l : List (Nat × Nat)) : M Nat := do
  noteReads r o (l.map (fun x => { base := va, w := o.sew, e := x.2 }))
  modR r (fun row => row.putElems vd o.sew (l.map (fun x =>
    { e := x.1, v := row.elem va o.sew x.2, p := row.elemPoison va o.sew x.2 })))
  pure 0

/-- vcompress. -/
def rowCompress (r : Nat) (o : Op) (vd va mk : Nat) : M Nat := do
  checkGroups r o (some (o.plain vd)) [o.plain va] false
  let row ← theRow r
  let es := row.actives mk 0
  moveElems r o vd va ((List.range es.length).zip es)

/-- vexpand. -/
def rowExpand (r : Nat) (o : Op) (vd va mk : Nat) : M Nat := do
  checkGroups r o (some (o.plain vd)) [o.plain va] false
  let row ← theRow r
  let es := row.actives mk 0
  moveElems r o vd va (es.zip (List.range es.length))

/-- A slide: what each active element receives from, or nothing, or an inserted value with its poison. -/
def slideOp (r : Nat) (o : Op) (vd va mk : Nat) (amount : Bool) (f : Row → Nat → Option (Option Nat × Nat)) : M Nat := do
  checkGroups r o (some (o.plain vd)) [o.plain va] false
  let row ← theRow r
  let es := row.actives mk row.vstart.toNat
  let l := es.filterMap (fun e => (f row e).map (fun x => (e, x)))
  noteReads r o (l.filterMap (fun x => x.2.1.map (fun i => { base := va, w := o.sew, e := i })))
  if amount && o.sb.poison && !es.isEmpty && !o.comb then rowPoison r o 0 false
  modR r (fun row => row.putElems vd o.sew (l.map (fun x =>
    match x.2.1 with
    | some i => { e := x.1, v := row.elem va o.sew i, p := row.elemPoison va o.sew i }
    | none => { e := x.1, v := x.2.2 % 2 ^ o.sew, p := !amount && o.sb.poison })))
  pure 0

/-- vslideup. -/
def rowSlideup (r : Nat) (o : Op) (vd va mk : Nat) : M Nat :=
  let n := o.sb.v.toNat
  slideOp r o vd va mk true (fun _ e => if n ≤ e then some (some (e - n), 0) else none)
/-- vslidedn. -/
def rowSlidedn (r : Nat) (o : Op) (vd va mk : Nat) : M Nat :=
  let n := o.sb.v.toNat
  slideOp r o vd va mk true (fun _ e => if e + n < o.groupElems then some (some (e + n), 0) else some (none, 0))
/-- vslide1up. -/
def rowSlide1up (r : Nat) (o : Op) (vd va mk : Nat) : M Nat :=
  slideOp r o vd va mk false (fun _ e => if e = 0 then some (none, o.sb.v.toNat) else some (some (e - 1), 0))
/-- vslide1dn. -/
def rowSlide1dn (r : Nat) (o : Op) (vd va mk : Nat) : M Nat :=
  slideOp r o vd va mk false (fun row e => if e + 1 = row.vl.toNat then some (none, o.sb.v.toNat) else some (some (e + 1), 0))

/-- vperm: the index is consumed, the data move. -/
def rowPerm (r : Nat) (o : Op) (vd va vb mk : Nat) : M Nat := do
  checkGroups r o (some (o.plain vd)) [o.plain va, o.plain vb] false
  let row ← theRow r
  let p ← plainPut r o vd
  let idx (e : Nat) : Nat := row.elem vb o.sew e
  let es := (row.actives mk row.startAt).filter (fun e => decide (idx e < o.groupElems))
  elementwise r o mk false true p (fun e => (o.plain vb).reads e)
    (fun row e => (.raw (if idx e < o.groupElems then row.elem va o.sew (idx e) else 0), 0))
    (fun e => decide (idx e < o.groupElems) && row.elemPoison va o.sew (idx e))
    (es.map (fun e => { base := va, w := o.sew, e := idx e }))

/-! The exchange (R312). -/

/-- The row that row i receives from, of tl rows. -/
def xchgSource (mode d tl i : Nat) : Nat :=
  match mode with
  | 0 => (i + d) % tl
  | 1 => if i ^^^ d < tl then i ^^^ d else i
  | _ => d

/-- A row with a group replaced by that of another. -/
def Row.takeGroup (row src : Row) (vd va n : Nat) : Row :=
  (List.range n).foldl (fun (row : Row) i => { row with
    v := row.v.setIfInBounds (vd + i) ((src.v[va + i]?).getD 0)
    vpoison := row.vpoison.setIfInBounds (vd + i) ((src.vpoison[va + i]?).getD 0)
    vtag := row.vtag.setIfInBounds (vd + i) ((src.vtag[va + i]?).getD 0)
    vdead := row.vdead &&& ~~~(BitVec.ofNat 32 (2 ^ (vd + i))) }) row

/-- The rows that the grant in force holds: one that VSETTL has added takes part from the next VSETL or VLOOP on (R163, R284). -/
def Hart.tile (h : Hart) : List Row := h.rows.takeWhile Row.joined

/-- xchg in every row of the tile at once; each row has reached it. -/
def allXchg (o : Op) (vd va : Nat) : M Unit := do
  checkGroups 0 o (some (o.plain vd)) [o.plain va] false
  let h ← theHart
  let tl := h.tile.length
  let x := o.sb.v
  let mode := BF x 0 2
  let d := BF x 8 8
  if BF x 16 48 ≠ 0 ∨ BF x 2 6 ≠ 0 ∨ mode = 3 ∨ (mode = 2 ∧ tl ≤ d) then rowTrap 0 o 0x03 x
  (List.range tl).forM (fun i => noteReads i o ((List.range o.lmul).map (fun k =>
    { base := va + k, w := ((((h.rows[i]?).map (fun (q : Row) => q.vtag[va + k]?)).getD none).getD 0).toNat, e := 0 })))
  if o.sb.poison then rowPoison 0 o 0 false
  modH (fun h => { h with rows := (List.range h.rows.length).filterMap (fun i =>
    match h.rows[i]?, h.rows[xchgSource mode d tl i]? with
    | some row, some src => if i < tl then some { row.takeGroup src vd va o.lmul with vstart := 0 } else some row
    | row, _ => row) })

end Sys2Proof.Machine
end

