-- ==== Sys2Proof/Machine/VMem.lean ====
section
/-! DEFINITION. What a row does with the vector memory words: addresses, probe, requests, loads, stores, atomics (R314 to R328,
R94, R204 to R207, R222 to R225). -/

namespace Sys2Proof.Machine

/-! The requester and the space (R88, R318). -/

/-- The requester of a row's accesses: a load pipe, or an engine that carries out the row's word, at the service of the hart's own die (R88;
its L2 port and decoded copies are those of that die too: log 38, DEDUCED, safe). -/
def rowAcc (r engine : Nat) : M Acc := do
  let h ← theHart
  let s ← get
  pure { s.accOf h engine with agent := 1 + r }

/-- Read n bytes in the space of VMT: 0 global, 1 scratchpad, 2 decompressing, 3 global without allocation. `named` counts the sectors that the
access names where it skips some. -/
def spaceRead (acc : Acc) (vmt va n : Nat) (named : Option Nat := none) : M (List Byte × List Bool) :=
  match vmt with
  | 1 => padReadM va va n
  | 2 => do
    match ← rawAliasOf acc va with
    | some (i, rec) =>
      let base := bits rec 16 41 * 65536
      readSurface acc i rec base (va - base) n true named
    | none => trapM 0x0C (BitVec.ofNat 64 (va / 256 * 256)) 4
  | _ => do
    match ← apertureOf acc va with
    | some (i, rec) =>
      let base := bits rec 144 41 * 65536
      readSurface acc i rec base (va - base) n (vmt != 3) named
    | none => readMem acc va n [0, 1, 2, 3] (vmt != 3)

/-! Accesses and requests (R316, R318). -/

/-- One field access of an element: element, field, address, bytes, and the nibble for EEW 4. -/
structure VAcc where
  e : Nat
  i : Nat
  va : Nat
  n : Nat
  nib : Option Nat := none
deriving DecidableEq, Repr

/-- A vector memory word, as its row sees it. -/
structure VMode where
  /-- 0 load, 1 store, 2 atomic -/
  kind : Nat
  nf : Nat
  eew : Nat
  /-- 0 ordered, 1 unordered, 2 fault-only-first -/
  ord : Nat
  vd : Nat
  vb : Option Nat
  strided : Bool
  mask : Nat
deriving DecidableEq, Repr

/-- Element width in bits of an eew code. -/
def eewBits (e : Nat) : Nat := if e = 4 then 4 else 8 * 2 ^ e

/-- Does the word keep a completion mask rather than an index (R225)? -/
def VMode.masked (v : VMode) : Bool := v.vb.isSome || v.ord == 1

/-- The address of field i of element e. -/
def VMode.addr (v : VMode) (o : Op) (row : Row) (e i : Nat) : Nat :=
  let g := row.strip.toNat + e
  let base := o.sa.v.toNat
  match v.vb with
  | some b => (base + row.elem b 32 e) % 2 ^ 64
  | none =>
    if v.strided then
      (BitVec.ofInt 64 ((base : Int) + (g : Int) * o.sb.v.toInt + (i * (v.eew / 8) : Nat))).toNat
    else if v.eew = 4 then (base + g / 2) % 2 ^ 64
    else (base + (g * v.nf + i) * (v.eew / 8)) % 2 ^ 64

/-- The accesses of an element. -/
def VMode.accs (v : VMode) (o : Op) (row : Row) (e : Nat) : List VAcc :=
  (List.range v.nf).map (fun i =>
    { e := e, i := i, va := v.addr o row e i, n := max 1 (v.eew / 8),
      nib := if v.eew = 4 then some ((row.strip.toNat + e) % 2) else none })

/-- The active elements that remain: at or above the index, or with their mask bit clear. -/
def VMode.remaining (v : VMode) (row : Row) : List Nat :=
  let es := row.actives v.mask 0
  match row.prog with
  | none => es
  | some p => if v.masked then es.filter (fun e => !BB p.mask e) else es.filter (fun e => decide (p.k ≤ e))

/-- Requests of accesses in element order: a request is a line of one element group (R318). -/
def formReqs (unordered : Bool) (l : List VAcc) : List (List VAcc) :=
  if unordered then
    let keys := (l.map (fun a => (a.e / 16, a.va / 64))).eraseDups
    keys.map (fun k => l.filter (fun a => (a.e / 16, a.va / 64) == k))
  else
    (l.foldl (fun (acc : List (List VAcc)) a =>
      match acc with
      | [] => [[a]]
      | q :: qs =>
        match q with
        | [] => [a] :: qs
        | b :: _ => if b.e / 16 == a.e / 16 && b.va / 64 == a.va / 64 then (a :: q) :: qs else [a] :: acc) []).reverse.map List.reverse

/-- The elements of a list that a later request does not touch: done once this request is. -/
def doneAfter (q : List VAcc) (rest : List (List VAcc)) : List Nat :=
  ((q.map VAcc.e).eraseDups).filter (fun e => !rest.any (fun r => r.any (fun a => a.e == e)))

/-! The probe (R319). -/

/-- The lowest code of a list of failures (code, element, address), then the lowest element. -/
def lowest (l : List (Nat × Nat × Nat)) : Option (Nat × Nat × Nat) :=
  l.foldl (fun b x =>
    match b with
    | none => some x
    | some y => if x.1 < y.1 || (x.1 == y.1 && decide (x.2.1 < y.2.1)) then some x else some y) none

/-- Step 2: misaligned fields, and segments of a store that cross a line. -/
def misaligned (v : VMode) (l : List VAcc) : List (Nat × Nat × Nat) :=
  l.filterMap (fun a =>
    if a.va % a.n != 0 then some (6, a.e, a.va)
    else if v.kind == 1 && v.nf != 1 && a.i == 0 && decide (64 < a.va % 64 + v.nf * a.n) then some (6, a.e, a.va)
    else none)

/-- Step 3: addresses outside the space, and stores where nothing may be stored. -/
def badPlace (v : VMode) (o : Op) (level : Nat) (a : VAcc) : Option (Nat × Nat × Nat) :=
  match o.vmt.toNat with
  | 1 =>
    if decide (0x8_0000 < a.va + a.n) || (v.kind != 0 && decide (0x7_F000 < a.va + a.n)) then some (7, a.e, a.va) else none
  | m =>
    if a.va >>> 57 != 0 then some (7, a.e, a.va)
    else if (inRegWindow a.va).isSome && (level == 0 || v.eew != 64 || v.kind == 2 || m == 2) then some (7, a.e, a.va)
    else if m == 2 && v.kind != 0 then some (10, a.e, a.va)
    else none

/-- Translate every page that accesses touch; every failing page parks, and the request waits for all of them (R319). -/
def probePages (acc : Acc) (wr : Bool) (kinds : List Nat) (vas : List Nat) : M Unit := do
  let parks ← vas.foldlM (fun (ps : List Park) va => do
    match ← attempt (xlate acc va wr kinds) with
    | .ok _ => pure ps
    | .error (.park p) => pure (ps ++ [p])
    | .error e => throw e) []
  match parks with
  | [] => pure ()
  | p :: rest => throw (.park { p with conv := parks.any Park.conv, also := rest.map Park.fid })

/-- Kinds of leaf a word accepts. -/
def VMode.kinds (v : VMode) : List Nat := if v.kind = 2 then [0, 2] else [0, 1, 2, 3]

/-- The lowest address of each page, ascending. -/
def pagesOf (l : List VAcc) : List Nat :=
  let vs := l.flatMap (fun a => [a.va, a.va + a.n - 1])
  let pages := (vs.map (fun a => a / 4096)).eraseDups
  (pages.map (fun p => (vs.filter (fun a => a / 4096 == p)).foldl min (p * 4096 + 4095))).mergeSort (fun a b => decide (a ≤ b))

/-- Steps 1 to 3 over accesses. -/
def probeStatic (r : Nat) (o : Op) (v : VMode) (row : Row) (level : Nat) (es : List Nat) (all place : List VAcc) : M Unit := do
  if o.sa.poison || (v.strided && o.sb.poison) then rowPoison r o 0 false
  match v.vb with
  | some b =>
    match es.find? (fun e => row.elemPoison b 32 e) with
    | some e => rowPoison r o e false
    | none => pure ()
  | none => pure ()
  let bad := misaligned v all ++ place.filterMap (badPlace v o level)
  match lowest bad with
  | some (c, _, va) => rowTrap r o c (BitVec.ofNat 64 va)
  | none => pure ()

/-- The addresses that the decodes for accesses in an aperture, or in a raw alias, read from (R33). -/
def decodeReads (acc : Acc) (raw : Bool) (l : List VAcc) : M (List Nat) := do
  let bs ← l.filterMapM (fun a => do
    match ← (if raw then rawAliasOf acc a.va else apertureOf acc a.va) with
    | some (i, r) => pure (some (i, r, (a.va - bits r (if raw then 16 else 144) 41 * 65536) / 256))
    | none => pure none)
  let vas ← bs.eraseDups.mapM (fun b => blockReads acc b.1 b.2.1 b.2.2)
  pure (vas.flatten.filter (fun a => a >>> 57 == 0))

/-- The part of the probe that reads translations: the scoreboard, the pages that decodes touch, the pages of the accesses. -/
def probeSpace (r : Nat) (o : Op) (v : VMode) (acc : Acc) (l : List VAcc) : M Unit := do
  l.forM (fun a => scoreboard (if o.vmt = 1 then padWindow + a.va else a.va) a.n (v.kind != 0))
  match o.vmt.toNat with
  | 1 => pure ()
  | 2 => do
    let vas ← decodeReads acc true l
    probePages acc false [0, 1, 2, 3] vas
  | _ => do
    let l := l.filter (fun a => (inRegWindow a.va).isNone)
    let ap ← l.filterM (fun a => do
      let x ← apertureOf acc a.va
      pure x.isSome)
    if v.kind ≠ 0 then
      match ap with
      | a :: _ => rowTrap r o 0x0A (BitVec.ofNat 64 a.va)
      | [] => pure ()
    let vas ← decodeReads acc false ap
    probePages acc (v.kind != 0) v.kinds (vas ++ pagesOf (l.filter (fun a => !ap.contains a)))

/-! Performing requests. -/

/-- What a load read: element, field, value, poison. -/
abbrev Got := List (Nat × Nat × Nat × Bool)

/-- The value of an access out of bytes read. -/
def VAcc.value (a : VAcc) (bs : List Byte) : Nat :=
  match a.nib with
  | some k => bits (leVal bs) (4 * k) 4
  | none => leVal bs

/-- The sectors of their line that the accesses of a request touch (R20). -/
def reqGranules (l : List VAcc) : Nat := l.foldl (fun g a => g ||| granules a.va a.n) 0

/-- Perform one load request. -/
def readReq (o : Op) (acc : Acc) (q : List VAcc) : M Got := whole do
  let m := o.vmt.toNat
  match q with
  | [] => pure []
  | a :: _ =>
    let lo := q.foldl (fun b a => min b a.va) a.va
    let hi := q.foldl (fun b a => max b (a.va + a.n)) 0
    let cut (r : List Byte × List Bool) : Got :=
      q.map (fun a => (a.e, a.i, a.value ((r.1.drop (a.va - lo)).take a.n), ((r.2.drop (a.va - lo)).take a.n).any id))
    if m = 1 then q.mapM (fun a => do
      let x ← padReadM a.va a.va a.n
      pure (a.e, a.i, a.value x.1, x.2.any id))
    else if (inRegWindow a.va).isSome then do
      let s ← get
      pure (q.map (fun a => (a.e, a.i, (s.barRead acc.fn (a.va - regWindow)).toNat, false)))
    else if m = 2 || (← apertureOf acc a.va).isSome then do
      let r ← spaceRead acc m lo (hi - lo) (some (popcount 4 (reqGranules q)))
      pure (cut r)
    else do
      let x ← xlate acc lo false
      let r ← readPiece acc a.va x (hi - lo) (m != 3) (some (reqGranules q))
      pure (cut r)

/-- A byte to write: address, value, which nibbles, poison. -/
structure WByte where
  va : Nat
  v : Nat
  en : Nat
  p : Bool
deriving DecidableEq, Repr

/-- Lay a later byte over an earlier one: its sector takes the poison of both (R317). -/
def WByte.over (old new : WByte) : WByte :=
  { old with
    v := (if bit new.en 0 then new.v % 16 else old.v % 16) + (if bit new.en 1 then new.v / 16 else old.v / 16) * 16
    en := old.en ||| new.en
    p := old.p || new.p }

/-- The bytes of a store request, ascending, the later element over the earlier one (R323). -/
def reqBytes (q : List (VAcc × Nat × Bool)) : List WByte :=
  let all := q.flatMap (fun x =>
    match x.1.nib with
    | some k => [({ va := x.1.va, v := x.2.1 % 16 * 16 ^ k, en := 2 ^ k, p := x.2.2 } : WByte)]
    | none => (List.range x.1.n).map (fun j => { va := x.1.va + j, v := bits x.2.1 (8 * j) 8, en := 3, p := x.2.2 }))
  let vas := ((all.map WByte.va).eraseDups).mergeSort (fun a b => decide (a ≤ b))
  vas.filterMap (fun va =>
    match all.filter (fun b => b.va == va) with
    | [] => none
    | b :: bs => some (bs.foldl WByte.over b))

/-- Runs of consecutive whole bytes; a byte of which only a nibble is written stands alone. -/
def byteRuns (l : List WByte) : List (List WByte) :=
  (l.foldl (fun (acc : List (List WByte)) b =>
    match acc with
    | [] => [[b]]
    | q :: qs =>
      match q with
      | [] => [b] :: qs
      | c :: _ => if c.va + 1 == b.va && c.en == 3 && b.en == 3 then (b :: q) :: qs else [b] :: acc) []).reverse.map List.reverse

/-- The bytes of a run over what stands at a local place; a nibble is merged where the byte is ordered (R200, R316). -/
def mergeRun (mem : Memory) (pa : Nat) (run : List WByte) : List (Byte × Bool) :=
  (List.range run.length).map (fun j =>
    match run[j]? with
    | some b =>
      let old := (mem.read1 (pa + j)).toNat
      let lo := if bit b.en 0 then b.v % 16 else old % 16
      let hi := if bit b.en 1 then b.v / 16 else old / 16
      (BitVec.ofNat 8 (lo + 16 * hi), b.p)
    | none => (0, false))

/-- What a request writes of n bytes from lo: bytes, their poison, and the nibbles that no access of it writes. -/
def reqRange (lo n : Nat) (l : List WByte) : List Byte × List Bool × Nat :=
  let at_ (i : Nat) : WByte := (l.find? (fun b => b.va == lo + i)).getD { va := lo + i, v := 0, en := 0, p := false }
  ((List.range n).map (fun i => BitVec.ofNat 8 (at_ i).v), (List.range n).map (fun i => (at_ i).p),
    sumN ((List.range n).map (fun i => (3 - (at_ i).en) * 4 ^ i)))

/-- Perform one store request: accesses with their values and poison. `done` is told of the accesses performed and of those of the request
still to come. -/
def writeReq (o : Op) (acc : Acc) (done : List VAcc → List VAcc → M Unit) (q : List (VAcc × Nat × Bool)) : M Unit := whole do
  let m := o.vmt.toNat
  if m = 1 then do
    q.forM (fun x => do
      let h ← theHart
      let old := (h.padRead x.1.va 1).1.headD 0
      match x.1.nib with
      | some k => padWriteM x.1.va x.1.va [BitVec.ofNat 8 (setBits old.toNat (4 * k) 4 x.2.1)] [x.2.2]
      | none => padWriteM x.1.va x.1.va (leBytes x.1.n x.2.1) (List.replicate x.1.n x.2.2))
    done (q.map Prod.fst) []
  else
  match q with
  | [] => pure ()
  | (a, _, _) :: _ =>
    if (inRegWindow a.va).isSome then
      q.forM (fun x => do
        if x.2.2 then trapM 0x0D (BitVec.ofNat 64 x.1.e)
        modify (fun s => s.barWrite acc.fn (x.1.va - regWindow) (BitVec.ofNat 64 x.2.1))
        done [x.1] [])
    else do
      let lo := q.foldl (fun b x => min b x.1.va) a.va
      let hi := q.foldl (fun b x => max b (x.1.va + x.1.n)) 0
      let x ← xlate acc lo true
      match ← placeOf x (hi - lo) with
      | .localM pa => do
        let secs := popcount 4 (reqGranules (q.map Prod.fst))
        snoopClear pa 1
        paySectors acc pa secs
        modify (fun s => s.commitLine (m != 3) (pa / 64) ((byteRuns (reqBytes q)).map (fun run =>
          let at_ := pa + ((run.map WByte.va).headD lo - lo)
          (at_, mergeRun s.mem at_ run))))
        accountN acc x secs
        done (q.map Prod.fst) []
      | _ => do
        let w := reqRange lo (hi - lo) (reqBytes q)
        writePiece acc a.va x w.1 w.2.1 (m != 3) w.2.2 (some (reqGranules (q.map Prod.fst)))
        done (q.map Prod.fst) []

/-! Loads and stores (R321 to R324). -/

/-- Note elements performed: the index of an ordered form, the mask of the others. -/
def noteDone (r : Nat) (v : VMode) (es : List Nat) : M Unit :=
  modR r (fun row =>
    let p := row.prog.getD { k := row.vstart.toNat, mask := 0, acc := [0] }
    { row with prog := some (if v.masked
        then { p with mask := BitVec.ofNat 1024 (es.foldl (fun m e => setBits m e 1 1) p.mask.toNat) }
        else { p with k := es.foldl (fun k e => max k (e + 1)) p.k }) })

/-- Set the layout tag of the registers that elements of a group occupy. -/
def Row.tagElems (row : Row) (base w : Nat) (es : List Nat) (tag : Nat) : Row :=
  (readRegs (es.map (fun e => { base := base, w := w, e := e }))).foldl (fun (row : Row) x =>
    { row with vtag := row.vtag.setIfInBounds x.1 (BitVec.ofNat 7 tag) }) row

/-- Commit what a load read: resized to SEW, with the tag of EEW (R164, R317). -/
def commitLoad (r : Nat) (o : Op) (v : VMode) (got : Got) : M Unit :=
  modR r (fun row => (List.range v.nf).foldl (fun (row : Row) i =>
    let l := got.filter (fun x => x.2.1 == i)
    let base := v.vd + i * o.lmul
    (row.putElems base o.sew (l.map (fun x => { e := x.1, v := x.2.2.1 % 2 ^ o.sew, p := x.2.2.2 }))).tagElems
      base o.sew (l.map (fun x => x.1)) v.eew) row)

/-- Run an access and keep its early end as a value, but for a wait. With `quiet` nothing stays of one that would park (R322). -/
def tried (quiet : Bool) (x : M α) : M (Except Stop α) := fun s =>
  match x s with
  | .ok a t => .ok (.ok a) t
  | .error .wait t => .error .wait t
  | .error (.park p) t => .ok (.error (.park p)) (if quiet then s else t)
  | .error e t => .ok (.error e) t

/-- Requests in batches that share no element, so that each element is read as a whole. -/
def batches (l : List (List VAcc)) : List (List (List VAcc)) :=
  (l.foldl (fun (acc : List (List (List VAcc))) q =>
    match acc with
    | [] => [[q]]
    | b :: bs => if b.any (fun p => p.any (fun a => q.any (fun c => c.e == a.e))) then (q :: b) :: bs else [q] :: acc) []).reverse.map List.reverse

/-- Load requests in order, up to one that fails: what they read, those that have not been performed, and the failure. -/
def readBatch (r : Nat) (o : Op) (acc : Acc) (quiet : Bool) : List (List VAcc) → M (Got × List (List VAcc) × Option Stop)
  | [] => pure ([], [], none)
  | q :: qs => do
    match ← tried quiet (asRow r o true (readReq o acc q)) with
    | .error t => pure ([], q :: qs, some t)
    | .ok got => do
      let y ← readBatch r o acc quiet qs
      pure (got ++ y.1, y.2)

/-- Perform the requests of a load batch by batch. Where one fails, the elements read whole are committed, and `fail` is told the lowest element
that was not read. -/
def runLoads (r : Nat) (o : Op) (v : VMode) (acc : Acc) (quiet : Bool) (fail : Nat → Stop → M Unit) : List (List (List VAcc)) → M Unit
  | [] => pure ()
  | b :: bs => do
    let y ← whole (readBatch r o acc quiet b)
    let left (e : Nat) : Bool := y.2.1.any (fun q => q.any (fun a => a.e == e))
    let got := y.1.filter (fun x => !left x.1)
    commitLoad r o v got
    noteDone r v (got.map (fun x => x.1)).eraseDups
    progressed acc.agent
    match y.2.2, y.2.1 with
    | some t, q :: _ => fail ((q.map VAcc.e).foldl min 1024) t
    | _, _ => runLoads r o v acc quiet fail bs

/-- Perform store requests in order. -/
def runStores (r : Nat) (o : Op) (v : VMode) (acc : Acc) (row : Row) : List (List VAcc) → M Unit
  | [] => pure ()
  | q :: qs => do
    asRow r o true (writeReq o acc (fun got left => noteDone r v (doneAfter got (left :: qs))) (q.map (fun a =>
      (a, row.elem (v.vd + a.i * o.lmul) o.sew a.e % 2 ^ v.eew, row.elemPoison (v.vd + a.i * o.lmul) o.sew a.e))))
    progressed acc.agent
    runStores r o v acc row qs

/-- A failure of a fault-only-first load at another element than the first active one cuts VL (R322). -/
def cutFirst (r e0 e : Nat) (t : Stop) : M Unit :=
  if e = e0 then throw t
  else do
    modH (fun h => { h with attempts := 0 })
    modR r (fun row => { row with vl := BitVec.ofNat 11 e })

/-- The checks of R315 at dispatch. -/
def vmemGroups (r : Nat) (o : Op) (v : VMode) : M Unit := do
  let l := o.lmul
  let gx := o.group 32
  let bad := v.vd % l != 0 || decide (32 < v.vd + v.nf * l)
    || (match v.vb with
        | some b => decide (8 < gx) || b % gx != 0 || decide (32 < b + gx)
            || (v.kind != 1 && decide (v.vd < b + gx) && decide (b < v.vd + v.nf * l))
        | none => false)
    || (v.kind == 2 && v.eew != o.sew)
  if bad then rowIllegal r o

/-- The register reads of a vector memory word. -/
def VMode.reads (v : VMode) (o : Op) (es : List Nat) : List Rd :=
  (match v.vb with
   | some b => es.map (fun e => { base := b, w := 32, e := e })
   | none => [])
  ++ (if v.kind = 0 then [] else es.flatMap (fun e => (List.range v.nf).map (fun i =>
      { base := v.vd + i * o.lmul, w := o.sew, e := e })))

/-- The probe has passed: the entry is in flight in its row from here on (R223). -/
def enter (r : Nat) (l : List Rd) : M Unit := do
  let row ← theRow r
  shuffleCount r (row.shuffles l)
  modR r (fun row => if row.prog.isNone
    then { row with prog := some { k := row.vstart.toNat, mask := 0, acc := [0] } } else row)

/-- A vector load or store in a row. -/
def rowMem (r : Nat) (o : Op) (v : VMode) : M Nat := do
  vmemGroups r o v
  let row ← theRow r
  let h ← theHart
  let es := v.remaining row
  deadTrap r o (row.deadRead (v.reads o es))
  let acc ← rowAcc r 0
  let l := es.flatMap (v.accs o row)
  if v.ord = 2 then
    let e0 := (row.actives v.mask 0).headD 0
    let first := l.filter (fun a => a.e == e0)
    probeStatic r o v row h.level es l first
    asRow r o false (probeSpace r o v acc first)
    -- elements above the first that would fault or park cut the load
    let bad ← (l.filter (fun a => a.e != e0)).filterM (fun a => do
      if (badPlace v o h.level a).isSome then pure true
      else if o.vmt = 1 || o.vmt = 2 || (inRegWindow a.va).isSome then pure false
      else if (← apertureOf acc a.va).isSome then pure false
      else do
        let x ← xlateQuiet acc a.va false
        pure x.isNone)
    let cut := (bad.map VAcc.e).foldl min 1024
    let l := l.filter (fun a => decide (a.e < cut))
    l.forM (fun a => scoreboard (if o.vmt = 1 then padWindow + a.va else a.va) a.n false)
    enter r (v.reads o es)
    runLoads r o v acc true (cutFirst r e0) (batches (formReqs false l))
    modR r (fun row => if cut < row.vl.toNat then { row with vl := BitVec.ofNat 11 cut } else row)
    pure 0
  else
    probeStatic r o v row h.level es l l
    asRow r o false (probeSpace r o v acc l)
    enter r (v.reads o es)
    let reqs := formReqs (v.ord == 1) l
    if v.kind = 0 then runLoads r o v acc false (fun _ t => throw t) (batches reqs) else runStores r o v acc row reqs
    pure 0

/-! Atomics (R326, R327). -/

/-- f(old, v) of a vector atomic on w bits, with flags. -/
def vamoValue (op w old v : Nat) : Nat × Nat :=
  match op with
  | 0 => ((old + v) % 2 ^ w, 0)
  | 1 =>
    let f : FF := if w = 16 then ⟨8, 7, 127, true, true⟩ else ⟨8, 23, 127, true, true⟩
    let s := (f.decode old).add (f.decode v) false
    let y := f.round 0 false 0 s.1
    (y.1, s.2 ||| y.2)
  | 2 => (v, 0)
  | 3 => (if sext w v < sext w old then v else old, 0)
  | 4 => (if sext w old < sext w v then v else old, 0)
  | 5 => (old &&& v, 0)
  | 6 => (old ||| v, 0)
  | _ => (old ^^^ v, 0)

/-- One element of a vector atomic: the old value, its poison and flags. -/
def vamoOne (r : Nat) (o : Op) (acc : Acc) (op w e va v : Nat) (pv : Bool) : M (Nat × Bool × Nat) := whole do
  let n := w / 8
  if o.vmt = 1 then do
    let x ← padReadM va va n
    let p := x.2.any id
    if p && op != 2 then rowPoison r o e
    let y := vamoValue op w (leVal x.1) v
    padWriteM va va (leBytes n y.1) (List.replicate n (pv && op == 2))
    pure (leVal x.1, p, y.2)
  else do
    let x ← xlate acc va true [0, 2]
    match ← placeOf x n with
    | .localM pa => do
      let s ← get
      let b := s.homeBytes pa n
      let p := b.2.any id
      if p && op != 2 then rowPoison r o e
      snoopClear pa n
      paySectors acc pa 1
      modify (fun s => s.touchRead pa n (o.vmt != 3))
      let y := vamoValue op w (leVal b.1) v
      homeWrite pa (leBytes n y.1) (List.replicate n (pv && op == 2)) (o.vmt != 3)
      account acc x pa n
      pure (leVal b.1, p, y.2)
    | .remote fa _ => do
      let q : ExtAsk := { host := false, kind := 4, addr := fa, len := n, write := true, data := 64 + op + v * 2 ^ 8, poison := BitVec.ofNat 4 (b2n (pv && op == 2)) }
      match ← extAccess acc q with
      | .error st => trapM 0x0B (BitVec.ofNat 64 va) st
      | .ok (d, p, _) => do
        let p := (bytePoison fa n p).any id
        if p && op != 2 then rowPoison r o e
        account acc x fa n
        pure (d % 2 ^ w, p, (vamoValue op w (d % 2 ^ w) v).2)
    | .hostM .. => trapM 0x07 (BitVec.ofNat 64 va)

/-- Elements of a vector atomic in ascending order; each is committed as it is performed. -/
def runAmos (r : Nat) (o : Op) (v : VMode) (acc : Acc) (op : Nat) (row : Row) : List Nat → M Unit
  | [] => pure ()
  | e :: es => do
    let x := row.elem v.vd o.sew e
    let pv := row.elemPoison v.vd o.sew e
    if pv && op != 2 then rowPoison r o e
    let y ← asRow r o true (vamoOne r o acc op v.eew e (v.addr o row e 0) x pv)
    modR r (fun row =>
      let row := row.putElem v.vd o.sew e y.1 y.2.1
      { row with prog := row.prog.map (fun (p : Prog) => { p with acc := [p.acc.headD 0 ||| y.2.2] }) })
    raiseFlags y.2.2 false
    noteDone r v [e]
    progressed acc.agent
    runAmos r o v acc op row es

/-- A vector atomic in a row: op is the operation code of the seg field. -/
def rowAmo (op r : Nat) (o : Op) (vd vb mk e : Nat) (unordered : Bool) : M Nat := do
  let v : VMode := { kind := 2, nf := 1, eew := eewBits e, ord := b2n unordered, vd := vd, vb := some vb, strided := false, mask := mk }
  vmemGroups r o v
  let h ← theHart
  if op = 1 && h.det then rowDet r o
  let row ← theRow r
  let es := v.remaining row
  deadTrap r o (row.deadRead (v.reads o es))
  let acc ← rowAcc r 0
  let l := es.flatMap (v.accs o row)
  probeStatic r o v row h.level es l l
  asRow r o false (probeSpace r o v acc l)
  enter r (v.reads o es)
  runAmos r o v acc op row es
  let row ← theRow r
  pure row.priorFlags

/-- A unit-stride or strided word: kind, segment fields, width code, ordering, base and stride. -/
def rowUnit (kind ord r : Nat) (o : Op) (vd seg mk e : Nat) (strided : Bool) : M Nat :=
  rowMem r o { kind := kind, nf := seg + 1, eew := eewBits e, ord := ord, vd := vd, vb := none, strided := strided, mask := mk }

/-- An indexed word. -/
def rowIndexed (kind ord r : Nat) (o : Op) (vd vb mk e : Nat) : M Nat :=
  rowMem r o { kind := kind, nf := 1, eew := eewBits e, ord := ord, vd := vd, vb := some vb, strided := false, mask := mk }

end Sys2Proof.Machine
end

