-- ==== Sys2Proof/Machine/Ports.lean ====
section
/-! DEFINITION. Queue words, vector send, tree contributions and standing loads: majors 0x35 to 0x38 (R169, R343, R352 to R362). -/

namespace Sys2Proof.Machine

/-! Raw queue words (R352). -/

/-- Tokens with a copy in flight. -/
def Hart.copying (h : Hart) : List Nat := (List.range 8).filter (fun k => ((h.tokens[k]?).bind Token.job).isSome)

/-- Put a command into an input FIFO; a full one stalls the hart. -/
def pushCmd (f : Nat) (c : RawCmd) : M Unit := do
  fifoRoom f
  modH (fun h => { h with inq := h.inq.setIfInBounds f (((h.inq[f]?).getD []) ++ [c]) })

/-- Does a pushed word break its layout? -/
def cmdBad (f : Nat) (w : Word) : Bool :=
  match BF w 56 8 with
  | 0 => false
  | 1 => f != 0 || BF w 3 53 != 0
  | _ => true

/-- PUSHQ. -/
def pushqM (a b : Nat) : M Unit := do
  let we ← rdS b
  let w := we.v
  if cmdBad a w then trapM 0x03 w
  consume we.poison
  released
  let h ← theHart
  if BF w 56 8 = 0 then pushCmd a { w := w, query := false, after := if a = 0 then h.copying else [], res := some w }
  else
    let k := BF w 0 3
    let busy := h.copying.contains k
    let res := if busy then none else (h.tokens[k]?).map Token.status
    pushCmd a { w := w, query := true, after := if busy then [k] else [], res := res }
  advance

/-- PUSHQ (R352). -/
def execPushq (a b : Nat) (s : State) : Out State := finish (pushqM a b) s

/-- POPQ: waits for the oldest result of an output FIFO. -/
def popqM (d b : Nat) : M Unit := do
  destFree d
  let h ← theHart
  match (h.outq[b - 4]?).getD [] with
  | [] => waitM
  | x :: rest => do
    modH (fun h => { h with outq := h.outq.setIfInBounds (b - 4) rest })
    wrS d x.v x.poison
    advance

/-- POPQ (R352). -/
def execPopq (d b : Nat) (s : State) : Out State := finish (popqM d b) s

/-- Move the oldest due result of an input FIFO to its output FIFO. -/
def Hart.fifoResult (h : Hart) (f : Nat) : Hart :=
  match (h.inq[f]?).getD [] with
  | [] => h
  | c :: rest =>
    let out := (h.outq[f]?).getD []
    match c.res with
    | some w =>
      if c.after.isEmpty && decide (out.length < 16) then
        { h with
          inq := h.inq.setIfInBounds f rest
          outq := h.outq.setIfInBounds f (out ++ [{ v := w, poison := false }]) }
      else h
    | none => h

/-- FIFO_RESULT (R352). -/
def execFifoResult (hart fifo : Nat) (s : State) : Out State := .next (s.modHart hart (fun h => h.fifoResult fifo))

/-! Vector send (R353, R354). -/

/-- The receiver of an element: the hart of the function in the slot on the core. -/
def State.receiver (s : State) (fn core slot : Nat) : Option Hart :=
  s.harts.find? (fun h => h.fn == fn && h.core == core && h.slot == slot && !h.saved)

/-- An arrival enters a hart's buffer. -/
def State.arrive (s : State) (hart : Nat) (x : Elem) : State :=
  s.modHart hart (fun h => { h with arrivals := h.arrivals ++ [x] })

/-- VSEND: enqueued once the earlier scalar stores are performed. -/
def execVsend (a b m : Nat) (s : State) : Out State :=
  finish (do
    drained
    fifoRoom 3
    enqueueI (.vsend a b m)) s

/-- Send one element: its status of R51. To another device it travels as a flit of kind 11 whose LINE names the core, with slot, poison and a number of the
element after it in the payload (log 11, DESIGN CHOICE, unsafe). -/
def sendOne (acc : Acc) (node : Nat) (x : Elem) (key : Nat) : M Nat := do
  let h ← theHart
  let s ← get
  let core := bits node 0 8
  let dev := bits node 8 10
  if node >>> 18 ≠ 0 ∨ 192 ≤ core ∨ 640 ≤ dev then pure 1
  else if dev = s.devId then
    match s.receiver h.fn core h.slot with
    | none => pure 2
    | some g => do
      waitUnless (decide (g.arrivals.length < 256))
      modify (fun s => s.arrive g.id x)
      pure 0
  else do
    let data := x.v.toNat + h.slot * 2 ^ 64 + b2n x.poison * 2 ^ 66 + key * 2 ^ 67
    match ← extAccess acc { host := false, kind := 11, addr := dev * 2 ^ 47 + core * 64, len := 8, write := true, data := data, poison := BitVec.ofNat 4 (b2n x.poison) } with
    | .ok _ => pure 0
    | .error st => pure st

/-- The elements of a VSEND that remain, in ascending order. -/
def sendLoop (r : Nat) (o : Op) (acc : Acc) (a : Grp) (b : Grp) : List Nat → M Unit
  | [] => pure ()
  | e :: es => do
    let row ← theRow r
    if row.elemPoison b.base 32 e then rowPoison r o e
    let node := row.elem b.base 32 e
    let x : Elem := { v := BitVec.ofNat 64 (row.elem a.base a.w e), poison := row.elemPoison a.base a.w e }
    let st ← sendOne acc node x (r * 1024 + e)
    if st ≠ 0 then rowTrap r o 0x0B (BitVec.ofNat 64 node) st true
    modR r (fun row => match row.prog with
      | some p => { row with prog := some { p with mask := p.mask ||| BitVec.ofNat 1024 (2 ^ e) } }
      | none => row)
    progressed acc.agent
    sendLoop r o acc a b es

/-- vsend in a row. -/
def rowVsend (r : Nat) (o : Op) (a b m : Nat) : M Nat := do
  let ga := o.plain a
  let gb : Grp := { base := b, regs := o.group 32, w := 32 }
  checkGroups r o none [ga, gb] false
  let row ← theRow r
  let done := match row.prog with
    | some p => p.mask
    | none => 0
  let es := (row.actives m 0).filter (fun e => !BB done e)
  let l := es.flatMap (fun e => [({ base := a, w := ga.w, e := e } : Rd), { base := b, w := 32, e := e }])
  deadTrap r o (row.deadRead l)
  enter r l
  let acc ← rowAcc r 0
  sendLoop r o acc ga gb es
  pure 0

/-- The response flit to a request (R47): kind 1, 3 or 5, status, poison and data in their places in the line; it carries the request's function,
partition and tag. One that says a subscription table is full names no sector (log 11, DESIGN CHOICE, unsafe). -/
def State.respond (s : State) (q : RemReq) (status : Nat) (poison : BitVec 4) (data : Nat) (full : Bool := false) : State :=
  let kind := if q.kind = 2 ∨ q.kind = 11 then 3 else if q.kind = 4 then 5 else 1
  s.fabSend (BitVec.ofNat 128 (kind + (if full then 0 else granules q.addr q.len) * 2 ^ 4 + poison.toNat * 2 ^ 8 + s.devId * 2 ^ 12 + q.src % 1024 * 2 ^ 22 + q.fn % 128 * 2 ^ 32
      + status * 2 ^ 40 + q.part % 2 ^ 16 * 2 ^ 48 + bits q.addr 6 41 * 2 ^ 64 + q.tag % 2 ^ 21 * 2 ^ 105)) (linePayload q.addr data)

/-- An element that another device sends (kind 11) reaches its hart, once the buffer has room, and is answered: ADDR for a core that is none,
DENIED where the partition is not the function's or no such hart exists (R45, R353). Its core is in the address, slot and poison in the
payload (log 11, DESIGN CHOICE, unsafe). One for a full buffer waits at its sender. -/
def State.sendArrive (s : State) (q : RemReq) : State :=
  let core := bits q.addr 6 8
  let have_ := BF (s.fn q.fn).fabpart 0 16
  if 192 ≤ core then s.respond q 1 0 0
  else if q.part = 0 ∨ have_ = 0 ∨ q.part ≠ have_ then s.respond q 2 0 0
  else match s.receiver q.fn core (bits q.data 64 2) with
    | none => s.respond q 2 0 0
    | some h =>
      if h.arrivals.length < 256 then (s.arrive h.id { v := BitVec.ofNat 64 q.data, poison := BB q.poison 0 }).respond q 0 0 0
      else s

/-- VSEND_ARRIVAL (R353): an element of another device, whose flit carries the sender's device, partition and tag. -/
def execVsendArrival (fn core slot data : Nat) (poison : Bool) (s : State)
    (src part tag : Nat := 0) : Out State :=
  .next (if s.devId < 640 then
    s.sendArrive { kind := 11, src := src, part := part, fn := fn, addr := core * 64, len := 8
                   data := data % 2 ^ 64 + slot % 4 * 2 ^ 64, poison := BitVec.ofNat 4 (b2n poison), half := 0, tag := tag }
  else s)

/-- VRECV. -/
def execVrecv (a b : Nat) (s : State) : Out State :=
  finish (do
    destFree b
    drained
    fifoRoom 3
    enqueueI (.vrecv a b)) s

/-- vrecv in the home row. -/
def rowVrecv (r : Nat) (o : Op) (a b : Nat) : M Nat := do
  let g := o.plain a
  checkGroups r o (some g) [] false
  let row ← theRow r
  if row.vl = 0 then do
    putScalar b 0 false
    pure 0
  else do
    let h ← theHart
    waitUnless (!h.arrivals.isEmpty)
    let c := min row.vl.toNat h.arrivals.length
    let ws := (List.range c).map (fun e =>
      let x := h.arrivals.getD e { v := 0 }
      ({ e := e, v := x.v.toNat % 2 ^ g.w, p := x.poison } : Wr))
    modR r (fun row => row.putElems g.base g.w ws)
    modH (fun h => { h with arrivals := h.arrivals.drop c })
    putScalar b (BitVec.ofNat 64 c) false
    pure 0

/-! Tree contributions (R355). -/

/-- FRED. -/
def execFred (a b c : Nat) (s : State) : Out State :=
  finish (do
    destFree c
    drained
    fifoRoom 3
    enqueueI (.fred a b c)) s

/-- FREDW. -/
def execFredw (a b c : Nat) (s : State) : Out State :=
  finish (do
    destFree c
    drained
    fifoRoom 3
    enqueueI (.fredw a b c)) s

/-- The leaf of a core in an installed tree of its function, if the tree word names one. -/
def State.leafOf (s : State) (h : Hart) (w : Word) : Option (Tree × TreeNode) :=
  if BF w 8 56 ≠ 0 then none else
  match s.trees.find? (fun t => t.id == BF w 0 8 && t.installed && t.owner == h.fn) with
  | none => none
  | some t => (t.nodes.find? (fun n => n.node == s.devId * 2 ^ 11 + h.core)).map (fun n => (t, n))

/-- The group of a contribution of a number of bytes: 1, 2 or 4 registers of elements of the tree's format. -/
def treeGroup (width bytes base : Nat) : Grp where
  base := base
  regs := if bytes ≤ 128 then 1 else if bytes ≤ 256 then 2 else 4
  w := width

/-- The core's FREDs that wait on a tree, each with its hart (R167). -/
def State.fredQueue (s : State) (core tree : Nat) : List (Nat × Nat) :=
  s.harts.filterMap (fun x => match x.fredAt with
    | some (t, n) => if x.core = core ∧ t = tree then some (x.id, n) else none
    | none => none)

/-- A FRED of a hart waits its turn: a leaf takes one contribution a round, once its previous result has been collected, and serves the core's
harts in arrival order (R57, R167). -/
def fredTurn (tree : Nat) : M Unit := do
  let h ← theHart
  let s ← get
  let q := s.fredQueue h.core tree
  let mine := match h.fredAt with
    | some (t, n) => if t = tree then n else 0
    | none => 0
  let mine := if mine = 0 then (q.map Prod.snd).foldl max 0 + 1 else mine
  modH (fun h => { h with fredAt := some (tree, mine) })
  waitUnless (q.all (fun x => x.1 == h.id || decide (mine < x.2))
    && !s.harts.any (fun x => x.core == h.core && x.freds.any (fun f => f.tree == tree && f.state != 2)))
  modH (fun h => { h with fredAt := none })

/-- fred in the home row. -/
def rowFred (r : Nat) (o : Op) (a c : Nat) : M Nat := do
  let h ← theHart
  let s ← get
  match s.leafOf h o.sb.v with
  | none => do
    if o.sb.poison then rowPoison r o 0 false
    putScalar c 2 false
    pure 0
  | some (t, n) => do
    let rec_ := t.record.toNat
    let bytes := treeBytes rec_
    let g := treeGroup (fmtWidth (treeFmt rec_)) bytes a
    checkGroups r o none [g] false
    let row ← theRow r
    let k := treeElems rec_
    let l := (List.range k).map (fun e => ({ base := a, w := g.w, e := e } : Rd))
    deadTrap r o (row.deadRead l)
    if o.sb.poison then rowPoison r o 0 false
    fredTurn t.id
    shuffleCount r (row.shuffles l)
    let data := row.getBits a 0 (8 * min 128 bytes)
      + sumN ((List.range 3).map (fun i => row.getBits (a + i + 1) 0 (8 * min 128 (bytes - 128 * (i + 1))) * 2 ^ (1024 * (i + 1))))
    let poison := sumN ((List.range k).map (fun e => if row.elemPoison a g.w e then 2 ^ e else 0))
    modH (fun h => { h with freds := h.freds.filter (fun f => f.tree != t.id) ++
      [{ tree := t.id, state := 0, data := 0, poison := 0, flags := 0, width := g.w, bytes := bytes }] })
    modify (fun s => if n.root then { s with treeDown := s.treeDown ++ [(t.id, n.node, data, poison, 0)] }
      else s.sendUp t n (data, poison, 0))
    putScalar c 0 false
    pure 0

/-- fredw in the home row: a result that has come is written, be the tree still installed or not. -/
def rowFredw (r : Nat) (o : Op) (a c : Nat) : M Nat := do
  let h ← theHart
  let s ← get
  let id := BF o.sb.v 0 8
  let mine := if BF o.sb.v 8 56 = 0 then h.freds.find? (fun f => f.tree == id) else none
  match mine with
  | none => do
    let leaf := s.leafOf h o.sb.v
    match leaf with
    | none => pure ()
    | some (t, _) => checkGroups r o (some (treeGroup (fmtWidth (treeFmt t.record.toNat)) (treeBytes t.record.toNat) a)) [] false
    if o.sb.poison then rowPoison r o 0 false
    putScalar c (if leaf.isNone then 2 else 3) false
    pure 0
  | some f => do
    let g := treeGroup f.width f.bytes a
    checkGroups r o (some g) [] false
    if f.state = 2 then do
      if o.sb.poison then rowPoison r o 0 false
      modH (fun h => { h with freds := h.freds.filter (fun f => f.tree != id) })
      putScalar c 1 false
      pure 0
    else do
      if o.sb.poison then rowPoison r o 0 false
      waitUnless (f.state == 1)
      modR r (fun row => row.putElems a g.w ((List.range (8 * f.bytes / f.width)).map (fun e =>
        { e := e, v := bits f.data (g.w * e) g.w, p := bit f.poison e })))
      modH (fun h => { h with freds := h.freds.filter (fun f => f.tree != id) })
      raiseFlags f.flags.toNat false
      putScalar c 0 false
      pure f.flags.toNat

/-! Standing loads (R356 to R360). -/

/-- Has a hart's request for a subscription, which a push of another home answers to, not been taken up yet (R357)? -/
def State.subAsked (s : State) (q : RemReq) : Bool :=
  s.ext.any (fun e => !e.host && e.write && e.len == 8 && e.addr == q.src * 2 ^ 47 + q.addr
    && e.data == bits q.data 70 26 * 64 + bits q.data 64 6 && (s.hart? e.hart).any (fun h => h.fn == q.fn)
    && (match e.reply with
      | some (st, d, _) => st == 0 && decide (d < 2 ^ 64)
      | none => true))

/-- A slot whose subscription has ended at its home reads CLOSED (R75, R358). -/
def State.closeSlot (s : State) (hart slot : Nat) : State :=
  let s := s.deliverAll hart
  s.modHart hart (fun h => { h with slots := h.slots.setIfInBounds slot (slotSet ((h.slots[slot]?).getD 0) 120 3 3) })

/-- A push from another home (kind 7) reaches the slot that its payload names, if it still subscribes to the doubleword there, with the home's sequence
number and poison; one that ends the subscription closes the slot (log 11, DESIGN CHOICE, unsafe). One that comes before the hart has taken
up the answer to its subscription is kept until it has (R211, R357). -/
def State.pushArrive (s : State) (q : RemReq) : State :=
  let slot := bits q.data 64 6
  let tag := bits q.data 70 26
  match s.subs.find? (fun u => u.dev == some q.src && u.fn == q.fn && u.addr == q.src * 2 ^ 47 + q.addr && u.slot == slot
      && subTag u.hart == tag) with
  | none => if s.subAsked q then { s with early := s.early ++ [q] } else s
  | some u =>
    if bit q.data 144 then { s.closeSlot u.hart slot with subs := s.subs.filter (fun x => x != u) }
    else
      let v : Push := { hart := u.hart, slot := slot, value := BitVec.ofNat 64 q.data, poison := BB q.poison 0, seq := bits q.data 96 48 }
      { s with
        subs := s.subs.map (fun (x : Sub) => if x = u then { x with seq := v.seq } else x)
        pushes := s.pushes ++ [v] }

/-- The pushes that were kept arrive, in order. -/
def State.earlyArrive (s : State) : State := s.early.foldl State.pushArrive { s with early := [] }

/-- Does slot n hold the entries of a QUEUE pair? -/
def Hart.secondOf (h : Hart) (n : Nat) : Bool := n % 2 == 1 && BB h.slotPairs (n - 1)

/-- Is slot n free? -/
def Hart.slotFree (h : Hart) (n : Nat) : Bool := slotState ((h.slots[n]?).getD 0) == 0 && !h.secondOf n

/-- SUBQ of a function; the physical function has no quota. -/
def State.subQuota (s : State) (fn : Nat) : Option Nat := if fn = 0 then none else some (BF (s.fn fn).vfcfg 128 21)

/-- A slot as an installation leaves it. -/
def Hart.installSlot (h : Hart) (queue : Bool) (n va : Nat) (v : Nat) (p : Bool) : Hart :=
  if queue then
    { h with
      slots := (h.slots.setIfInBounds n (BitVec.ofNat 512 (1 * 2 ^ 112 + 2 * 2 ^ 120 + va * 2 ^ 128))).setIfInBounds (n + 1)
        (slotSet ((h.slots[n + 1]?).getD 0) 0 64 v)
      slotPoison := slotSet h.slotPoison (8 * (n + 1)) 1 (b2n p)
      slotPairs := h.slotPairs ||| BitVec.ofNat 64 (2 ^ n) }
  else
    { h with
      slots := h.slots.setIfInBounds n (BitVec.ofNat 512 (v + 1 * 2 ^ 120 + 1 * 2 ^ 123 + va * 2 ^ 128))
      slotPoison := slotSet h.slotPoison (8 * n) 1 (b2n p) }

/-- LDSTAND (R357). The quota counts this device's entries of the function (R64). -/
def ldstandM (queue : Bool) (a b c : Nat) : M Unit := do
  destFree a
  let xe ← rdS b
  let ye ← rdS c
  let x := xe.v
  let y := ye.v
  if BF y 6 58 ≠ 0 ∨ (queue ∧ BF y 0 1 = 1) then trapM 0x03 y
  let va := x.toNat
  checkAddr va 8
  if (inRegWindow va).isSome || (inPadWindow va).isSome then trapM 0x07 x
  let h ← theHart
  asUnit 0 do
    let s ← get
    let acc := s.accOf h 0
    if (← apertureOf acc va).isSome then trapM 0x07 x
    if xe.poison || ye.poison then trapM 0x0D 0
    released
    fifoRoom 3
    let t ← xlate acc va false [0, 2]
    let n := BF y 0 6
    let h ← theHart
    let s ← get
    if !(h.slotFree n && (!queue || h.slotFree (n + 1))) then wrS a 1
    else if (match s.subQuota h.fn with
      | some q => decide (q ≤ (s.subs.filter (fun (u : Sub) => u.fn == h.fn && decide (u.hart < 2 ^ 40))).length)
      | none => false) then wrS a 2
    else
      match ← placeOf t 8 with
      | .localM pa =>
        if 4096 ≤ (s.subs.filter (fun (u : Sub) => u.dev.isNone && s.homeSlice (u.addr / 64) == s.homeSlice (pa / 64))).length then wrS a 3
        else do
          let r ← readPiece acc va t 8
          let u : Sub := { addr := pa, fn := h.fn, hart := h.id, slot := n, seq := 0, dev := none }
          modify (fun s => { s with subs := s.subs ++ [u] })
          modH (fun h => h.installSlot queue n va (leVal r.1) (r.2.any id))
          wrS a 0
      | .remote fa _ =>
        match ← extAccess acc { host := false, kind := 6, addr := fa, len := 8, write := true, data := subTag h.id * 64 + n } with
        | .error st => trapM 0x0B x st
        | .ok (d, p, _) =>
          if 2 ^ 64 ≤ d then wrS a 3
          else do
            let u : Sub := { addr := fa, fn := h.fn, hart := h.id, slot := n, seq := 0, dev := some (bits fa 47 10) }
            modH (fun h => h.installSlot queue n va d ((bytePoison fa 8 p).any id))
            modify (fun s => { s with subs := s.subs ++ [u] }.earlyArrive)
            account acc t fa 8
            wrS a 0
      | .hostM .. => trapM 0x07 x
    advance

/-- LDSTAND_LATEST (R357). -/
def execLdstandLatest (a b c : Nat) (s : State) : Out State := finish (ldstandM false a b c) s
/-- LDSTAND_QUEUE (R357). -/
def execLdstandQueue (a b c : Nat) (s : State) : Out State := finish (ldstandM true a b c) s

/-- What a read of a slot gives: value, poison, status word, and the slot after it; none while it must wait (R359). -/
def Hart.slotRead (h : Hart) (n : Nat) (nowait : Bool) : Option (Word × Bool × Word × BitVec 512) :=
  let x := (h.slots[n]?).getD 0
  let st := if h.secondOf n then 0 else slotState x
  let closed := b2n (st == 3)
  let queue := BB h.slotPairs n
  let none_ : Word × Bool × Word × BitVec 512 := (0, false, BitVec.ofNat 64 (closed * 2 ^ 57 + 2 ^ 58), x)
  if st ≠ 0 && !queue && BB x 123 then
    some (BitVec.ofNat 64 (BF x 0 64), BB h.slotPoison (8 * n),
      BitVec.ofNat 64 (BF x 64 48 + BF x 112 8 * 2 ^ 48 + closed * 2 ^ 57), slotSet (slotSet x 123 1 0) 112 8 0)
  else if st ≠ 0 && queue && BF x 112 8 != 0 then
    let head := BF x 125 3
    some (BitVec.ofNat 64 (BF ((h.slots[n + 1]?).getD 0) (64 * head) 64), BB h.slotPoison (8 * (n + 1) + head),
      BitVec.ofNat 64 (BF x 64 48 + BF x 124 1 * 2 ^ 56 + closed * 2 ^ 57),
      slotSet (slotSet (slotSet (slotSet x 125 3 ((head + 1) % 8)) 64 48 (BF x 64 48 + 1)) 112 8 (BF x 112 8 - 1)) 124 1 0)
  else if nowait || st == 0 || st == 3 then some none_
  else none

/-- SLOTRD. -/
def slotrdM (a b c : Nat) : M Unit := do
  destFree a
  destFree c
  let ye ← rdS b
  let y := ye.v
  if BF y 6 2 ≠ 0 ∨ BF y 9 55 ≠ 0 then trapM 0x03 y
  if ye.poison then trapM 0x0D 0
  released
  fifoRoom 3
  let h ← theHart
  let n := BF y 0 6
  match h.slotRead n (BB y 8) with
  | none => waitM
  | some (v, p, w, x) => do
    modH (fun h => { h with slots := h.slots.setIfInBounds n x })
    wrS a v p
    wrS c w
    advance

/-- SLOTRD (R359). -/
def execSlotrd (a b c : Nat) (s : State) : Out State := finish (slotrdM a b c) s

/-- A slot, and the second of its pair, released (R360). -/
def Hart.freeSlot (h : Hart) (n : Nat) : Hart :=
  let f (sl : Vector (BitVec 512) 64) (i : Nat) : Vector (BitVec 512) 64 := sl.setIfInBounds i (slotSet ((sl[i]?).getD 0) 120 3 0)
  { h with
    slots := if BB h.slotPairs n then f (f h.slots n) (n + 1) else f h.slots n
    slotPairs := h.slotPairs &&& ~~~(BitVec.ofNat 64 (2 ^ n)) }

/-- The home of a subscription on another device removes its entry (R360): the hart waits for its answer. A status other than OK is the fabric fault
at the subscribed address (R51). -/
def farUnsub (acc : Acc) (h : Hart) (u : Sub) : M Unit :=
  match u.dev with
  | none => pure ()
  | some _ => do
    match ← extAccess acc u.endAsk with
    | .ok _ => pure ()
    | .error st => trapM 0x0B (BitVec.ofNat 64 (BF ((h.slots[u.slot]?).getD 0) 128 64)) st

/-- UNSUB. -/
def unsubM (a b : Nat) : M Unit := do
  destFree a
  let ye ← rdS b
  let y := ye.v
  if BF y 6 58 ≠ 0 then trapM 0x03 y
  if ye.poison then trapM 0x0D 0
  released
  fifoRoom 3
  let h ← theHart
  asUnit 0 do
    let s ← get
    let n := BF y 0 6
    if h.slotFree n || h.secondOf n then wrS a 1
    else do
      (s.subs.filter (fun u => u.hart == h.id && u.slot == n)).forM (farUnsub (s.accOf h 0) h)
      modify (fun s =>
        let mine := s.pushes.filter (fun p => p.hart == h.id && p.slot == n)
        let s := mine.foldl State.deliverPush { s with pushes := s.pushes.filter (fun p => !(p.hart == h.id && p.slot == n)) }
        { s with subs := s.subs.filter (fun u => !(u.hart == h.id && u.slot == n)) })
      modH (fun h => h.freeSlot n)
      wrS a 0
    advance

/-- UNSUB (R360). -/
def execUnsub (a b : Nat) (s : State) : Out State := finish (unsubM a b) s

/-- A subscriber on another device, as the hart number its entry carries here: device, and the tag its request sent (log 11, DESIGN CHOICE, unsafe). -/
def farHart (dev tag : Nat) : Nat := 2 ^ 40 + dev * 2 ^ 26 + tag % 2 ^ 26

/-- A push reaches its slot, or leaves as a flit of kind 7 for a subscriber on another device (R50, R358). -/
def State.sendPush (s : State) (p : Push) : State :=
  if 2 ^ 40 ≤ p.hart then
    s.fabSend (BitVec.ofNat 128 (7 + granules (p.addr % 64) 8 * 2 ^ 4 + b2n p.poison * 2 ^ 8 + s.devId * 2 ^ 12 + bits p.hart 26 10 * 2 ^ 22
        + p.fn * 2 ^ 32 + p.part % 2 ^ 16 * 2 ^ 48 + bits p.addr 6 41 * 2 ^ 64))
      (p.value.toNat + p.slot * 2 ^ 64 + bits p.hart 0 26 * 2 ^ 70 + p.seq * 2 ^ 96)
  else s.deliverPush p

/-- SUBSCRIPTION_PUSH (R358): the oldest push on its way reaches its slot. -/
def execSubscriptionPush (s : State) : Out State :=
  .next (match s.pushes with
    | [] => s
    | p :: rest => { s with pushes := rest }.sendPush p)

/-! STEPINV (R52, R53, R361). -/

/-- Remove every read-only line of a function; what a read that is under way brings is not kept (R53). -/
def State.stepInv (s : State) (fn : Nat) : State :=
  let mine := (treeAcc fn).hart :: (s.harts.filter (fun h => h.fn == fn)).map Hart.id
  { s with
    roCache := s.roCache.filter (fun l => l.fn != fn)
    ext := s.ext.map (fun (e : ExtReq) => if mine.contains e.hart then { e with fill := false } else e) }

/-- STEPINV (R361): the removal is done before any later access, and an entry enters the vector queue. -/
def execStepinv (sc : Nat) (s : State) : Out State :=
  finish (do
    released
    fifoRoom 3
    let h ← theHart
    waitUnless (decide (h.queue.length < 64))
    modify (fun s => s.stepInv h.fn)
    enqueueI (.stepinv sc)) s

end Sys2Proof.Machine
end

