-- ==== Sys2Proof/Machine/Sampler.lean ====
section
/-! DEFINITION. The Opal sampler: major 0x39 (R363 to R372). -/

namespace Sys2Proof.Machine

/-! Values in order (R364). -/

/-- key of R364: FP32 bit patterns in the order of their values. -/
def sampleKey (x : Nat) : Nat := if bit x 31 then 2 ^ 32 - 1 - x % 2 ^ 32 else (x % 2 ^ 32) ^^^ 0x8000_0000

/-- cand of R364. -/
def cand (v g : Nat) : Nat := v * 2 ^ 32 + (0xFFFF_FFFF - g % 2 ^ 32)

/-- Is an FP32 bit pattern a NaN? -/
def nan32 (x : Nat) : Bool := bits x 23 8 == 255 && bits x 0 23 != 0

/-- Is an FP32 bit pattern finite? -/
def finite32 (x : Nat) : Bool := bits x 23 8 != 255

/-! The weight of a logit (R367, R368). -/

/-- The table T of R368. -/
def swgtTable : List Nat :=
  [32768, 33125, 33486, 33850, 34219, 34591, 34968, 35349, 35734, 36123, 36516, 36914, 37316, 37722, 38133, 38548] ++
  [38968, 39392, 39821, 40255, 40693, 41136, 41584, 42037, 42495, 42958, 43425, 43898, 44376, 44859, 45348, 45842] ++
  [46341, 46846, 47356, 47871, 48393, 48920, 49452, 49991, 50535, 51085, 51642, 52204, 52773, 53347, 53928, 54515] ++
  [55109, 55709, 56316, 56929, 57549, 58176, 58809, 59449, 60097, 60751, 61413, 62081, 62757, 63441, 64132, 64830]

/-- The weight of a fixed-point exponent X at or below 0 and at or above −2^31, in units of 2^-24 (R367). -/
def swgtOf (X : Int) : Nat :=
  let sh := (-(X / 2 ^ 24)).toNat
  let f := (X % 2 ^ 24).toNat
  let t := (f % 2 ^ 18 * 0xB1_7218) / 2 ^ 18
  let p := 2 ^ 30 + t + t * t / 2 ^ 31
  (swgtTable.getD (f / 2 ^ 18) 0 * p / 2 ^ 14) >>> sh

/-- swgt_element of R367: weight, flags and saturation of a logit, for the operand word. -/
def swgtElement (c l : Nat) : Nat × Nat × Bool :=
  if nan32 l then (0, 16, false)
  else match decodeFmt 0x10 l with
    | .inf true => (0, 0, false)
    | v =>
      let s := decodeFmt 0x10 (bits c 0 32)
      let lmax := decodeFmt 0x10 (bits c 32 32)
      match (s.mul (v.add lmax.neg false).1).1 with
      | .fin neg mag exp =>
        let r := roundUnits 0 neg 0 mag exp (-24)
        let X : Int := if neg then -(r.1 : Int) else r.1
        if 0 < X then (swgtOf 0, 0, true)
        else if X < -(2 ^ 31 : Int) then (0, 0, false)
        else (swgtOf X, 0, false)
      | .inf neg => if neg then (0, 0, false) else (swgtOf 0, 0, true)
      | .nan _ => (0, 0, false)

/-! Results over the candidates of the tile (R365, R366, R369, R371). -/

/-- The largest of a list; a start value when it is empty. -/
def maxFrom (d : Nat) (l : List Nat) : Nat := l.foldl max d

/-- A list of numbers in descending order. -/
def descending (l : List Nat) : List Nat := l.mergeSort (fun a b => decide (b ≤ a))

/-- smax over FP32 bit patterns that are not NaN. -/
def smaxOf (l : List Nat) : Nat :=
  match l with
  | [] => 0x007F_FFFF_FF80_0000
  | _ => maxFrom 0 (l.map (fun x => sampleKey x * 2 ^ 32 + x % 2 ^ 32))

/-- skth over candidate words. -/
def skthOf (k : Nat) (l : List Nat) : Nat := if l.length < k then 0 else (descending l).getD (k - 1) 0

/-- The walk of stopp: the first candidate at which the running sum reaches P. -/
def nucleus (P : Nat) : List Nat → Nat → Nat
  | [], _ => 0
  | c :: cs, acc =>
    let acc := acc + c / 2 ^ 32
    if P ≤ acc then c else nucleus P cs acc

/-- stopp over (weight, index). -/
def stoppOf (p : Nat) (l : List (Nat × Nat)) : Nat :=
  let P := p * sumN (l.map Prod.fst) / 2 ^ 31
  nucleus P (descending ((l.filter (fun x => x.1 != 0)).map (fun x => cand x.1 x.2))) 0

/-- The walk of a draw: the first index whose running sum passes thr. -/
def pick (thr : Nat) : List (Nat × Nat) → Nat → Nat
  | [], _ => 0xFFFF_FFFF_FFFF_FFFF
  | x :: xs, acc => if thr < acc + x.1 then x.2 else pick thr xs (acc + x.1)

/-- sdraw over (weight, index) in ascending order of element, for a record and a value u. -/
def sdrawOf (rec u : Nat) (l : List (Nat × Nat)) : Nat :=
  let S := sumN (l.map Prod.fst)
  if bit rec 320 then S
  else
    let thr := u * bits rec 192 64 / 2 ^ 64
    let base := bits rec 256 64
    if thr < base ∨ base + S ≤ thr then 0xFFFF_FFFF_FFFF_FFFF
    else pick thr (l.mergeSort (fun a b => decide (a.2 ≤ b.2))) base

/-- u of a draw record (R371, R372). -/
def drawWord (rec : Nat) : Nat :=
  let w (i : Nat) : Nat := opal (bits rec 64 32) (bits rec 96 32) (bits rec 128 32) 0xFFFF_0001 (bits rec 0 32) (bits rec 32 32) i
  w 1 * 2 ^ 32 + w 0

/-! Issue (R363, R370). -/

/-- Issue of a sampler word: its operand is checked and consumed, the push waits for every earlier access and for room (R169, R209). -/
def samplerM (i : Instr) (dest c : Nat) (bad : Nat → Bool) : M Unit := do
  destFree dest
  let x ← rdS c
  if bad x.v.toNat then trapM 0x03 x.v
  if x.poison then trapM 0x0D 0
  released
  fifoRoom 2
  enqueueI i

/-- Does an operand of skth break its entry? -/
def skthBad (c : Nat) : Bool := bits c 11 21 != 0 || bits c 0 11 == 0 || decide (1024 < bits c 0 11)

/-- Does an operand of swgt break its entry: s finite and above zero, lmax finite? -/
def swgtBad (c : Nat) : Bool := bit c 31 || bits c 0 31 == 0 || !finite32 (bits c 0 32) || !finite32 (bits c 32 32)

/-- SMAX (R365). -/
def execSmax (a b : Nat) (s : State) : Out State :=
  finish (do
    destFree a
    released
    fifoRoom 2
    enqueueI (.smax a b)) s

/-- SKTH (R366). -/
def execSkth (a b c : Nat) (s : State) : Out State := finish (samplerM (.skth a b c) a c skthBad) s

/-- SWGT (R367): its destination is a vector register. -/
def execSwgt (a b c : Nat) (s : State) : Out State := finish (samplerM (.swgt a b c) 0 c swgtBad) s

/-- STOPP (R369). -/
def execStopp (a b c : Nat) (s : State) : Out State :=
  finish (samplerM (.stopp a b c) a c (fun x => decide (0x8000_0000 < bits x 0 32))) s

/-- Issue of a draw: the record is read once every earlier access of the hart is performed, and goes with the entry. -/
def sdrawM (i : Instr) (a c : Nat) : M Unit := do
  destFree a
  let xe ← rdS c
  let x := xe.v
  let va := x.toNat
  checkAddr va 8
  outsideRegs va 64
  if xe.poison then trapM 0x0D 0
  released
  fifoRoom 2
  let h ← theHart
  waitUnless (decide (h.queue.length < 64))
  asUnit 0 do
    let s ← get
    let r ← readAny (s.accOf h 5) va 64 [0]
    let d := leVal r.1
    if d >>> 321 ≠ 0 then trapM 0x03 x
    if r.2.any id then trapM 0x0D 0
    let o ← capture i none none (some c) none
    enqueue { op := o, carry := [{ pos := 0, next := 0, acc := [d], poison := false }] }
    advance

/-- SDRAW (R370, R371). -/
def execSdraw (a b c : Nat) (s : State) : Out State := finish (sdrawM (.sdraw a b c) a c) s
/-- SDRAW.HW (R371). -/
def execSdrawHw (a b c : Nat) (s : State) : Out State := finish (sdrawM (.sdrawHw a b c) a c) s

/-! Execution in the tile (R363). -/

/-- The rows that take part: index and row. -/
def Hart.taking (h : Hart) : List (Nat × Row) :=
  (List.range h.rows.length).filterMap (fun i => match h.rows[i]? with
    | some r => if r.vl = 0 then none else some (i, r)
    | none => none)

/-- The index of an element of a row (R363). -/
def elemIndex (ibase : Nat) (row : Row) (e : Nat) : Nat := (ibase + row.strip.toNat + e) % 2 ^ 32

/-- The checks of a sampler word in the rows that take part, lowest code first (R221): width and group, a word that deterministic mode forbids,
dead registers, poison; then the values of the active elements with their indices for a base. -/
def sampleElems (o : Op) (vb : Nat) (wide : Bool) (ibase : Nat) (forbidden : Bool := false) : M (List (Nat × Nat)) := do
  let h ← theHart
  let g := o.plain vb
  let okW := o.sew == 32 || (wide && o.sew == 64)
  h.taking.forM (fun (p : Nat × Row) => do
    if !okW then rowIllegal p.1 o
    checkGroups p.1 o none [g] false)
  if forbidden then rowDet 0 o
  let reads (p : Nat × Row) : List Rd := (p.2.actives 0 0).flatMap g.reads
  h.taking.forM (fun (p : Nat × Row) => deadTrap p.1 o (p.2.deadRead (reads p)))
  h.taking.forM (fun (p : Nat × Row) =>
    match (p.2.actives 0 0).find? (fun e => p.2.elemPoison vb g.w e) with
    | some e => rowPoison p.1 o (elemIndex ibase p.2 e) false
    | none => pure ())
  h.taking.forM (fun (p : Nat × Row) => shuffleCount p.1 (p.2.shuffles (reads p)))
  pure (h.taking.flatMap (fun (p : Nat × Row) => (p.2.actives 0 0).map (fun e =>
    (p.2.elem vb g.w e, elemIndex ibase p.2 e))))

/-- Flags of FP32 elements: each NaN raises invalid. -/
def nanFlags (l : List (Nat × Nat)) : Nat := if l.any (fun x => nan32 x.1) then 16 else 0

/-- smax in the tile: the flags it raises. -/
def allSmax (o : Op) (a b : Nat) : M Nat := do
  let l ← sampleElems o b false 0
  raiseFlags (nanFlags l) false
  putScalar a (BitVec.ofNat 64 (smaxOf ((l.map Prod.fst).filter (fun x => !nan32 x)))) false
  pure (nanFlags l)

/-- skth in the tile. -/
def allSkth (o : Op) (a b : Nat) : M Unit := do
  let l ← sampleElems o b true (BF o.sc.v 32 32)
  let cs := if o.sew = 64 then l.map Prod.fst else (l.filter (fun x => !nan32 x.1)).map (fun x => cand (sampleKey x.1) x.2)
  putScalar a (BitVec.ofNat 64 (skthOf (BF o.sc.v 0 11) cs)) false

/-- stopp in the tile. -/
def allStopp (o : Op) (a b : Nat) : M Unit := do
  let l ← sampleElems o b false (BF o.sc.v 32 32)
  putScalar a (BitVec.ofNat 64 (stoppOf (BF o.sc.v 0 32) l)) false

/-- sdraw and sdraw.hw in the tile, for the record that the entry holds. -/
def allSdraw (o : Op) (hw : Bool) (a b rec : Nat) : M Unit := do
  let h ← theHart
  let l ← sampleElems o b false (bits rec 160 32) (hw && h.det)
  let u ← if hw then do
      let w ← freeWord
      pure w.toNat
    else pure (drawWord rec)
  putScalar a (BitVec.ofNat 64 (sdrawOf rec u l)) false

/-- swgt in a row: element-wise (R367), with no index base of its own. -/
def rowSwgt (r : Nat) (o : Op) (vd vb : Nat) : M Nat := do
  if o.sew ≠ 32 then rowIllegal r o
  let gb := o.plain vb
  checkGroups r o (some (o.plain vd)) [gb] true
  let row ← theRow r
  let p : Put := { g := o.plain vd, code := 0x05, mode := 0, sat := false, pc := o.pc, strip := row.strip.toNat }
  let c := o.sc.v.toNat
  let es := row.actives 0 row.startAt
  let upTo := match es.find? (fun e => row.elemPoison vb gb.w e) with
    | some e => es.filter (fun x => decide (x < e))
    | none => es
  deadTrap r o (row.deadRead (es.flatMap gb.reads))
  raiseFlags 0 (upTo.any (fun e => (swgtElement c (row.elem vb gb.w e)).2.2))
  elementwise r o 0 false true p gb.reads (fun row e =>
    let x := swgtElement c (row.elem vb gb.w e)
    (.raw x.1, x.2.1)) (idx := elemIndex 0 row)

end Sys2Proof.Machine
end

