-- ==== Sys2Proof/Machine/VMatrix.lean ====
section
/-! DEFINITION. The matrix and codebook words in a row: tiles, MTLOAD, MROW, MROWM, MROWX, readout, CBLOAD (R191 to R194,
R329 to R342). -/

namespace Sys2Proof.Machine

/-! Tiles (R329 to R331). -/

/-- The tile side of an A format; none for a format that is no A format. -/
def tileSide (fa : Nat) : Option Nat :=
  match fa with
  | 0x11 => some 64
  | 0x13 => some 128
  | 0x14 => some 128
  | 0x15 => some 128
  | 0x16 => some 128
  | 0x17 => some 256
  | _ => none

/-- Is a tile format, scaled or not, paired with an A format (R329)? -/
def tilePaired (fa ft : Nat) (scaled : Bool) : Bool :=
  match tileSide fa with
  | some 64 => ft == 0x11 && !scaled
  | some 128 => decide (0x13 ≤ ft) && decide (ft ≤ 0x16)
  | some 256 => (ft == 0x17 && !scaled) || ft == 0x18
  | _ => false

/-- The side of a tile by its own format. -/
def ownSide (ft : Nat) : Nat := if ft = 0x11 then 64 else if ft = 0x17 ∨ ft = 0x18 then 256 else 128

/-- Bytes of a tile row. -/
def tileRowBytes (ft : Nat) : Nat := if ft = 0x18 then 64 else ownSide ft * fmtWidth ft / 8

/-- Tile buffer n of a row. -/
def Row.tile (row : Row) (n : Nat) : Tile := if n = 0 then row.mt0 else row.mt1

/-- Change tile buffer n of a row. -/
def Row.setTile (row : Row) (n : Nat) (t : Tile) : Row := if n = 0 then { row with mt0 := t } else { row with mt1 := t }

/-- A value by number in a list of numbered values. -/
def keyed (l : List (Nat × Nat)) (k : Nat) (dflt : Nat) : Nat :=
  match l.find? (fun x => x.1 == k) with
  | some x => x.2
  | none => dflt

/-- The exact value of weight (k, n) of a tile (R331). -/
def Tile.weight (t : Tile) (cbt : List Nat) (k n : Nat) : Val :=
  let x := keyed t.rows k 0
  let v := if t.fmt = 0x18 then cb2Weight cbt (bits x (16 * (n / 8)) 16) (n % 8)
    else decodeFmt t.fmt (bits x (fmtWidth t.fmt * n) (fmtWidth t.fmt))
  if t.scaled then
    match t.scales.find? (fun y => y.1 == k / 32) with
    | some y => if bits y.2 (8 * n) 8 = 255 then .nan false else v.scale ((bits y.2 (8 * n) 8 : Nat) - (127 : Int))
    | none => v
  else v

/-! Memory (R319, R333, R335). -/

/-- A matrix read as a vector load sees it. -/
def matMode : VMode where
  kind := 0
  nf := 1
  eew := 64
  ord := 0
  vd := 0
  vb := none
  strided := false
  mask := 0

/-- The accesses of a range, eight bytes each. -/
def matAccs (va n : Nat) : List VAcc :=
  (List.range ((n + 7) / 8)).map (fun i => { e := i, i := 0, va := va + 8 * i, n := min 8 (n - 8 * i) })

/-- The first place of a range where nothing can be read; the register window is no memory of a matrix load. -/
def matPlace (o : Op) (va n : Nat) : M Unit :=
  match lowest ((matAccs va n).filterMap (badPlace matMode o 0)) with
  | some (c, _, a) => trapM c (BitVec.ofNat 64 a)
  | none => pure ()

/-- Read a range in the space of the word, line by line. -/
def matRead (o : Op) (acc : Acc) (va n : Nat) : M (List Byte × List Bool) := whole do
  matPlace o va n
  scoreboard (if o.vmt = 1 then padWindow + va else va) n false
  (linePieces va (List.replicate n ())).foldlM (fun (r : List Byte × List Bool) p => do
    let y ← spaceRead acc o.vmt.toNat p.1 p.2.length
    pure (r.1 ++ y.1, r.2 ++ y.2)) ([], [])

/-- The probe of ranges, address and length, before any of them is read. -/
def matProbe (r : Nat) (o : Op) (acc : Acc) (l : List (Nat × Nat)) : M Unit :=
  asRow r o false (do
    l.forM (fun x => matPlace o x.1 x.2)
    probeSpace r o matMode acc (l.flatMap (fun x => matAccs x.1 x.2)))

/-! MTLOAD (R332, R335, R336). -/

/-- Scale bytes that a tile row brings: after its own row when it opens a block, read again from the block's first row where
the execution starts inside a block. -/
def mtScales (o : Op) (acc : Acc) (t : Tile) (base pitch k : Nat) : M (Nat × Bool) := do
  let x ← matRead o acc ((base + k / 32 * 32 * pitch + tileRowBytes t.fmt) % 2 ^ 64) (ownSide t.fmt)
  pure (leVal x.1, x.2.any id)

/-- Tile rows from k on, n of them. -/
def mtRows (r : Nat) (o : Op) (acc : Acc) (buf base pitch : Nat) : (n : Nat) → (k : Nat) → (first : Bool) → M Unit
  | 0, _, _ => pure ()
  | n + 1, k, first => do
    let t := (← theRow r).tile buf
    let (x, sc) ← whole do
      let x ← matRead o acc ((base + k * pitch) % 2 ^ 64) (tileRowBytes t.fmt)
      let sc ← if t.scaled && (k % 32 == 0 || first) then mtScales o acc t base pitch k
        else pure (keyed t.scales (k / 32) 0, false)
      pure (x, sc)
    progressed acc.agent
    let h ← theHart
    if t.fmt = 0x18 && h.cbt.isNone then trapM 0x03 o.sf.v
    if x.2.any id || sc.2 then trapM 0x0D (BitVec.ofNat 64 k)
    modR r (fun row =>
      let t := row.tile buf
      { row.setTile buf { t with
          rows := (k, leVal x.1) :: t.rows.filter (fun y => y.1 != k)
          scales := if t.scaled then (k / 32, sc.1) :: t.scales.filter (fun y => y.1 != k / 32) else [] } with
        mtrow := BitVec.ofNat 9 (k + 1) })
    mtRows r o acc buf base pitch n (k + 1) false

/-- mtload in a row. -/
def rowMtload (r : Nat) (o : Op) (buf : Nat) : M Nat := do
  let d := Desc.of o.sf.v
  let row ← theRow r
  let t := row.tile buf
  let k := row.mtrow.toNat
  let side := ownSide d.fb
  if descBad o.sf.v false || d.fd != 0 || !tilePaired d.fa d.fb d.bse
      || (k != 0 && (t.state != 1 || t.fmt != d.fb || t.scaled != d.bse)) then rowFormat r o
  if o.sa.v.toNat % 8 ≠ 0 ∨ o.sb.v.toNat % 8 ≠ 0 then rowTrap r o 0x06 o.sa.v
  if o.sa.poison || o.sb.poison || o.sf.poison then rowPoison r o 0 false
  if k = 0 then
    let keep := t.fmt == d.fb && t.scaled == d.bse
    modR r (fun row => row.setTile buf
      { state := 1, scaled := d.bse, fmt := d.fb, rows := if keep then t.rows else [], scales := if keep then t.scales else [] })
  let acc ← rowAcc r 1
  asRow r o true (mtRows r o acc buf o.sa.v.toNat o.sb.v.toNat (side - k) k true)
  modR r (fun row => { row.setTile buf { row.tile buf with state := 2 } with mtrow := 0 })
  pure 0

/-! Sums (R191, R193). -/

/-- Fraction bits of a format's significand: its leading bit is bit i = 0 of R193. -/
def sigBits (code : Nat) : Nat :=
  match fmtOf code with
  | some (.flt f) => f.m
  | _ => 4

/-- A product that keeps the significand terms i + j ≤ q (R193). `low` are the bits of weight below 2^−q that a timing error left
in place (R195). -/
def apxMul (q fa fb low : Nat) (x y : Val) : Val × Nat :=
  match x, y with
  | .fin a m e, .fin b n f =>
    let terms := (List.range (fa + 1)).flatMap (fun i => (List.range (fb + 1)).map (fun j =>
      if decide (i + j ≤ q) && bit m (fa - i) && bit n (fb - j) then 2 ^ (fa - i + (fb - j)) else 0))
    (.fin (a != b) (sumN terms + low % 2 ^ (fa + fb - q)) (e + f), 0)
  | x, y => x.mul y

/-- The exact sum of a chunk of products: a NaN product, or infinities of both signs, give the default NaN and invalid. -/
def chunkSum (l : List Val) : Val × Nat :=
  match l with
  | [] => (.fin false 0 0, 0)
  | x :: xs =>
    let t := xs.foldl (fun (a : Val) y => (a.add y false).1) x
    if t.isNan then (.nan false, 16) else (t, 0)

/-- One output element of R191: chunks of 32 products rounded once each, then added and rounded. -/
def mrowElem (mul : Nat → Val → Val → Val × Nat) (a w : Nat → Val) (side acc : Nat) : Nat × Nat :=
  (List.range (side / 32)).foldl (fun (s : Nat × Nat) c =>
    let ch := chunkSum ((List.range 32).map (fun i => (mul (32 * c + i) (a (32 * c + i)) (w (32 * c + i))).1))
    let c32 := roundFmt 0x10 0 false 0 ch.1
    let t := (decodeFmt 0x10 s.1).add (decodeFmt 0x10 c32.1) false
    let y := roundFmt 0x10 0 false 0 t.1
    (y.1, s.2 ||| ch.2 ||| c32.2 ||| t.2 ||| y.2)) (acc, 0)

/-- A row of A: its elements and block scales as bits, and the poison of the bytes of each. -/
structure ARow where
  x : Nat
  sc : Nat
  px : List Bool
  psc : List Bool
deriving DecidableEq, Repr

/-- The exact value of a(k). -/
def ARow.val (a : ARow) (code : Nat) (scaled : Bool) (k : Nat) : Val :=
  let v := decodeFmt code (bits a.x (fmtWidth code * k) (fmtWidth code))
  if scaled then
    if bits a.sc (8 * (k / 32)) 8 = 255 then .nan false else v.scale ((bits a.sc (8 * (k / 32)) 8 : Nat) - (127 : Int))
  else v

/-- Is a(k) poisoned? -/
def ARow.poisoned (a : ARow) (code : Nat) (scaled : Bool) (k : Nat) : Bool :=
  let w := fmtWidth code
  a.px.getD (w * k / 8) false || a.px.getD ((w * k + w - 1) / 8) false || (scaled && a.psc.getD (k / 32) false)

/-- The row of A in register va. -/
def Row.aRow (row : Row) (va : Nat) : ARow where
  x := row.getBits va 0 1024
  sc := row.getBits (va + 1) 0 64
  px := (List.range 128).map (fun i => row.bytePoison va i)
  psc := (List.range 8).map (fun i => row.bytePoison (va + 1) i)

/-! MROW and MROWM (R337, R338). -/

/-- Is the word approximate (R193)? -/
def Op.apx (o : Op) : Bool := BB o.hcr 2

/-- The index of the entry a row executes, and the entry. -/
def Hart.entryOf (h : Hart) (r : Nat) : Option Entry :=
  match h.rows[r]? with
  | some row => h.queue[row.qdone - h.qbase]?
  | none => none

/-- Under approximate mode the rows of a hart take an MROW in ascending order, once all have reached it: every older row is numbered, so that the
numbers follow R338. -/
def apxTurn (r : Nat) : M Unit := do
  let h ← theHart
  let at_ := (match h.rows[r]? with
    | some row => row.qdone
    | none => 0)
  waitUnless ((List.range h.rows.length).all (fun i => match h.rows[i]? with
    | some row => decide (at_ < row.qdone) || (decide (r ≤ i) && row.qdone == at_)
    | none => true))

/-- Change the entry a row executes. -/
def modEntry (r : Nat) (f : Entry → Entry) : M Unit :=
  modH (fun h => match h.rows[r]? with
    | some row => { h with queue := h.queue.modify (row.qdone - h.qbase) f }
    | none => h)

/-- Number a row of MROW or MROWM, in approximate mode or not: one more since APXQ was written (R194). The entry counts its rows, which join the
hart's count once it has committed in every row. -/
def apxNumber (r : Nat) : M Nat := do
  let h ← theHart
  modEntry r (fun e => { e with count := e.count + 1 })
  pure (h.apxRow + ((h.entryOf r).map Entry.count).getD 0)

/-- Count a checked row that differs (R194). The entry notes the first row whose count reached THRESH, as 1 + its index. -/
def apxCount (r : Nat) (o : Op) : M Unit := do
  let h ← theHart
  let c := min (2 ^ 32 - 1) (h.apxchk.toNat + 1)
  modH (fun h => { h with apxchk := BitVec.ofNat 32 c })
  if BF o.apxq 16 16 ≠ 0 ∧ BF o.apxq 16 16 ≤ c then modEntry r (fun e => if e.n = 0 then { e with n := 1 + r } else e)

/-- The products of this row that keep a timing error: output element, k and low bits, all free (R195, log 25, DESIGN CHOICE, safe). -/
def takeLeft (side : Nat) : M (List (Nat × Nat × Nat)) := do
  let s ← get
  set { s with leftErr := 0 }
  (List.range s.leftErr).mapM (fun _ => do
    let a ← freeWord
    let b ← freeWord
    let c ← freeWord
    pure (a.toNat % side, b.toNat % side, c.toNat))

/-- The low bits that a timing error leaves in product k of element n. -/
def leftLow (l : List (Nat × Nat × Nat)) (n k : Nat) : Nat :=
  match l.find? (fun x => x.1 == n && x.2.1 == k) with
  | some x => x.2.2
  | none => 0

/-- The effect of MROW in a row: the accumulator group, and the flags of its roundings. -/
def mrowRun (r : Nat) (o : Op) (vd buf : Nat) (d : Desc) (a : ARow) : M Nat := do
  let h ← theHart
  let row ← theRow r
  let t := row.tile buf
  let side := ownSide t.fmt
  let cbt := h.cbt.getD []
  match (List.range side).find? (fun k => a.poisoned d.fa d.bse k) with
  | some k => rowPoison r o k false
  | none => pure ()
  match (List.range side).find? (fun n => row.elemPoison vd 32 n) with
  | some n => rowPoison r o n false
  | none => pure ()
  let run (mul : Nat → Nat → Val → Val → Val × Nat) : List (Nat × Nat) := (List.range side).map (fun n =>
    mrowElem (mul n) (a.val d.fa d.bse) (fun k => t.weight cbt k n) side (row.elem vd 32 n))
  let exact := run (fun _ _ => Val.mul)
  let left ← if o.apx then takeLeft side else pure []
  let out := if o.apx then run (fun n k => apxMul (BF o.apxq 0 3) (sigBits d.fa) (sigBits t.fmt) (leftLow left n k)) else exact
  modR r (fun row => row.putElems vd 32 ((List.range side).map (fun n => { e := n, v := (out.getD n (0, 0)).1, p := false })))
  let fl := out.foldl (fun f x => f ||| x.2) 0
  raiseFlags fl false
  let number ← apxNumber r
  if o.apx && number % 2 ^ BF o.apxq 4 4 == 0 && out.map Prod.fst != exact.map Prod.fst then apxCount r o
  pure fl

/-- The checks of an MROW word at dispatch (R332, R337): groups, then the descriptor and the buffer. -/
def mrowSetup (r : Nat) (o : Op) (vd buf : Nat) (va : Option Nat) : M Desc := do
  let d := Desc.of o.sf.v
  let side := (tileSide d.fa).getD 32
  let g : Grp := { base := vd, regs := side / 32, w := 32 }
  let ga : Grp := { base := va.getD 0, regs := 1, w := 8, scaled := d.bse && fmtMX d.fa }
  if !g.ok || (va.isSome && (!ga.ok || g.meets { ga with regs := 1 + b2n ga.scaled })) then rowIllegal r o
  let row ← theRow r
  let t := row.tile buf
  if descBad o.sf.v true || (tileSide d.fa).isNone || d.fd != 0x10 || (d.bse && !fmtMX d.fa)
      || t.state != 2 || !tilePaired d.fa t.fmt t.scaled then rowFormat r o
  pure d

/-- The reads of the accumulator and of a row of A in a register. -/
def mrowReads (vd side : Nat) (w : Nat) (a : Option (Nat × Nat × Bool)) : List Rd :=
  (List.range side).map (fun n => { base := vd, w := w, e := n })
  ++ (match a with
      | some (va, wa, scaled) => { base := va, w := wa, e := 0 } :: (if scaled then [{ base := va + 1, w := 8, e := 0 }] else [])
      | none => [])

/-- mrow in a row. -/
def rowMrow (r : Nat) (o : Op) (vd va buf : Nat) : M Nat := do
  if o.apx then apxTurn r
  let d ← mrowSetup r o vd buf (some va)
  let row ← theRow r
  noteReads r o (mrowReads vd (ownSide (row.tile buf).fmt) 32 (some (va, fmtWidth d.fa, d.bse)))
  mrowRun r o vd buf d (row.aRow va)

/-- mrowm in a row: tile row r of the hart takes the block r of memory. -/
def rowMrowm (r : Nat) (o : Op) (vd buf : Nat) : M Nat := do
  if o.apx then apxTurn r
  let d ← mrowSetup r o vd buf none
  let row ← theRow r
  let side := ownSide (row.tile buf).fmt
  let va := (o.sa.v.toNat + r * (if d.bse then 192 else 128)) % 2 ^ 64
  -- the bytes that the row uses (R329, R337): its elements, and the block scales at offset 128
  let n := side * fmtWidth d.fa / 8
  let sc := ((va + 128) % 2 ^ 64, if d.bse then side / 32 else 0)
  let acc ← rowAcc r 1
  deadTrap r o (row.deadRead (mrowReads vd side 32 none))
  -- a poisoned base ends the check before its alignment is looked at (R319)
  if o.sa.poison || o.sf.poison then rowPoison r o 0 false
  if o.sa.v.toNat % 8 ≠ 0 then rowTrap r o 0x06 o.sa.v
  matProbe r o acc [(va, n), sc]
  let x ← asRow r o false (whole do
    let a ← matRead o acc va n
    let b ← if d.bse then matRead o acc sc.1 sc.2 else pure ([], [])
    pure (a, b))
  shuffleCount r (row.shuffles (mrowReads vd side 32 none))
  mrowRun r o vd buf d { x := leVal x.1.1, sc := leVal x.2.1, px := x.1.2, psc := x.2.2 }

/-! MROWX, MXRD, MXCLR (R192, R339 to R341). -/

/-- The bound of an FX64 element (R176). -/
def fxMax : Int := 2 ^ 63 - 1

/-- Products of one element added exactly in ascending k: the element, whether it saturated now, and invalid. -/
def mrowxElem (a w : Nat → Val) (x : Int) : Int × Bool × Nat :=
  (List.range 128).foldl (fun (s : Int × Bool × Nat) k =>
    if s.1 = fxMax ∨ s.1 = -fxMax then s else
    match (a k), (w k) with
    | .fin na ma ea, .fin nw mw ew =>
      let y := s.1 + unitsAt (na != nw) (ma * mw) (ea + ew + 20) 0
      if fxMax < y then (fxMax, true, s.2.2) else if y < -fxMax then (-fxMax, true, s.2.2) else (y, s.2)
    | _, _ => (fxMax, true, 16)) (x, false, 0)

/-- The integer of an FX64 element: the unused value reads as the negative saturated one. -/
def fxOf (x : Nat) : Int := max (-fxMax) (sext 64 x)

/-- mrowx in a row. -/
def rowMrowx (r : Nat) (o : Op) (vd va buf : Nat) : M Nat := do
  let d := Desc.of o.sf.v
  let g : Grp := { base := vd, regs := 8, w := 64 }
  let ga : Grp := { base := va, regs := 1, w := 8 }
  if !g.ok || g.meets ga then rowIllegal r o
  let row ← theRow r
  let t := row.tile buf
  if descBad o.sf.v true || d.fa != 0x13 || d.fd != 0x1F || d.bse || t.state != 2 || t.fmt != 0x13 || t.scaled then rowFormat r o
  let a := row.aRow va
  noteReads r o (mrowReads vd 128 64 (some (va, 8, false)))
  match (List.range 128).find? (fun k => a.poisoned 0x13 false k) with
  | some k => rowPoison r o k false
  | none => pure ()
  match (List.range 128).find? (fun n => row.elemPoison vd 64 n) with
  | some n => rowPoison r o n false
  | none => pure ()
  let out := (List.range 128).map (fun n => mrowxElem (a.val 0x13 false) (fun k => t.weight [] k n) (fxOf (row.elem vd 64 n)))
  let sat := out.any (fun x => x.2.1)
  let fl := out.foldl (fun f x => f ||| x.2.2) 0
  modR r (fun row =>
    let row := row.putElems vd 64 ((List.range 128).map (fun n => { e := n, v := wrapTo 64 (out.getD n (0, false, 0)).1, p := false }))
    if sat then { row with ovf := BitVec.ofNat 4 (setBits row.ovf.toNat (vd / 8) 1 1) } else row)
  raiseFlags fl sat
  pure fl

/-- mxrd in a row. -/
def rowMxrd (r : Nat) (o : Op) (vd va : Nat) : M Nat := do
  let d := Desc.of o.sf.v
  let gd : Grp := { base := vd, regs := max 1 (ceilDiv (128 * fmtWidth d.fd) 1024), w := fmtWidth d.fd }
  let ga : Grp := { base := va, regs := 8, w := 64 }
  if !ga.ok || ((fmtOf d.fd).isSome && (!gd.ok || gd.meets ga)) then rowIllegal r o
  if descBad o.sf.v true || d.fa != 0x1F || d.bse || !(d.fd == 0x10 || d.fd == 0x11 || d.fd == 0x12) then rowFormat r o
  let row ← theRow r
  noteReads r o (mrowReads va 128 64 none)
  match (List.range 128).find? (fun n => row.elemPoison va 64 n) with
  | some n => rowPoison r o n false
  | none => pure ()
  -- SR takes its bits for element index e, whatever the strip (R340)
  let p : Put := { g := gd, code := d.fd, mode := o.mode d, sat := d.sat, pc := o.pc, strip := 0 }
  let out := p.commit row ((List.range 128).map (fun e => (e, .val (decodeFmt 0x1F (row.elem va 64 e)), false)))
  modR r (fun _ => out.1)
  raiseFlags out.2.1 (BB row.ovf (va / 8))
  pure out.2.1

/-- mxclr in a row. -/
def rowMxclr (r : Nat) (o : Op) (va : Nat) : M Nat := do
  if va % 8 ≠ 0 then rowIllegal r o
  modR r (fun row =>
    { row.putElems va 64 ((List.range 128).map (fun n => { e := n, v := 0, p := false })) with
      ovf := BitVec.ofNat 4 (setBits row.ovf.toNat (va / 8) 1 0) })
  pure 0

/-! CBLOAD (R334). -/

/-- A buffer emptied when it holds a CB2 tile. -/
def Tile.dropCb2 (t : Tile) : Tile := if t.fmt = 0x18 then { t with state := 0 } else t

/-- The tags of a suspended row's CB2 tiles in its saved image, which become EMPTY (R334, R342). -/
def dropSaved (acc : Acc) (rb : Nat) (row : Row) : M Unit := do
  if row.cluster.isSome then pure () else
  let _ ← saveBytes acc (rb + 0x80) (leBytes 8 row.mt0.dropCb2.tag ++ leBytes 8 row.mt1.dropCb2.tag)

/-- cbload, once every row has reached it. -/
def allCbload (o : Op) : M Unit := do
  let base := o.sa.v.toNat
  -- a poisoned base ends the check before its alignment is looked at (R319)
  if o.sa.poison then rowPoison 0 o 0 false
  if base % 8 ≠ 0 then rowTrap 0 o 0x06 o.sa.v
  let acc ← rowAcc 0 1
  matProbe 0 o acc [(base, 2048)]
  let x ← asRow 0 o false (matRead o acc base 2048)
  let es := (List.range 256).map (fun i => leVal ((x.1.drop (8 * i)).take 8))
  match es.find? (fun e => e >>> 33 != 0) with
  | some e => rowTrap 0 o 0x03 (BitVec.ofNat 64 e)
  | none => pure ()
  match (List.range 256).find? (fun i => ((x.2.drop (8 * i)).take 8).any id) with
  | some i => rowPoison 0 o i false
  | none => pure ()
  let drop (row : Row) : Row := { row with mt0 := row.mt0.dropCb2, mt1 := row.mt1.dropCb2 }
  let h ← theHart
  let s ← get
  h.rows.zipIdx.forM (fun x => dropSaved (s.trapAcc h) (s.areaVA h + 0x8_2000 + x.2 * 0x1_2000) x.1)
  modH (fun h => { h with
    cbt := some es
    rows := h.rows.map drop
    img := h.img.map (fun (i : Image) => { i with rows := i.rows.map drop }) })

end Sys2Proof.Machine
end

