-- ==== Sys2Proof/Machine/Elem.lean ====
section
/-! DEFINITION. Which operation a queued word has in a row: the words that work on a row's elements (R160). -/

namespace Sys2Proof.Machine

/-- The arithmetic words, majors 0x18 to 0x25, that one row executes on its own; none for any other word. `lp` is the place
in the body of a VLOOP. -/
def arithOp (r : Nat) (o : Op) (lp : Option Nat) : Option (M Nat) :=
  match o.i with
  | .vaddI d a b _ m => some (rowAddI r o d a (some b) m)
  | .vaddIS d a _ _ m => some (rowAddI r o d a none m)
  | .vsubI d a b _ m => some (rowSubI r o d a (some b) m)
  | .vsubIS d a _ _ m => some (rowSubI r o d a none m)
  | .vmulI d a b _ m => some (rowMulI r o d a (some b) m)
  | .vmulIS d a _ _ m => some (rowMulI r o d a none m)
  | .vmulhI d a b _ m => some (rowMulhI r o d a (some b) m)
  | .vmulhIS d a _ _ m => some (rowMulhI r o d a none m)
  | .vminI d a b _ m => some (rowMinI r o d a (some b) m)
  | .vminIS d a _ _ m => some (rowMinI r o d a none m)
  | .vmaxI d a b _ m => some (rowMaxI r o d a (some b) m)
  | .vmaxIS d a _ _ m => some (rowMaxI r o d a none m)
  | .vmaccI d a b _ m => some (rowMaccI r o d a (some b) m)
  | .vmaccIS d a _ _ m => some (rowMaccI r o d a none m)
  | .vdivI d a b _ m => some (rowDivI r o d a (some b) m)
  | .vdivIS d a _ _ m => some (rowDivI r o d a none m)
  | .vaddF d a b _ m => some (rowAddF r o d a (some b) m)
  | .vaddFS d a _ _ m => some (rowAddF r o d a none m)
  | .vsubF d a b _ m => some (rowSubF r o d a (some b) m)
  | .vsubFS d a _ _ m => some (rowSubF r o d a none m)
  | .vmulF d a b _ m => some (rowMulF r o d a (some b) m)
  | .vmulFS d a _ _ m => some (rowMulF r o d a none m)
  | .vdivF d a b _ m => some (rowDivF r o d a (some b) m)
  | .vdivFS d a _ _ m => some (rowDivF r o d a none m)
  | .vminF d a b _ m => some (rowMinF r o d a (some b) m)
  | .vminFS d a _ _ m => some (rowMinF r o d a none m)
  | .vmaxF d a b _ m => some (rowMaxF r o d a (some b) m)
  | .vmaxFS d a _ _ m => some (rowMaxF r o d a none m)
  | .vfmaF d a b _ m => some (rowFmaF r o d a (some b) m)
  | .vfmaFS d a _ _ m => some (rowFmaF r o d a none m)
  | .vsqrtF d a _ m => some (rowSqrtF r o d a m)
  | .vand d a b m => some (rowAnd r o d a (some b) m)
  | .vandS d a _ m => some (rowAnd r o d a none m)
  | .vor d a b m => some (rowOr r o d a (some b) m)
  | .vorS d a _ m => some (rowOr r o d a none m)
  | .vxor d a b m => some (rowXor r o d a (some b) m)
  | .vxorS d a _ m => some (rowXor r o d a none m)
  | .vsll d a b m => some (rowSll r o d a (some b) m)
  | .vsllS d a _ m => some (rowSll r o d a none m)
  | .vsrl d a b m => some (rowSrl r o d a (some b) m)
  | .vsrlS d a _ m => some (rowSrl r o d a none m)
  | .vsra d a b m => some (rowSra r o d a (some b) m)
  | .vsraS d a _ m => some (rowSra r o d a none m)
  | .vnot d a m => some (rowNot r o d a m)
  | .vcmpeq d a b _ m => some (rowCompare 0 r o d a (some b) m)
  | .vcmpeqS d a _ _ m => some (rowCompare 0 r o d a none m)
  | .vcmpne d a b _ m => some (rowCompare 1 r o d a (some b) m)
  | .vcmpneS d a _ _ m => some (rowCompare 1 r o d a none m)
  | .vcmplt d a b _ m => some (rowCompare 2 r o d a (some b) m)
  | .vcmpltS d a _ _ m => some (rowCompare 2 r o d a none m)
  | .vcmple d a b _ m => some (rowCompare 3 r o d a (some b) m)
  | .vcmpleS d a _ _ m => some (rowCompare 3 r o d a none m)
  | .vcmpgt d a b _ m => some (rowCompare 4 r o d a (some b) m)
  | .vcmpgtS d a _ _ m => some (rowCompare 4 r o d a none m)
  | .vcmpge d a b _ m => some (rowCompare 5 r o d a (some b) m)
  | .vcmpgeS d a _ _ m => some (rowCompare 5 r o d a none m)
  | .vcmpun d a b _ m => some (rowCompare 6 r o d a (some b) m)
  | .vcmpunS d a _ _ m => some (rowCompare 6 r o d a none m)
  | .mand d a b => some (rowMand r d a b)
  | .mor d a b => some (rowMor r d a b)
  | .mxor d a b => some (rowMxor r d a b)
  | .mandn d a b => some (rowMandn r d a b)
  | .mnot d a => some (rowMnot r d a)
  | .vmerge d a b m => some (rowMerge r o d a b m)
  | .vmv d a m => some (rowMv r o d a m)
  | .vbcast d _ m => some (rowBcast r o d m)
  | .vcvt d a _ m => some (rowCvt r o d a m)
  | .vclass d a _ m => some (rowClass r o d a m)
  | .vrecpe d a _ m => some (rowRecpe r o d a m)
  | .vexp2e d a _ m => some (rowExp2e r o d a m)
  | .vsadd d a b _ m => some (rowSadd r o d a (some b) m)
  | .vsaddS d a _ _ m => some (rowSadd r o d a none m)
  | .vssub d a b _ m => some (rowSsub r o d a (some b) m)
  | .vssubS d a _ _ m => some (rowSsub r o d a none m)
  | .vsmul d a b _ m => some (rowSmul r o d a (some b) m)
  | .vsmulS d a _ _ m => some (rowSmul r o d a none m)
  | .vsmacc d a b _ m => some (rowSmacc r o d a (some b) m)
  | .vsmaccS d a _ _ m => some (rowSmacc r o d a none m)
  | .vssra d a b _ m => some (rowSsra r o d a (some b) m)
  | .vssraS d a _ _ m => some (rowSsra r o d a none m)
  | .vssrl d a b _ m => some (rowSsrl r o d a (some b) m)
  | .vssrlS d a _ _ m => some (rowSsrl r o d a none m)
  | .vnclip d a b _ m => some (rowNclip r o d a (some b) m)
  | .vnclipS d a _ _ m => some (rowNclip r o d a none m)
  | .vavg d a b _ m => some (rowAvg r o d a (some b) m)
  | .vavgS d a _ _ m => some (rowAvg r o d a none m)
  | .vredsumO d a b _ m => some (rowReduce 0 r o d a b m lp)
  | .vredsumU d a b _ m => some (rowReduce 1 r o d a b m lp)
  | .vredmin d a b _ m => some (rowReduce 2 r o d a b m lp)
  | .vredmax d a b _ m => some (rowReduce 3 r o d a b m lp)
  | .vredand d a b _ m => some (rowReduce 4 r o d a b m lp)
  | .vredor d a b _ m => some (rowReduce 5 r o d a b m lp)
  | .vredxor d a b _ m => some (rowReduce 6 r o d a b m lp)
  | .vscanO d a _ m => some (rowScan false r o d a m lp)
  | .vscanFast d a _ m => some (rowScan true r o d a m lp)
  | .viota d a m => some (rowIota r o d a m)
  | .vid d m => some (rowId r o d m)
  | .rnggen d _ _ m => some (rowRng r o d m)
  | _ => none

/-- Every word that a row executes on its own elements and that is a no-op at VL = 0. -/
def elemOp (r : Nat) (o : Op) (lp : Option Nat) : Option (M Nat) :=
  match o.i with
  | .vcompress d a m => some (rowCompress r o d a m)
  | .vexpand d a m => some (rowExpand r o d a m)
  | .vslideup d a _ m => some (rowSlideup r o d a m)
  | .vslidedn d a _ m => some (rowSlidedn r o d a m)
  | .vslide1up d a _ m => some (rowSlide1up r o d a m)
  | .vslide1dn d a _ m => some (rowSlide1dn r o d a m)
  | .vperm d a b m => some (rowPerm r o d a b m)
  | .vld d _ s m e => some (rowUnit 0 0 r o d s m e false)
  | .vldu d _ s m e => some (rowUnit 0 1 r o d s m e false)
  | .vldf d _ s m e => some (rowUnit 0 2 r o d s m e false)
  | .vst d _ s m e => some (rowUnit 1 0 r o d s m e false)
  | .vstu d _ s m e => some (rowUnit 1 1 r o d s m e false)
  | .vlds d _ _ s m e => some (rowUnit 0 0 r o d s m e true)
  | .vldsu d _ _ s m e => some (rowUnit 0 1 r o d s m e true)
  | .vldsf d _ _ s m e => some (rowUnit 0 2 r o d s m e true)
  | .vsts d _ _ s m e => some (rowUnit 1 0 r o d s m e true)
  | .vstsu d _ _ s m e => some (rowUnit 1 1 r o d s m e true)
  | .vldx d _ b m e => some (rowIndexed 0 0 r o d b m e)
  | .vldxu d _ b m e => some (rowIndexed 0 1 r o d b m e)
  | .vstx d _ b m e => some (rowIndexed 1 0 r o d b m e)
  | .vstxu d _ b m e => some (rowIndexed 1 1 r o d b m e)
  | .vamoaddI d _ b m e => some (rowAmo 0 r o d b m e false)
  | .vamoadduI d _ b m e => some (rowAmo 0 r o d b m e true)
  | .vamoaddF d _ b m e => some (rowAmo 1 r o d b m e false)
  | .vamoadduF d _ b m e => some (rowAmo 1 r o d b m e true)
  | .vamoswap d _ b m e => some (rowAmo 2 r o d b m e false)
  | .vamoswapu d _ b m e => some (rowAmo 2 r o d b m e true)
  | .vamomin d _ b m e => some (rowAmo 3 r o d b m e false)
  | .vamominu d _ b m e => some (rowAmo 3 r o d b m e true)
  | .vamomax d _ b m e => some (rowAmo 4 r o d b m e false)
  | .vamomaxu d _ b m e => some (rowAmo 4 r o d b m e true)
  | .vamoand d _ b m e => some (rowAmo 5 r o d b m e false)
  | .vamoandu d _ b m e => some (rowAmo 5 r o d b m e true)
  | .vamoor d _ b m e => some (rowAmo 6 r o d b m e false)
  | .vamooru d _ b m e => some (rowAmo 6 r o d b m e true)
  | .vamoxor d _ b m e => some (rowAmo 7 r o d b m e false)
  | .vamoxoru d _ b m e => some (rowAmo 7 r o d b m e true)
  | .mrow d a n _ => some (rowMrow r o d a n)
  | .mrowm d _ n _ => some (rowMrowm r o d n)
  | .mrowx d a n _ => some (rowMrowx r o d a n)
  | .mxrd d a _ => some (rowMxrd r o d a)
  | .mxclr a => some (rowMxclr r o a)
  | .swgt d b _ => some (rowSwgt r o d b)
  | .vsend a b m => some (rowVsend r o a b m)
  | _ => arithOp r o lp

end Sys2Proof.Machine
end

