-- ==== Sys2Proof/Machine/Agate.lean ====
section
/-! DEFINITION. Agate time-pyramid streams: major 0x3A and the merges of the combine units (R104 to R120, R373 to R376). -/

namespace Sys2Proof.Machine

/-! The record (R104, R105). -/

/-- ISIZE. -/
def stIsize (r : Nat) : Nat := bits r 0 8
/-- Levels of a stream. -/
def stLevels (r : Nat) : Nat := bits r 8 4 + 1
/-- Capacity of a level. -/
def stCap (r l : Nat) : Nat := bits r (64 + 8 * l) 8
/-- SEW of the combiner, in bits. -/
def stSew (r : Nat) : Nat := 8 * 2 ^ bits r 16 2
/-- Words of the combiner. -/
def stWords (r : Nat) : Nat := bits r 192 5 + 1
/-- Address of the combiner block. -/
def stComb (r : Nat) : Nat := bits r 199 50 * 128
/-- Address of the storage area. -/
def stStore (r : Nat) : Nat := bits r 400 45 * 4096

/-- Is a stream record malformed? -/
def streamMalformed (r : Nat) : Bool :=
  let known := sumN ([(0, 8), (8, 4), (16, 2), (64, 128), (192, 5), (199, 50), (256, 64), (320, 64), (400, 45)].map
    (fun (f : Nat × Nat) => bits r f.1 f.2 * 2 ^ f.1))
  known != r || decide (stIsize r < 2) || decide (128 < stIsize r) || stIsize r % (stSew r / 8) != 0
    || (List.range 16).any (fun l => if l < stLevels r then decide (stCap r l < 2) else stCap r l != 0)

/-- Bytes of a slot. -/
def slotBytes (r : Nat) : Nat := 32 + 32 * ceilDiv (stIsize r) 32

/-- Slots below a level's ring. -/
def slotsBelow (r l : Nat) : Nat := sumN ((List.range l).map (fun i => stCap r i + 2))

/-- Bytes of the storage area, whole pages. -/
def storeBytes (r : Nat) : Nat := ceilDiv (64 + slotsBelow r (stLevels r) * slotBytes r) 4096 * 4096

/-- Address of slot i of a level's ring. -/
def slotAddr (r l i : Nat) : Nat := stStore r + 64 + (slotsBelow r l + i) * slotBytes r

/-! Combiners (R111, R112). -/

/-- A word that may stand in a combiner block; none for the classes that R111 refuses. vcompress and vexpand are taken as cross-row
instructions (log 55, DEDUCED, unsafe). -/
def combWord (w : Nat) : Option Instr :=
  let i := match fieldAt w 26 6 with
    | 0x18 => decodeMajor18 w
    | 0x19 => decodeMajor19 w
    | 0x1A => decodeMajor1A w
    | 0x1B => decodeMajor1B w
    | 0x1C => decodeMajor1C w
    | 0x1D => decodeMajor1D w
    | 0x1E => decodeMajor1E w
    | 0x1F => decodeMajor1F w
    | 0x20 => decodeMajor20 w
    | 0x21 => decodeMajor21 w
    | 0x22 => decodeMajor22 w
    | 0x23 => decodeMajor23 w
    | 0x24 => decodeMajor24 w
    | 0x25 => decodeMajor25 w
    | _ => none
  match i.filter Instr.wf with
  | some (.vext _ _ _) => none
  | some (.mpopc _ _) => none
  | some (.mfirst _ _) => none
  | some (.vredsumU _ _ _ _ _) => none
  | some (.vscanFast _ _ _ _) => none
  | some (.vcompress _ _ _) => none
  | some (.vexpand _ _ _) => none
  | i => i

/-- A scalar register of a combiner: s4 holds K0, s5 holds K1, every other zero. -/
def combScalar (r : Nat) : Option Nat → Elem
  | some 4 => { v := BitVec.ofNat 64 (bits r 256 64) }
  | some 5 => { v := BitVec.ofNat 64 (bits r 320 64) }
  | _ => { v := 0 }

/-- A combiner word with what it reads: VXRM is round-to-nearest-even, FRM RNE, LMUL 1. -/
def combOp (r : Nat) (i : Instr) : Op :=
  let c := captures i
  { i := i, pc := 0, sa := combScalar r c.1, sb := combScalar r c.2.1, sc := combScalar r c.2.2.1, sf := combScalar r c.2.2.2,
    vtype := BitVec.ofNat 6 (bits r 16 2), vmt := 0, vxrm := 1, frm := 0, hcr := 0, apxq := 0, comb := true }

/-- Does the descriptor of a typed word select SR, form a group larger than one register (a scalar b forms no group), or have a vcvt decode CB2,
for which a combine unit has no table (R181)? -/
def combDescBad (r : Nat) (i : Instr) : Bool :=
  if (captures i).2.2.2.isNone then false else
  let o := combOp r i
  let d := Desc.of o.sf.v
  d.rnd == 5 || (match i with | .vcvt _ _ _ _ => d.fa == 0x18 | _ => false) || (d.fa :: d.fd :: (if (captures i).2.1.isNone then [d.fb] else [])).any (fun c => decide (1 < o.group (fmtWidth c)))

/-- Registers v8 to v31 read zero. -/
def Row.combClean (row : Row) : Row :=
  { row with
    v := Vector.ofFn (fun i : Fin 32 => if i.val < 8 then (row.v[i.val]?).getD 0 else 0)
    vpoison := Vector.ofFn (fun i : Fin 32 => if i.val < 8 then (row.vpoison[i.val]?).getD 0 else 0) }

/-- Run one word in row 0 of the current hart: its flags, with 32 for a poisoned compare. -/
def combOne (r w : Nat) : M Nat := do
  match (combWord w).bind (fun i => arithOp 0 (combOp r i) none) with
  | none => trapM 0x01 (BitVec.ofNat 64 w)
  | some x => do
    let f ← x
    modR 0 (fun row => { row.combClean with prog := none, vstart := 0 })
    pure f

/-- Run the words: their flags together, with 64 for a word that stopped, after which none runs. -/
def combGo (r : Nat) : List Nat → State → Nat × State
  | [], s => (0, s)
  | w :: ws, s =>
    match combOne r w s with
    | .ok f s => let x := combGo r ws s
                 (f ||| x.1, x.2)
    | .error _ s => (64, s)

/-- What a combiner makes of an older and a newer item. -/
structure Combined where
  data : BitVec 1024
  poison : BitVec 128
  flags : BitVec 5
  sat : Bool
  /-- a word stopped, which no block that PBIND accepts does -/
  stopped : Bool
deriving DecidableEq, Repr

/-- Run a combiner on an older and a newer item (R112): v2 as the words leave it. -/
def combine2 (s : State) (r : Nat) (words : List Nat) (x y : BitVec 1024 × BitVec 128) : Combined :=
  let n := stIsize r
  let h := s.newHart s.hartCtr 0 0 0 1 0 0 { core := 0, slot := 0, clusters := [0] }
  let row := Row.fresh (some 0) 0 0 0
  let row := { row with
    vl := BitVec.ofNat 11 (n * 8 / stSew r)
    v := (row.v.setIfInBounds 0 x.1).setIfInBounds 1 y.1
    vpoison := (row.vpoison.setIfInBounds 0 x.2).setIfInBounds 1 y.2 }
  let h := { h with rows := [row] }
  let z := combGo r words { s with harts := h :: s.harts, cur := s.hartCtr }
  let h := (z.2.hart? s.hartCtr).getD h
  let v2 := (h.home.v[2]?).getD 0
  let p2 := (h.home.vpoison[2]?).getD 0
  { data := BitVec.ofNat 1024 (bits v2.toNat 0 (8 * n))
    poison := BitVec.ofNat 128 (if bits z.1 5 1 = 1 then 2 ^ n - 1 else bits p2.toNat 0 n)
    flags := h.fflags
    sat := h.vxsat == 1
    stopped := bits z.1 6 1 == 1 }

/-- Does a combiner block break R111? The checks that a word's own entry makes at dispatch depend on no item: those it makes on zero items are all. -/
def State.badComb (s : State) (r : Nat) (words : List Nat) : Bool :=
  words.any (fun w => match combWord w with
    | none => true
    | some i => combDescBad r i)
  || (combine2 s r words (0, 0) (0, 0)).stopped

/-! Streams of a function. -/

/-- A bound stream. -/
def State.stream? (s : State) (fn h : Nat) : Option Stream := s.streams.find? (fun x => x.fn == fn && x.handle == h)

/-- Change a bound stream. -/
def State.modStream (s : State) (fn h : Nat) (f : Stream → Stream) : State :=
  { s with streams := s.streams.map (fun x => if x.fn == fn && x.handle == h then f x else x) }

/-- A stream that holds P(0). -/
def Stream.empty (fn h : Nat) (r : BitVec 512) (words : List Nat) : Stream where
  fn := fn
  handle := h
  record := r
  comb := words
  levels := (List.range (stLevels r.toNat)).map (fun l => { head := 0, items := [], stamps := List.replicate (stCap r.toNat l + 2) 0 })
  appends := 0
  sat := false
  flags := 0
  broken := false
  park := none

/-- A level of a stream. -/
def Stream.level (st : Stream) (l : Nat) : Level := st.levels.getD l { head := 0, items := [], stamps := [] }

/-- Ring index of the j-th oldest item of a level; the next free one for j = its number of items. -/
def Stream.ring (st : Stream) (l j : Nat) : Nat := ((st.level l).head + j) % (stCap st.record.toNat l + 2)

/-- The bytes that a slot of a level holds for an item. -/
def Stream.slotImage (st : Stream) (l i : Nat) (it : Item) : List Byte :=
  (List.range (slotBytes st.record.toNat)).map (fun k =>
    Config.agateSlot it.data it.first it.last it.count ((st.level l).stamps.getD i 0) k)

/-- A slot's stamp steps: a merge or discard emptied or filled it (R118). -/
def Stream.stampUp (st : Stream) (l i : Nat) : Stream :=
  { st with levels := st.levels.modify l (fun (v : Level) => { v with stamps := v.stamps.modify i (fun x => (x + 1) % 65536) }) }

/-- Write a slot with an item; poison of an item marks the whole slot. -/
def writeSlot (acc : Acc) (st : Stream) (l i : Nat) (it : Item) : M Unit := do
  let bs := st.slotImage l i it
  writeMem acc (slotAddr st.record.toNat l i) bs (List.replicate bs.length (it.poison != 0)) [0]

/-- Translate a slot that is to be written; where it parks, nothing of a step has been written. -/
def probeSlot (acc : Acc) (st : Stream) (l i : Nat) : M Unit :=
  probeMem acc (slotAddr st.record.toNat l i) (slotBytes st.record.toNat) true [0]

/-- Read the slot of the j-th item of a level: the item with the poison the memory has, or none where its check fails. -/
def readSlot (acc : Acc) (st : Stream) (l j : Nat) (it : Item) : M (Option Item) := do
  let i := st.ring l j
  let want := st.slotImage l i it
  let r ← readAny acc (slotAddr st.record.toNat l i) want.length [0]
  let n := stIsize st.record.toNat
  pure (if r.1 = want then
    some (if r.2.any id && it.poison == 0 then { it with poison := BitVec.ofNat 128 (2 ^ n - 1) } else it) else none)

/-- The item that the top level discards when one more arrives there: its ring index and it (R113). -/
def Stream.discarded (st : Stream) (l : Nat) : Option (Nat × Item) :=
  if l + 1 = stLevels st.record.toNat ∧ stCap st.record.toNat l ≤ (st.level l).items.length then
    ((st.level l).items.head?).map (fun it => (st.ring l 0, it))
  else none

/-- Place an item at the newest end of a level; a full top level discards its oldest (R113). -/
def Stream.place (st : Stream) (l : Nat) (it : Item) : Stream :=
  let st := { st with levels := st.levels.modify l (fun (v : Level) => { v with items := v.items ++ [it] }) }
  if l + 1 = stLevels st.record.toNat ∧ stCap st.record.toNat l < (st.level l).items.length then
    let i := st.ring l 0
    let st := st.stampUp l i
    { st with levels := st.levels.modify l (fun (v : Level) =>
      { v with head := (v.head + 1) % (stCap st.record.toNat l + 2), items := v.items.drop 1 }) }
  else st

/-- Take the two oldest items of a level. -/
def Stream.dropTwo (st : Stream) (l : Nat) : Stream :=
  let st := (st.stampUp l (st.ring l 0)).stampUp l (st.ring l 1)
  { st with levels := st.levels.modify l (fun (v : Level) =>
    { v with head := (v.head + 2) % (stCap st.record.toNat l + 2), items := v.items.drop 2 }) }

/-- Items of a stream, oldest first, with their levels. -/
def Stream.all (st : Stream) : List (Nat × Nat × Item) :=
  (List.range st.levels.length).reverse.flatMap (fun l =>
    let v := st.level l
    (List.range v.items.length).filterMap (fun j => (v.items[j]?).map (fun it => (l, j, it))))

/-- The newest accepted time. -/
def Stream.newest (st : Stream) : Nat :=
  match (st.level 0).items.getLast? with
  | some it => it.last.toNat
  | none => 0

/-! Merges still to run (R115, R375). -/

/-- Merges that R109 performs at a level for a number of arrivals there. -/
def mergesFor (cap arrivals : Nat) : Nat := (arrivals - cap + 1) / 2

/-- Merges run and merges due at the levels below the top, and discards at the top, for m appends: pairs, level by level.
`arr` and `due` are the arrivals at the level in the physical state and in P(m). -/
def Stream.progress (st : Stream) : (fuel l arr due : Nat) → List (Nat × Nat)
  | 0, _, _, _ => []
  | k + 1, l, arr, due =>
    let cap := stCap st.record.toNat l
    let size := (st.level l).items.length
    if l + 1 = stLevels st.record.toNat then [(arr - size, due - cap)]
    else
      let ran := (arr - size) / 2
      let want := mergesFor cap due
      (ran, want) :: st.progress k (l + 1) ran want

/-- Merges and discards of P(n) not yet run. -/
def Stream.pending (st : Stream) : Nat :=
  sumN ((st.progress 16 0 st.appends st.appends).map (fun x => x.2 - x.1))

/-- Have the merges and discards of P(m) run? -/
def Stream.synced (st : Stream) (m : Nat) : Bool := (st.progress 16 0 st.appends m).all (fun x => decide (x.2 ≤ x.1))

/-- The level whose merge is due: the lowest that holds more than its capacity, once the next has room (R113, R114). -/
def Stream.due (st : Stream) : Option Nat :=
  let r := st.record.toNat
  (List.range (stLevels r - 1)).find? (fun l =>
    decide (stCap r l < (st.level l).items.length)
      && (l + 2 == stLevels r || decide ((st.level (l + 1)).items.length < stCap r (l + 1) + 2)))

/-- A stream breaks: one record to the function's fault queue (R119). -/
def State.breakStream (s : State) (fn h cause : Nat) : State :=
  (s.modStream fn h (fun st => { st with broken := true, park := none })).fqRecord fn (0x30 + cause * 2 ^ 8 + h * 2 ^ 16)

/-! Merging (R113, R114, R88). -/

/-- The combine unit of a stream. -/
def combUnit (fn h : Nat) : Nat := (h + 17 * fn) % 64

/-- The requester of a stream's merges. -/
def mergeAcc (fn h : Nat) : Acc := baseAcc fn (combUnit fn h / 16) 3

/-- An item arrives at a level: its slot and, where it makes the top level discard one, that one's slot with its new stamp are
written (R118); then the stream holds it. `st` is the stream without it, and `others` are slots of emptied places with what they held. -/
def arriveAt (acc : Acc) (st : Stream) (l : Nat) (it : Item) (others : List (Nat × Nat × Item)) : M Stream := do
  let i := st.ring l (st.level l).items.length
  let gone := st.discarded l
  let st' := st.place l it
  let slots := (l, i, it) :: others ++ (match gone with
    | some (k, old) => [(l, k, old)]
    | none => [])
  slots.forM (fun x => probeSlot acc st' x.1 x.2.1)
  slots.forM (fun x => writeSlot acc st' x.1 x.2.1 x.2.2)
  pure st'

/-- One merge of level l: none where a slot fails its check. Where it parks or waits it has written nothing. -/
def mergeM (st : Stream) (l : Nat) : M (Option Stream) := whole do
  let acc := mergeAcc st.fn st.handle
  match (st.level l).items with
  | x :: y :: _ => do
    match ← readSlot acc st l 0 x, ← readSlot acc st l 1 y with
    | some x, some y => do
      let s ← get
      let z := combine2 s st.record.toNat st.comb (x.data, x.poison) (y.data, y.poison)
      let it : Item := { data := z.data, poison := z.poison, first := x.first, last := y.last, count := x.count + y.count }
      let low := st.dropTwo l
      let st' ← arriveAt acc (low.stampUp (l + 1) (low.ring (l + 1) (low.level (l + 1)).items.length)) (l + 1) it [(l, st.ring l 0, x), (l, st.ring l 1, y)]
      pure (some { st' with flags := st'.flags ||| z.flags, sat := st'.sat || z.sat })
    | _, _ => pure none
  | _ => pure (some st)

/-- The next merge of a stream runs, parks or breaks it. -/
def State.agateMerge (s : State) (fn h : Nat) : State :=
  match s.stream? fn h with
  | none => s
  | some st =>
    if st.broken then s else
    match st.park with
    | some p => if p.conv then s.breakStream fn h 1 else s
    | none =>
      match st.due with
      | none => s
      | some l =>
        match mergeM st l s with
        | .ok (some st') s' => s'.modStream fn h (fun _ => st')
        | .ok none s' => s'.breakStream fn h 2
        | .error (.park p) s' => if p.conv then s'.breakStream fn h 1 else s'.modStream fn h (fun st => { st with park := some p })
        | .error (.trap _) s' => s'.breakStream fn h 1
        | .error .wait s' => s'

/-- AGATE_MERGE (R113). -/
def execAgateMerge (fn h : Nat) (s : State) : Out State := .next (s.agateMerge fn h)

/-! PBIND, PFREE, PSYNC, PSTAT (R106, R107, R115, R375). -/

/-- The lowest free handle of a function. -/
def State.freeHandle (s : State) (fn : Nat) : Option Nat :=
  let used := (s.streams.filter (fun x => x.fn == fn)).map Stream.handle
  (List.range (min 65536 (used.length + 1))).find? (fun h => !used.contains h)

/-- Does a function hold as many streams as its quota allows? The physical function has none (R64). -/
def State.streamFull (s : State) (fn : Nat) : Bool :=
  fn != 0 && decide (BF (s.fn fn).vfcfg 96 17 ≤ (s.streams.filter (fun x => x.fn == fn)).length)

/-- PBIND: handle and status. With all 65,536 handles in use it answers QUOTA, whatever the quota (log 82, DESIGN CHOICE, unsafe). -/
def pbindM (a b : Nat) : M Unit := do
  destFree a
  let x ← rdS b
  let va := x.v.toNat
  checkAddr va 64
  outsideRegs va 64
  if x.poison then trapM 0x0D 0
  released
  fifoRoom 1
  let h ← theHart
  asUnit 0 do
    let s ← get
    let acc := { s.accOf h 3 with uncounted := true }
    let rb ← readAny acc va 64 [0]
    if rb.2.any id then trapM 0x0D 0
    let r := leVal rb.1
    if streamMalformed r then wrS a (BitVec.ofNat 64 (1 * 2 ^ 16))
    else do
      outsideRegs (stComb r) (4 * stWords r)
      let cb ← readAny acc (stComb r) (4 * stWords r) [0]
      if cb.2.any id then trapM 0x0D 0
      let words := (List.range (stWords r)).map (fun i => leVal ((cb.1.drop (4 * i)).take 4))
      let s ← get
      if s.badComb r words then wrS a (BitVec.ofNat 64 (2 * 2 ^ 16))
      else
        match s.freeHandle h.fn, s.streamFull h.fn with
        | some n, false => do
          probePages acc true [0] ((List.range (storeBytes r / 4096)).map (fun i => stStore r + 4096 * i))
          writeMem acc (stStore r) (List.replicate 64 0) (List.replicate 64 false) [0]
          modify (fun s => { s with streams := s.streams ++ [Stream.empty h.fn n (BitVec.ofNat 512 r) words] })
          wrS a (BitVec.ofNat 64 n)
        | _, _ => wrS a (BitVec.ofNat 64 (3 * 2 ^ 16))
    advance

/-- PBIND (R106). -/
def execPbind (a b : Nat) (s : State) : Out State := finish (pbindM a b) s

/-- A handle operand: bits above its width are zero (R373). -/
def handleOperand (b width : Nat) : M Word := do
  let x ← rdS b
  if BF x.v width (64 - width) ≠ 0 then trapM 0x03 x.v
  if x.poison then trapM 0x0D 0
  pure x.v

/-- Has Agate accepted a command of a hart to a handle that has not completed (R107): a PSYNC that waits for merges, or a PAPP or PLD that waits or is
parked on the storage area? -/
def Hart.agateBusy (h : Hart) (hd : Nat) : Bool := (h.psyncAt.map Prod.fst) == some hd || h.agateAt == some hd

/-- The stream that a command of hart h to a handle finds: none bound, or none any more for what reaches Agate after it accepted another hart's
PFREE (R107). -/
def State.bound? (s : State) (h : Hart) (hd : Nat) : Option Stream :=
  if s.harts.any (fun g => g.fn == h.fn && g.id != h.id && g.pfreeAt == some hd) && !h.agateBusy hd then none
  else s.stream? h.fn hd

/-- PFREE, once accepted, waits for the commands that Agate accepted before it; pending merges are abandoned. -/
def execPfree (b : Nat) (s : State) : Out State :=
  finish (do
    let x ← handleOperand b 16
    released
    fifoRoom 1
    let h ← theHart
    let s ← get
    if (s.bound? h x.toNat).isSome then do
      modH (fun h => { h with pfreeAt := some x.toNat })
      waitUnless (!s.harts.any (fun g => g.fn == h.fn && g.id != h.id && g.agateBusy x.toNat))
      modify (fun s => { s with streams := s.streams.filter (fun st => !(st.fn == h.fn && st.handle == x.toNat)) })
    modH (fun h => { h with pfreeAt := none })
    advance) s

/-- PSYNC: accepted once, then it waits for the merges of P(m). -/
def psyncM (b : Nat) : M Unit := do
  let x ← handleOperand b 16
  released
  fifoRoom 1
  let h ← theHart
  let s ← get
  match s.bound? h x.toNat with
  | none => do
    modH (fun h => { h with psyncAt := none })
    trapM 0x0E x 2
  | some st =>
    if st.broken then do
      modH (fun h => { h with psyncAt := none })
      trapM 0x0E x 3
    else do
      let m := match h.psyncAt with
        | some (hd, m) => if hd = x.toNat then m else st.appends
        | none => st.appends
      modH (fun h => { h with psyncAt := some (x.toNat, m) })
      waitUnless (st.synced m)
      modH (fun h => { h with psyncAt := none })
      advance

/-- PSYNC (R115). -/
def execPsync (b : Nat) (s : State) : Out State := finish (psyncM b) s

/-- PSTAT (R375). -/
def execPstat (a b : Nat) (s : State) : Out State :=
  finish (do
    destFree a
    let x ← handleOperand b 16
    released
    fifoRoom 1
    let h ← theHart
    let s ← get
    let w := match s.bound? h x.toNat with
      | none => 0
      | some st => st.flags.toNat + b2n st.sat * 2 ^ 5 + (if st.broken then 2 else 1) * 2 ^ 8
        + min 0xFFFF st.pending * 2 ^ 16 + st.appends % 2 ^ 32 * 2 ^ 32
    wrS a (BitVec.ofNat 64 w)
    advance) s

/-! PAPP (R109, R110, R114). -/

/-- PAPP: enters the queue once the earlier scalar stores are performed. -/
def execPapp (a b c : Nat) (s : State) : Out State :=
  finish (do
    let _ ← handleOperand a 16
    drained
    fifoRoom 1
    enqueueI (.papp a b c)) s

/-- papp in the home row. -/
def rowPapp (r : Nat) (o : Op) (vb : Nat) : M Nat := do
  let row ← theRow r
  deadTrap r o (row.deadRead [{ base := vb, w := 8, e := 0 }])
  if o.sc.poison then rowPoison r o 0 false
  let h ← theHart
  let s ← get
  let hd := o.sa.v.toNat
  match s.bound? h hd with
  | none => rowTrap r o 0x0E o.sa.v 2
  | some st => do
    if st.broken then rowTrap r o 0x0E o.sa.v 3
    if st.appends ≠ 0 ∧ o.sc.v.toNat ≤ st.newest then rowTrap r o 0x0E o.sa.v 1
    let rec_ := st.record.toNat
    let size := (st.level 0).items.length
    waitUnless (stLevels rec_ == 1 || decide (size < stCap rec_ 0 + 2))
    let n := stIsize rec_
    let it : Item := { data := BitVec.ofNat 1024 (bits ((row.v[vb]?).getD 0).toNat 0 (8 * n)),
                       poison := BitVec.ofNat 128 (bits ((row.vpoison[vb]?).getD 0).toNat 0 n),
                       first := o.sc.v, last := o.sc.v, count := 1 }
    let acc ← rowAcc r 3
    modH (fun h => { h with agateAt := some hd })
    let st' ← asRow r o false (whole (arriveAt acc st 0 it []))
    modify (fun s => s.modStream h.fn hd (fun _ => { st' with appends := st.appends + 1 }))
    modH (fun h => { h with agateAt := none })
    pure 0

/-! PLD (R116 to R118, R374). -/

/-- PLD: enters the queue once the earlier scalar stores are performed. -/
def execPld (a b c : Nat) (s : State) : Out State :=
  finish (do
    let _ ← handleOperand b 20
    drained
    fifoRoom 1
    enqueueI (.pld a b c)) s

/-- The item whose reach holds t, with its level and place; or the status that no item does. -/
def Stream.lookup (st : Stream) (t : Nat) : Except Nat (Nat × Nat × Item) :=
  match st.all with
  | [] => .error 1
  | x :: xs =>
    if t < x.2.2.first.toNat then .error 2
    else if st.newest < t then .error 3
    else .ok ((x :: xs).foldl (fun (b : Nat × Nat × Item) y => if y.2.2.first.toNat ≤ t then y else b) x)

/-- A register written whole. -/
def Row.putReg (row : Row) (n v tag : Nat) (p : BitVec 128) : Row :=
  { row.putBits n 0 1024 v tag with vpoison := row.vpoison.setIfInBounds n p }

/-- pld in the home row. -/
def rowPld (r : Nat) (o : Op) (vd : Nat) : M Nat := do
  if 30 < vd then rowIllegal r o
  if o.sc.poison then rowPoison r o 0 false
  let h ← theHart
  let s ← get
  let hd := BF o.sb.v 0 16
  let want := BF o.sb.v 16 4
  let fail (st : Nat) : M Nat := do
    modR r (fun row => row.putReg (vd + 1) st o.sew 0)
    pure 0
  match s.bound? h hd with
  | none => fail 4
  | some st =>
    if st.broken then fail 5 else
    match st.lookup o.sc.v.toNat with
    | .error e => fail e
    | .ok (l, j, it) => do
      let acc ← rowAcc r 3
      modH (fun h => { h with agateAt := some hd })
      let slot ← asRow r o false (readSlot acc st l j it)
      modH (fun h => { h with agateAt := none })
      match slot with
      | none => fail 6
      | some it => do
        let span := b2n (decide (l < want)) * 2 ^ 4 + b2n (decide (want < l)) * 2 ^ 5 + l * 2 ^ 12 + it.count * 2 ^ 16
        modR r (fun row => (row.putReg vd it.data.toNat o.sew it.poison).putReg (vd + 1)
          (span % 2 ^ 64 + it.first.toNat * 2 ^ 64 + it.last.toNat * 2 ^ 128) o.sew 0)
        pure 0

end Sys2Proof.Machine
end

