-- ==== Sys2Proof/Machine/Garnet.lean ====
section
/-! DEFINITION. Garnet KV paging: pools, sequences, commands and faults (R121 to R140). -/

namespace Sys2Proof.Machine

/-! A command's view of a function's tables, and its buffered writes (R121 to R123). -/

/-- A write that a command will perform when it ends OK; `rows` marks row and page data, which count for the gang. -/
structure KvWrite where
  fn : Nat
  level : Nat
  va : Nat
  bytes : List Byte
  poison : List Bool
  rows : Bool
deriving DecidableEq, Repr

/-- The writes of a command and its changes to ALLOC, by function. -/
structure KvTx where
  w : List KvWrite := []
  alloc : List (Nat × Int) := []
deriving DecidableEq, Repr

/-- A Garnet command: it ends with a value or with a status of R131, and buffers its writes. -/
abbrev KM := ExceptT Nat (StateT KvTx M)

/-- A pool: its function, the requester of its metadata accesses (supervisor level, R80), sizes and arrays. -/
structure KvPool where
  fn : Nat
  acc : Acc
  en : Bool
  rowsz : Nat
  np : Nat
  base : Nat
  nseq : Nat
  seqt : Nat
deriving DecidableEq, Repr

/-- Bytes of a token row. -/
def KvPool.rowBytes (v : KvPool) : Nat := 64 * 2 ^ v.rowsz
/-- Bytes of a page. -/
def KvPool.pageBytes (v : KvPool) : Nat := 1024 * 2 ^ v.rowsz
/-- The page table. -/
def KvPool.pt (v : KvPool) : Nat := v.seqt + 256 * v.nseq
/-- The reverse map. -/
def KvPool.rm (v : KvPool) : Nat := v.pt + 4 * v.np
/-- The free map. -/
def KvPool.fm (v : KvPool) : Nat := v.rm + 16 * v.np
/-- Bytes of the metadata area. -/
def KvPool.areaBytes (v : KvPool) : Nat := ceilDiv (256 * v.nseq + 20 * v.np + v.np / 8) 4096 * 4096

/-- The pool of a function, for a requester. -/
def State.kvPool (s : State) (acc : Acc) (f : Nat) : KvPool :=
  let g := s.fn f
  { fn := f, acc := { acc with fn := f, level := 1 }, en := BB g.kvpool 0, rowsz := BF g.kvpool 1 3, np := 2 ^ BF g.kvpool 8 5,
    base := BF g.kvpool 21 36 * 2 ^ 21, nseq := 2 ^ BF g.kvmeta 0 5, seqt := BF g.kvmeta 12 45 * 4096 }

/-- Bytes with a buffered write laid over them. -/
def KvWrite.over (f va : Nat) (r : List Byte × List Bool) (w : KvWrite) : List Byte × List Bool :=
  let n := r.1.length
  if w.fn ≠ f ∨ va + n ≤ w.va ∨ w.va + w.bytes.length ≤ va then r
  else
    let hit (i : Nat) : Bool := decide (w.va ≤ va + i) && decide (va + i < w.va + w.bytes.length)
    ((List.range n).map (fun i => if hit i then w.bytes.getD (va + i - w.va) 0 else r.1.getD i 0),
     (List.range n).map (fun i => if hit i then w.poison.getD (va + i - w.va) false else r.2.getD i false))

/-- Read through the command's own writes. -/
def kvRead (acc : Acc) (va n : Nat) : KM (List Byte × List Bool) := do
  let r ← (readAny acc va n [0] : M _)
  let t ← get
  pure (t.w.foldl (KvWrite.over acc.fn va) r)

/-- A little-endian number of the metadata area. Poison of its bytes is not looked at (log 83, DESIGN CHOICE, unsafe). -/
def KvPool.num (v : KvPool) (va n : Nat) : KM Nat := do
  let r ← kvRead { v.acc with uncounted := true } va n
  pure (leVal r.1)

/-- Buffer a write of the metadata area. -/
def KvPool.setNum (v : KvPool) (va n x : Nat) : KM Unit :=
  modify (fun t => { t with w := t.w ++ [⟨v.fn, 1, va, leBytes n x, List.replicate n false, false⟩] })

/-- Change ALLOC of a pool. -/
def KvPool.count (v : KvPool) (d : Int) : KM Unit := modify (fun t => { t with alloc := t.alloc ++ [(v.fn, d)] })

/-- ALLOC of a pool as the command sees it. -/
def KvPool.alloc (v : KvPool) : KM Int := do
  let s ← (get : M State)
  let t ← get
  pure ((t.alloc.filter (fun x => x.1 == v.fn)).foldl (fun (a : Int) x => a + x.2) ((s.fn v.fn).kvAlloc.toNat : Int))

/-- The pool is enabled and the sequence id in range. -/
def KvPool.ready (v : KvPool) (s : Nat) : KM Unit := do
  if !v.en then throw 1
  if v.nseq ≤ s then throw 2

/-! Pages (R126, R128, R138). -/

/-- REF and POISON of a page; a broken entry is CORRUPT. -/
def KvPool.page (v : KvPool) (pg : Nat) : KM (Nat × Bool) := do
  if v.np ≤ pg then throw 11
  let e ← v.num (v.pt + 4 * pg) 4
  if e >>> 17 ≠ 0 then throw 11
  pure (e % 65536, bit e 16)

/-- REF and POISON of a page that an extent names: REF is at least 1. -/
def KvPool.named (v : KvPool) (pg : Nat) : KM (Nat × Bool) := do
  let p ← v.page pg
  if p.1 = 0 then throw 11
  pure p

/-- Write a page-table entry. -/
def KvPool.setPage (v : KvPool) (pg ref : Nat) (poison : Bool) : KM Unit := v.setNum (v.pt + 4 * pg) 4 (ref + b2n poison * 2 ^ 16)

/-- The free bit of a page. -/
def KvPool.isFree (v : KvPool) (pg : Nat) : KM Bool := do
  let x ← v.num (v.fm + pg / 8) 1
  pure (bit x (pg % 8))

/-- Set or clear the free bit of a page. -/
def KvPool.setFree (v : KvPool) (pg : Nat) (b : Bool) : KM Unit := do
  let x ← v.num (v.fm + pg / 8) 1
  v.setNum (v.fm + pg / 8) 1 (setBits x (pg % 8) 1 (b2n b))

/-- The reverse-map entry of a page; a broken one is CORRUPT: a bit of no function, or in a virtual function's pool a bit of another (R126). -/
def KvPool.refs (v : KvPool) (pg : Nat) : KM Nat := do
  let x ← v.num (v.rm + 16 * pg) 16
  if x >>> 65 ≠ 0 ∨ (v.fn ≠ 0 ∧ x % 2 ^ v.fn + x >>> (v.fn + 1) ≠ 0) then throw 11
  pure x

/-- Function g has gained a reference to a page. -/
def KvPool.mark (v : KvPool) (pg g : Nat) : KM Unit := do
  let x ← v.refs pg
  v.setNum (v.rm + 16 * pg) 16 (setBits x g 1 1)

/-- Zero every line of a page, which clears its poison (R138). -/
def KvPool.zero (v : KvPool) (pg : Nat) : KM Unit :=
  modify (fun t => { t with w := t.w ++
    [⟨v.fn, 1, v.base + pg * v.pageBytes, List.replicate v.pageBytes 0, List.replicate v.pageBytes false, false⟩] })

/-- Take a free page; one that was marked POISON while it was free is zeroed first (R138). -/
def KvPool.take (v : KvPool) (pg : Nat) : KM Unit := do
  let p ← v.page pg
  if p.2 then v.zero pg
  v.setPage pg 1 false
  v.setFree pg false
  v.mark pg v.fn
  v.count 1

/-- Function g adds a reference to a page. -/
def KvPool.gain (v : KvPool) (g pg : Nat) : KM Unit := do
  let p ← v.named pg
  if 65535 ≤ p.1 then throw 6
  v.setPage pg (p.1 + 1) p.2
  v.mark pg g

/-- Where the tables map an address of a function's local memory, while a migration lasts too: asked of the translation service, with no access made. -/
def State.mappedAt (s : State) (f va : Nat) : Option Nat :=
  if va >>> 57 ≠ 0 then none else
  match s.walk f va with
  | .error _ => none
  | .ok l => match s.leafCheck f l [0] false false true with
    | some _ => none
    | none => some (ptePaddr l.pte + va % 2 ^ l.shift)

/-- The physical lines of a page, where it is mapped. -/
def KvPool.lines (v : KvPool) (s : State) (pg : Nat) : List Nat :=
  let n := min 4096 v.pageBytes
  (List.range (v.pageBytes / n)).flatMap (fun i =>
    match s.mappedAt v.fn (v.base + pg * v.pageBytes + i * n) with
    | some pa => (List.range (n / 64)).map (fun i => pa / 64 + i)
    | none => [])

/-- Does a page hold a retired row (R40)? -/
def KvPool.retired (v : KvPool) (pg : Nat) : M Bool := do
  let s ← get
  pure (!s.repair.retired.isEmpty && (v.lines s pg).any s.retiredLine)

/-- Drop a reference: a page at 0 returns to the free map, zeroed first if poisoned; one with a retired row stays out. -/
def KvPool.drop (v : KvPool) (pg : Nat) : KM Unit := do
  let p ← v.named pg
  if 1 < p.1 then v.setPage pg (p.1 - 1) p.2
  else do
    v.count (-1)
    if ← (v.retired pg : M Bool) then v.setPage pg 0 true
    else do
      if p.2 then v.zero pg
      v.setPage pg 0 false
      v.setFree pg true
      v.setNum (v.rm + 16 * pg) 16 0

/-- The lowest free run of h pages aligned to h, from page i on. -/
def KvPool.findRun (v : KvPool) (h : Nat) : (fuel : Nat) → (i : Nat) → KM (Option Nat)
  | 0, _ => pure none
  | k + 1, i =>
    if v.np ≤ i then pure none else do
      let n := min 512 (v.np - i)
      let x ← v.num (v.fm + i / 8) (max 1 (n / 8))
      match (List.range (n / h)).find? (fun j => bits x (j * h) h == 2 ^ h - 1) with
      | some j => pure (some (i + j * h))
      | none => v.findRun h k (i + 512)

/-- The lowest free aligned run. -/
def KvPool.run (v : KvPool) (h : Nat) : KM (Option Nat) := v.findRun h (v.np / 512 + 1) 0

/-! Sequences (R124, R125, R127). -/

/-- An extent: first page, blocks, and whether it lies in the physical function's pool. -/
structure KvExt where
  base : Nat
  len : Nat
  pool : Bool
deriving DecidableEq, Repr

/-- A sequence. -/
structure KvSeq where
  ntok : Nat
  l2 : Nat
  live : Bool
  ext : List KvExt
deriving DecidableEq, Repr

/-- The sequence of a 256-byte entry; none where it breaks R124 or R125. An entry that is not live describes nothing. An extent of the physical
function's own sequence with POOL = 1 is taken as broken (log 83, DESIGN CHOICE, unsafe). -/
def kvSeqOf (fn raw : Nat) : Option KvSeq :=
  let hdr := bits raw 1024 64
  if !bit hdr 48 then some ⟨0, 0, false, []⟩
  else
    let n := bits hdr 40 5
    let l2 := bits hdr 45 3
    let es := (List.range n).map (fun i => bits raw (64 * i) 64)
    let bad := raw >>> 1088 != 0 || hdr >>> 49 != 0 || decide (16 < n) || decide (4 < l2)
      || es.any (fun e => bit e 51 || bits e 53 11 != 0 || bits e 24 24 == 0 || bits e 48 3 != l2
          || bits e 0 24 % 2 ^ l2 != 0 || (fn == 0 && bit e 52))
    if bad then none else some ⟨bits hdr 0 40, l2, true, es.map (fun e => ⟨bits e 0 24, bits e 24 24, bit e 52⟩)⟩

/-- Read a sequence. -/
def KvPool.seq (v : KvPool) (s : Nat) : KM KvSeq := do
  let raw ← v.num (v.seqt + 256 * s) 256
  match kvSeqOf v.fn raw with
  | some q => pure q
  | none => throw 11

/-- Write a sequence. -/
def KvPool.setSeq (v : KvPool) (s : Nat) (q : KvSeq) : KM Unit :=
  let es := sumN ((List.range q.ext.length).map (fun i =>
    match q.ext[i]? with
    | some e => (e.base + e.len * 2 ^ 24 + q.l2 * 2 ^ 48 + b2n e.pool * 2 ^ 52) * 2 ^ (64 * i)
    | none => 0))
  v.setNum (v.seqt + 256 * s) 256
    (if q.live then es + (q.ntok + q.ext.length * 2 ^ 40 + q.l2 * 2 ^ 45 + 2 ^ 48) * 2 ^ 1024 else 0)

/-- A live sequence. -/
def KvPool.liveSeq (v : KvPool) (s : Nat) : KM KvSeq := do
  v.ready s
  let q ← v.seq s
  if !q.live then throw 3
  pure q

/-- The extent that holds a block: its place, and the block within it. -/
def blockOf (b : Nat) : List KvExt → (x start : Nat) → Option (Nat × Nat)
  | [], _, _ => none
  | e :: es, x, start => if b < start + e.len then some (x, b - start) else blockOf b es (x + 1) (start + e.len)

/-- The pool of an extent. -/
def KvPool.of (v : KvPool) (e : KvExt) : KM KvPool := do
  if e.pool then do
    let s ← (get : M State)
    pure (s.kvPool v.acc 0)
  else pure v

/-- First page of a block and its pool; `st` is the status where no extent holds the block. -/
def KvPool.block (v : KvPool) (q : KvSeq) (b st : Nat) : KM (KvPool × Nat × KvExt) := do
  match blockOf b q.ext 0 0 with
  | none => throw st
  | some (x, i) =>
    match q.ext[x]? with
    | none => throw st
    | some e => do
      let w ← v.of e
      pure (w, e.base + i * 2 ^ q.l2, e)

/-- kv_row_va, with the pool it lies in and its page (R127). -/
def KvPool.rowVa (v : KvPool) (q : KvSeq) (g p : Nat) : KM (KvPool × Nat × Nat) := do
  let (w, first, _) ← v.block q (p / 16) 11
  let pg := first + g
  pure (w, pg, w.base + pg * (1024 * 2 ^ v.rowsz) + p % 16 * v.rowBytes)

/-- Every page that a sequence names, with its pool. -/
def KvPool.pages (v : KvPool) (q : KvSeq) : KM (List (KvPool × Nat)) :=
  q.ext.foldlM (fun (l : List (KvPool × Nat)) e => do
    let w ← v.of e
    pure (l ++ (List.range (e.len * 2 ^ q.l2)).map (fun i => (w, e.base + i)))) []

/-! Ending a command (R130, R131). -/

/-- Perform the writes of a command that ended OK: every one is translated before any is performed. -/
def kvCommit (acc : Acc) (t : KvTx) : M Unit := do
  let plan ← t.w.foldlM (fun (l : List (Xl × Bool × List (Byte × Bool))) w =>
    (linePieces w.va (w.bytes.zip w.poison)).foldlM (fun (l : List (Xl × Bool × List (Byte × Bool))) p => do
      let x ← xlate { acc with fn := w.fn, level := w.level } p.1 true [0]
      pure (l ++ [(x, w.rows, p.2)])) l) []
  plan.forM (fun p => match p.1.dest with
    | .localM pa => snoopClear pa p.2.2.length
    | _ => pure ())
  plan.forM (fun p => match p.1.dest with
    | .localM pa => do
      homeWrite pa (p.2.2.map Prod.fst) (p.2.2.map Prod.snd)
      account { acc with uncounted := !p.2.1 } p.1 pa p.2.2.length
    | _ => pure ())
  modify (fun s => t.alloc.foldl (fun (s : State) x =>
    s.modFn x.1 (fun g => { g with kvAlloc := BitVec.ofNat 32 ((g.kvAlloc.toNat : Int) + x.2).toNat })) s)

/-- Run a command: its value, or its status with nothing changed. -/
def kvRun (acc : Acc) (x : KM α) : M (Except Nat α) := do
  let r ← (x.run).run {}
  match r.1 with
  | .ok a => do
    kvCommit acc r.2
    pure (.ok a)
  | .error st => pure (.error st)

/-- The status of a command. -/
def kvStatus (acc : Acc) (x : KM Unit) : M Nat := do
  match ← kvRun acc x with
  | .ok _ => pure 0
  | .error st => pure st

/-! Garnet faults (R129). -/

/-- Park the command under an entry of its own, with its record. With the queue disabled it is converted at once. -/
def kvFault (acc : Acc) (cause seq pos page : Nat) : M α := do
  let s ← get
  let va := BitVec.ofNat 64 (seq + pos * 2 ^ 20)
  if !BB (s.fn acc.fn).fqcfg 0 then throw (.park { fid := 0, kv := true, cause := cause, va := va, pos := pos, conv := true })
  match (List.range 256).find? (fun i => !s.faults.any (fun o => o.fid == acc.die * 256 + i)) with
  | none => waitM
  | some i => do
    let fid := acc.die * 256 + i
    let r := 0x40 + cause * 2 ^ 8 + fid * 2 ^ 32 + seq * 2 ^ 64 + pos * 2 ^ 88 + acc.core * 2 ^ 128 + acc.slot * 2 ^ 136
      + (if cause = 1 then page * 2 ^ 160 else 0)
    let s := { s with faults := s.faults ++ [(⟨fid, acc.fn, 0, cause, true⟩ : OpenFault)] }
    set (s.fqRecord acc.fn r)
    throw (.park { fid := fid, kv := true, cause := cause, va := va, pos := pos })

/-! Poison in shared pages (R136). -/

/-- A page becomes POISON: the functions that are told of it, the owner and every one that has a reference (R136). A free page with a retired
row leaves the free map (R138), be it POISON already. -/
def KvPool.contain (v : KvPool) (pg : Nat) : KM (List Nat) := do
  let p ← v.page pg
  if p.1 = 0 then
    if ← (v.retired pg : M Bool) then v.setFree pg false
  if p.2 then pure []
  else do
    let m ← v.refs pg
    v.setPage pg p.1 true
    pure ((List.range 65).filter (fun f => f == v.fn || bit m f))

/-- The containment record of a page and vector 1, for each function told (R136). -/
def State.kvNotify (s : State) (owner pg : Nat) (fs : List Nat) : State :=
  fs.foldl (fun (s : State) f => (s.fqRecord f (0x41 + owner * 2 ^ 16 + pg * 2 ^ 64)).msix f 1) s

/-- Garnet marks a page of a function's pool POISON. Where its accesses wait or park, the marking stays due. -/
def State.kvContain (s : State) (owner pg : Nat) : State :=
  let v := s.kvPool (baseAcc owner 0 4) owner
  match whole (kvRun v.acc (v.contain pg)) s with
  | .ok (.ok fs) t => t.kvNotify owner pg fs
  | .ok (.error _) t => t
  | .error (.park p) t => { t with kvMarks := t.kvMarks ++ [(owner, pg, if p.conv then none else some p.fid)] }
  | .error _ t => { t with kvMarks := t.kvMarks ++ [(owner, pg, none)] }

/-- The markings that are due and under no open fault are tried again. -/
def State.kvRetry (s : State) : State :=
  let stays := fun (x : Nat × Nat × Option Nat) => s.faults.any (fun o => some o.fid == x.2.2)
  (s.kvMarks.filter (fun x => !stays x)).foldl (fun (s : State) x => s.kvContain x.1 x.2.1) { s with kvMarks := s.kvMarks.filter stays }

/-- The pages of a function's pool that hold a physical line. -/
def State.kvPagesOf (s : State) (f line : Nat) : List Nat :=
  let v := s.kvPool (baseAcc f 0 4) f
  if !v.en then [] else
  (List.range v.np).filter (fun pg => (v.lines s pg).contains line)

/-- A RAS event names a line: every pool page that holds it becomes POISON. -/
def State.kvRasLine (s : State) (line : Nat) : State :=
  (List.range 65).foldl (fun (s : State) f => (s.kvPagesOf f line).foldl (fun s pg => s.kvContain f pg) s) s

/-! KVAPP (R128, R132). -/

/-- Allocate the block of position p for a sequence, in the order of R128. `none` raises no fault; a fault names its cause. -/
def KvPool.allocate (v : KvPool) (quota : Option Nat) (q : KvSeq) : KM (Except Nat KvSeq) := do
  let h : Nat := 2 ^ q.l2
  let a ← v.alloc
  if quota.any (fun k => decide ((k : Int) < a + h)) then pure (.error 2)
  else do
    let next ← match q.ext.getLast? with
      | some e =>
        let nb := e.base + e.len * h
        if e.pool ∨ v.np < nb + h then pure none
        else do
          let free ← (List.range h).mapM (fun i => v.isFree (nb + i))
          pure (if free.all id then some nb else none)
      | none => pure none
    match next with
    | some nb => do
      (List.range h).forM (fun i => v.take (nb + i))
      pure (.ok { q with ext := q.ext.dropLast ++ (q.ext.getLast?.map (fun e => { e with len := e.len + 1 })).toList })
    | none =>
      match ← v.run h with
      | none => pure (.error 3)
      | some b =>
        if 16 ≤ q.ext.length then pure (.error 4)
        else do
          (List.range h).forM (fun i => v.take (b + i))
          pure (.ok { q with ext := q.ext ++ [⟨b, 1, false⟩] })

/-- KVQ of a function; the physical function has no quota (R64). -/
def State.kvQuota (s : State) (f : Nat) : Option Nat := if f = 0 then none else some (BF (s.fn f).vfcfg 64 32)

/-- Bytes from byte 0 of a register run, and their poison. -/
def Row.runBytes (row : Row) (base n : Nat) : List Byte × List Bool :=
  ((List.range (ceilDiv n 128)).flatMap (fun i => leBytes (min 128 (n - 128 * i)) ((row.v[base + i]?).getD 0).toNat),
   (List.range n).map (row.bytePoison base))

/-- The command of a KVAPP on sequence s with h rows in registers from va: a Garnet fault is answered as its cause, position
and page. -/
def kvAppend (acc : Acc) (row : Row) (s h va : Nat) : KM (Except (Nat × Nat × Nat) Unit) := do
  let st ← (get : M State)
  let v := st.kvPool acc acc.fn
  v.ready s
  let q ← v.seq s
  if q.live && q.ntok % 16 != 0 then do
    let (w, first, _) ← v.block q (q.ntok / 16) 11
    (List.range (2 ^ q.l2)).forM (fun g => do let _ ← w.named (first + g))
  if !([1, 2, 4, 8, 16].contains h) || (q.live && h != 2 ^ q.l2) || decide (32 < va + ceilDiv (h * v.rowBytes) 128) then throw 5
  let q := if q.live then q else { ntok := 0, l2 := Nat.log2 h, live := true, ext := [] }
  let p := q.ntok
  let r : Except (Nat × Nat × Nat) KvSeq ← if p % 16 = 0 then do
      match ← v.allocate (st.kvQuota acc.fn) q with
      | .ok q' => pure (Except.ok q')
      | .error c => pure (Except.error (c, p, 0))
    else do
      let (w, first, _) ← v.block q (p / 16) 11
      let refs ← (List.range h).mapM (fun g => w.named (first + g))
      pure (if refs.any (fun x => decide (1 < x.1)) then Except.error (1, p, first) else Except.ok q)
  match r with
  | .error f => pure (.error f)
  | .ok q => do
    let data := row.runBytes va (h * v.rowBytes)
    (List.range h).forM (fun g => do
      let (w, _, a) ← v.rowVa q g p
      modify (fun (t : KvTx) => { t with w := t.w ++ [⟨w.fn, acc.level, a, (data.1.drop (g * v.rowBytes)).take v.rowBytes,
        (data.2.drop (g * v.rowBytes)).take v.rowBytes, true⟩] }))
    v.setSeq s { q with ntok := p + 1 }
    pure (.ok ())

/-! KVFORK, KVREL, KVCOW (R132). -/

/-- KVFORK within a function. -/
def kvFork (acc : Acc) (d s : Nat) : KM Unit := do
  let st ← (get : M State)
  let v := st.kvPool acc acc.fn
  v.ready d
  v.ready s
  let q ← v.seq s
  let t ← v.seq d
  let ps ← v.pages q
  ps.forM (fun p => do
    let _ ← p.1.named p.2
    let _ ← p.1.refs p.2)
  if !q.live then throw 3
  if t.live then throw 4
  ps.forM (fun p => p.1.gain v.fn p.2)
  v.setSeq d q

/-- The manager form: from the physical function to sequence d of function f. -/
def kvForkM (acc : Acc) (f d s : Nat) : KM Unit := do
  let st ← (get : M State)
  let v := st.kvPool acc 0
  let w := st.kvPool acc f
  if !w.en then throw 1
  v.ready s
  w.ready d
  let q ← v.seq s
  let t ← w.seq d
  let ps ← v.pages q
  ps.forM (fun p => do
    let _ ← p.1.named p.2
    let _ ← p.1.refs p.2)
  if !q.live then throw 3
  if t.live then throw 4
  if v.rowsz ≠ w.rowsz then throw 5
  ps.forM (fun p => v.gain f p.2)
  w.setSeq d { q with ext := q.ext.map (fun e => { e with pool := true }) }

/-- KVREL. -/
def kvRelease (acc : Acc) (f s : Nat) : KM Unit := do
  let st ← (get : M State)
  let v := st.kvPool acc f
  let q ← v.liveSeq s
  let ps ← v.pages q
  ps.forM (fun p => p.1.drop p.2)
  v.setSeq s { q with live := false }

/-- Put an extent beside another where they are adjacent in the pool. -/
def joinExt (h : Nat) (a b : KvExt) : Option KvExt :=
  if a.pool == b.pool && a.base + a.len * h == b.base then some { a with len := a.len + b.len } else none

/-- Extents after block i of extent x has moved to a run at nb: split, and the new run merged with its neighbours. -/
def splitExt (h x i nb : Nat) (l : List KvExt) : List KvExt :=
  match l[x]? with
  | none => l
  | some e =>
    let left := l.take x ++ (if i = 0 then [] else [{ e with len := i }])
    let right := (if i + 1 = e.len then [] else [{ e with base := e.base + (i + 1) * h, len := e.len - i - 1 }]) ++ l.drop (x + 1)
    let new : KvExt := ⟨nb, 1, false⟩
    let (left, new) := match left.getLast?.bind (fun p => joinExt h p new) with
      | some j => (left.dropLast, j)
      | none => (left, new)
    let (new, right) := match right.head?.bind (fun p => joinExt h new p) with
      | some j => (j, right.drop 1)
      | none => (new, right)
    left ++ [new] ++ right

/-- KVCOW: pages found poisoned by its own reads are answered, with the functions told. They are POISON before the old pages are dropped. -/
def kvCow (acc : Acc) (s p : Nat) : KM (List (Nat × Nat × List Nat)) := do
  let st ← (get : M State)
  let v := st.kvPool acc acc.fn
  let q ← v.liveSeq s
  let h : Nat := 2 ^ q.l2
  match blockOf (p / 16) q.ext 0 0 with
  | none => throw 5
  | some (x, i) => do
    let (w, first, _) ← v.block q (p / 16) 5
    let refs ← (List.range h).mapM (fun g => w.named (first + g))
    if refs.all (fun r => r.1 == 1) then throw 9
    if refs.any Prod.snd then throw 12
    let a ← v.alloc
    if (st.kvQuota acc.fn).any (fun k => decide ((k : Int) < a + h)) then throw 8
    match ← v.run h with
    | none => throw 15
    | some nb => do
      let es := splitExt h x i nb q.ext
      (List.range h).forM (fun g => do let _ ← v.refs (nb + g))
      if 16 < es.length then throw 7
      (List.range h).forM (fun g => v.take (nb + g))
      let bad ← (List.range h).foldlM (fun (bad : List (Nat × Nat × List Nat)) g => do
        let r ← kvRead { w.acc with level := acc.level } (w.base + (first + g) * v.pageBytes) v.pageBytes
        modify (fun (t : KvTx) => { t with w := t.w ++
          [⟨v.fn, acc.level, v.base + (nb + g) * v.pageBytes, r.1, r.2, true⟩] })
        if r.2.any id then do
          let fs ← w.contain (first + g)
          pure (bad ++ [(w.fn, first + g, fs)])
        else pure bad) []
      (List.range h).forM (fun g => w.drop (first + g))
      v.setSeq s { q with ext := es }
      pure bad

/-! Reading rows (R127, R132, R133, R137). -/

/-- KVMAP: the address of a row. -/
def kvMap (acc : Acc) (s g p : Nat) : KM Nat := do
  let st ← (get : M State)
  let v := st.kvPool acc acc.fn
  let q ← v.liveSeq s
  if q.ntok ≤ p ∨ 2 ^ q.l2 ≤ g then throw 5
  let (w, _, a) ← v.rowVa q g p
  if w.fn ≠ v.fn then throw 10
  pure a

/-- Places of n rows from position p: requester, pool function, page and address of each. -/
def kvPlaces (acc : Acc) (v : KvPool) (q : KvSeq) (g p n : Nat) : KM (List (Acc × Nat × Nat × Nat)) :=
  (List.range n).mapM (fun i => do
    let (w, pg, a) ← v.rowVa q g (p + i)
    pure ({ acc with fn := w.fn }, w.fn, pg, a))

/-- Is one of the pages poisoned? -/
def kvPoisoned (acc : Acc) (ps : List (Acc × Nat × Nat × Nat)) : KM Bool := do
  let st ← (get : M State)
  let fs ← ((ps.map (fun x => (x.2.1, x.2.2.1))).eraseDups).mapM (fun x => do
    let r ← (st.kvPool acc x.1).named x.2
    pure r.2)
  pure (fs.any id)

/-- Read rows whose places are known: every page is translated first. Bytes, poison, and the pages a read found poisoned. -/
def kvRows (rowBytes : Nat) (ps : List (Acc × Nat × Nat × Nat)) : M (List Byte × List Bool × List (Nat × Nat)) := do
  match ps with
  | [] => pure ([], [], [])
  | (a, _) :: _ => do
    ((ps.map (fun x => x.2.1)).eraseDups).forM (fun f =>
      probePages { a with fn := f } false [0] (((ps.filter (fun x => x.2.1 == f)).map (fun x => x.2.2.2 / 4096 * 4096)).eraseDups))
    ps.foldlM (fun (got : List Byte × List Bool × List (Nat × Nat)) x => do
      let r ← readAny x.1 x.2.2.2 rowBytes [0]
      let bad := if r.2.any id then got.2.2 ++ [(x.2.1, x.2.2.1)] else got.2.2
      pure (got.1 ++ r.1, got.2.1 ++ r.2, bad)) ([], [], [])

/-- Garnet's own reads found pages poisoned (R136). -/
def kvFound (l : List (Nat × Nat)) : M Unit := modify (fun s => l.eraseDups.foldl (fun s x => s.kvContain x.1 x.2) s)

/-- Write bytes from byte b of a register run, with the layout tag of the write. -/
def Row.putBytes (row : Row) (base : Nat) (bs : List Byte) (ps : List Bool) (tag : Nat) : Row :=
  let row := (List.range (ceilDiv bs.length 128)).foldl (fun (row : Row) i =>
    let c := (bs.drop (128 * i)).take 128
    row.putBits (base + i) 0 (8 * c.length) (leVal c) tag) row
  (List.range ps.length).foldl (fun (row : Row) i => row.setBytePoison base i (ps.getD i false)) row

end Sys2Proof.Machine
end

