-- ==== Sys2Proof/Machine/KvWords.lean ====
section
/-! DEFINITION. Garnet words, major 0x3B; batch loads; pool initialisation; resets (R122, R131 to R135, R140, R377 to R380). -/

namespace Sys2Proof.Machine

/-- The requester of a hart's Garnet commands. -/
def kvAcc : M Acc := do
  let h ← theHart
  let s ← get
  pure (s.accOf h 4)

/-- Commands wait while the pool of a function initialises (R122). -/
def kvIdle (f : Nat) : M Unit := do
  let s ← get
  waitUnless (!(s.fn f).kvBusy)

/-- A sequence operand: bits above its fields are zero (R377). -/
def seqOperand (b : Nat) (width : Nat) : M Word := do
  let x ← rdS b
  if BF x.v width (64 - width) ≠ 0 then trapM 0x03 x.v
  if x.poison then trapM 0x0D 0
  pure x.v

/-- KVMAP. -/
def kvmapM (a b c : Nat) : M Unit := do
  destFree a
  let x ← seqOperand b 24
  let y ← useS c
  released
  fifoRoom 1
  let acc ← kvAcc
  kvIdle acc.fn
  match ← kvRun acc (kvMap acc (BF x 0 20) (BF x 20 4) y.toNat) with
  | .ok va => wrS a (BitVec.ofNat 64 va)
  | .error st => wrS a (BitVec.ofNat 64 (2 ^ 63 + st))
  advance

/-- KVMAP (R132, R377). -/
def execKvmap (a b c : Nat) (s : State) : Out State := finish (kvmapM a b c) s

/-- Room in q1 for a command and its status word (R169, R378). -/
def statusRoom : M Unit := fifoRoom 1

/-- Put the status word of a command into the FIFO. -/
def pushStatus (st : Nat) : M Unit :=
  pushCmd 1 { w := BitVec.ofNat 64 st, query := false, after := [], res := some (BitVec.ofNat 64 st) }

/-- A command waits to issue while q5 holds 16 entries (R378). -/
def q5Room : M Unit := do
  let h ← theHart
  waitUnless (decide (((h.outq[1]?).getD []).length < 16))

/-- A command that acts at issue and ends with a status word in q5. -/
def kvCommand (x : Acc → M Nat) : M Unit := do
  q5Room
  released
  statusRoom
  let acc ← kvAcc
  kvIdle acc.fn
  let st ← x acc
  pushStatus st
  advance

/-- KVFORK (R132). -/
def execKvfork (b c : Nat) (s : State) : Out State :=
  finish (do
    let de ← rdS b
    let d := de.v
    if BF d 24 40 ≠ 0 then trapM 0x03 d
    let x ← seqOperand c 24
    consume de.poison
    kvCommand (fun acc => kvStatus acc (kvFork acc (BF d 0 20) (BF x 0 20)))) s

/-- Does a parked KVLD of a function's hart still name sequence q (R132)? -/
def State.kvldOpen (s : State) (f q : Nat) : Bool :=
  s.harts.any (fun h => h.fn == f && h.rows.any (fun r => r.park.isSome &&
    (match (h.queue[r.qdone - h.qbase]?).map Entry.op with
     | some o => (match o.i with
       | .kvld _ _ _ => BF o.sb.v 0 20 == q
       | _ => false)
     | none => false)))

/-- KVREL waits for the KVLDs on its sequence that were accepted earlier (R132). -/
def execKvrel (b : Nat) (s : State) : Out State :=
  finish (do
    let x ← seqOperand b 24
    kvCommand (fun acc => do
      let s ← get
      waitUnless (!s.kvldOpen acc.fn (BF x 0 20))
      kvStatus acc (kvRelease acc acc.fn (BF x 0 20)))) s

/-- KVCOW: supervisor level. -/
def kvcowM (b c : Nat) : M Unit := do
  needLevel 1 (BitVec.ofNat 64 (0xEC00_0006 + b * 2 ^ 16 + c * 2 ^ 11))
  let x ← seqOperand b 24
  let y ← useS c
  kvCommand (fun acc => do
    match ← kvRun acc (kvCow acc (BF x 0 20) y.toNat) with
    | .ok bad => do
      modify (fun s => bad.foldl (fun (s : State) x => s.kvNotify x.1 x.2.1 x.2.2) s)
      pure 0
    | .error st => pure st)

/-- KVCOW (R132). -/
def execKvcow (b c : Nat) (s : State) : Out State := finish (kvcowM b c) s

/-- KVFORK.M: manager level; the destination names another function. -/
def kvforkMM (b c : Nat) : M Unit := do
  needLevel 2 (BitVec.ofNat 64 (0xEC00_0007 + b * 2 ^ 16 + c * 2 ^ 11))
  let de ← rdS b
  let xe ← rdS c
  let d := de.v
  if BF d 27 37 ≠ 0 ∨ BF d 20 7 = 0 ∨ 64 < BF d 20 7 then trapM 0x03 d
  let x ← seqOperand c 24
  if de.poison || xe.poison then trapM 0x0D 0
  kvCommand (fun acc => do
    kvIdle (BF d 20 7)
    kvStatus acc (kvForkM acc (BF d 20 7) (BF d 0 20) (BF x 0 20)))

/-- KVFORK.M (R132). -/
def execKvforkM (b c : Nat) (s : State) : Out State := finish (kvforkMM b c) s

/-! KVAPP. -/

/-- KVAPP: enters the queue once the earlier scalar stores are performed and q5 has room. -/
def execKvapp (a b c : Nat) (s : State) : Out State :=
  finish (do
    let _ ← seqOperand b 24
    let _ ← useS c
    q5Room
    drained
    fifoRoom 1
    enqueueI (.kvapp a b c)) s

/-- kvapp in the home row. -/
def rowKvapp (r : Nat) (o : Op) (va : Nat) : M Nat := do
  let acc ← kvAcc
  statusRoom
  kvIdle acc.fn
  let row ← theRow r
  let s ← get
  let v := s.kvPool acc acc.fn
  let seq := BF o.sb.v 0 20
  let h := o.sc.v.toNat
  let regs := min (32 - va) (ceilDiv (min h 16 * v.rowBytes) 128)
  if h ≤ 16 then deadTrap r o (row.deadRead ((List.range regs).map (fun i => { base := va + i, w := 8, e := 0 })))
  let x ← asRow r o false (kvRun acc (kvAppend acc row seq h va))
  match x with
  | .ok (.error (cause, pos, page)) => kvFault acc cause seq pos page
  | .ok (.ok _) => do
    pushStatus 0
    pure 0
  | .error st => do
    pushStatus st
    pure 0

/-! KVLD, direct form (R133, R379). -/

/-- KVLD. -/
def execKvld (a b c : Nat) (s : State) : Out State :=
  finish (do
    let x ← rdS b
    let y ← rdS c
    if BF x.v 24 40 ≠ 0 then trapM 0x03 x.v
    if BF y.v 40 8 ≠ 0 then trapM 0x03 y.v
    if x.poison || y.poison then trapM 0x0D 0
    drained
    fifoRoom 1
    enqueueI (.kvld a b c)) s

/-- The destination of a delivery: a group of LMUL registers and the report register after it. -/
def kvldGroup (r : Nat) (o : Op) (vd : Nat) : M Unit := do
  if vd % o.lmul ≠ 0 ∨ 31 < vd + o.lmul then rowIllegal r o

/-- A report word (R379). -/
def kvReport (st : Nat) (resumed : Bool) (rows entry : Nat) : Nat :=
  entry % 65536 + rows % 256 * 2 ^ 16 + b2n resumed * 2 ^ 24 + st * 2 ^ 28

/-- Write a report. -/
def Row.report (row : Row) (o : Op) (vd w : Nat) : Row := row.putElem (vd + o.lmul) 64 0 w false

/-- Rows p to p + n − 1 of a head group: their places, once every status that R131 puts before them has been excluded. -/
def kvRange (acc : Acc) (seq g p n cap : Nat) (needRows : Bool) : KM (Nat × List (Acc × Nat × Nat × Nat)) := do
  let st ← (get : M State)
  let v := st.kvPool acc acc.fn
  let q ← v.liveSeq seq
  if 2 ^ q.l2 ≤ g ∨ (needRows ∧ n = 0) ∨ cap < n * v.rowBytes ∨ q.ntok < p + n then throw 5
  let ps ← kvPlaces acc v q g p n
  if ← kvPoisoned acc ps then throw 12
  pure (v.rowBytes, ps)

/-- kvld in the home row. -/
def rowKvld (r : Nat) (o : Op) (vd : Nat) : M Nat := do
  kvldGroup r o vd
  let acc ← kvAcc
  kvIdle acc.fn
  let seq := BF o.sb.v 0 20
  let g := BF o.sb.v 20 4
  match ← asRow r o false (kvRun acc (kvRange acc seq g (BF o.sc.v 0 40) (BF o.sc.v 48 16) (o.lmul * 128) true)) with
  | .error 12 => rowPoison r o 0 false
  | .error st => do
    modR r (fun row => row.report o vd (kvReport st false 0 0))
    pure 0
  | .ok (rb, ps) => do
    let d ← asRow r o false (kvRows rb ps)
    kvFound d.2.2
    if !d.2.2.isEmpty then rowPoison r o 0 false
    modR r (fun row => (row.putBytes vd d.1 d.2.1 o.sew).report o vd (kvReport 0 false ps.length 0))
    pure 0

/-! KVLD, batch form (R133 to R135, R379). -/

/-- KVLD.B: the list lies at a multiple of 64 in the scratchpad. -/
def execKvldB (a b : Nat) (s : State) : Out State :=
  finish (do
    let x ← rdS b
    if x.v.toNat % 64 ≠ 0 then trapM 0x03 x.v
    if x.poison then trapM 0x0D 0
    drained
    fifoRoom 1
    enqueueI (.kvldB a b)) s

/-- Entries of a batch list (R133); NENT above 1,024 counts as 1,024. -/
def Hart.batchCount (h : Hart) (list : Nat) : Nat := min 1024 (h.scratch.readNat list 2)

/-- The descriptor of entry i. -/
def Hart.batchDesc (h : Hart) (list i : Nat) : Nat := h.scratch.readNat (list + 64 * (i + 1)) 16

/-- Write the descriptor of entry i. -/
def Hart.setBatch (h : Hart) (list i d : Nat) : Hart :=
  h.padWrite (list + 64 * (i + 1)) (leBytes 16 d) (List.replicate 16 false)

/-- STATE of a descriptor. -/
def batchState (d : Nat) : Nat := bits d 24 3

/-- The park record of R134. -/
def parkRecord (seq hg pos ext boff fid : Nat) : Nat :=
  seq + hg * 2 ^ 20 + pos * 2 ^ 24 + ext * 2 ^ 64 + boff * 2 ^ 68 + fid * 2 ^ 92 + 2 ^ 127

/-- A row's step ends: an entry's new descriptor, and the report. -/
def batchEnd (r : Nat) (o : Op) (vd list i d : Nat) (running : Bool) (st rows : Nat) : M Unit := do
  modH (fun h => h.setBatch list i (setBits d 27 1 0))
  modR r (fun row => { row.report o vd (kvReport st (bit d 27) rows i) with kvRun := if running then some (list, i) else none })

/-- Page cursor of a position: extent and block within it. -/
def kvCursor (acc : Acc) (seq p : Nat) : KM (Nat × Nat) := do
  let st ← (get : M State)
  let v := st.kvPool acc acc.fn
  let q ← v.liveSeq seq
  pure ((blockOf (p / 16) q.ext 0 0).getD (0, 0))

/-- An absent page parks the entry, or fails it where the fault is converted at once: does the row take the next entry (R135)? -/
def batchPark (r : Nat) (o : Op) (vd list i d : Nat) (acc : Acc) : Stop → M Bool
  | .park p =>
    if p.conv then do
      batchEnd r o vd list i (setBits (setBits d 24 3 4) 112 8 5) false 5 0
      pure false
    else do
      let seq := bits d 0 20
      let pos := bits d 32 40
      let cur ← match ← attempt (kvRun acc (kvCursor acc seq pos)) with
        | .ok (.ok c) => pure c
        | _ => pure (0, 0)
      modH (fun h =>
        let h := h.setBatch list i (setBits d 24 3 2)
        { h.padWrite (list + 64 * (i + 1) + 32) (leBytes 32 (parkRecord seq (bits d 20 4) pos cur.1 cur.2 p.fid)) (List.replicate 32 false) with
          kvParked := h.kvParked ++ [(list, i, p.fid)] })
      modR r (fun row => { row with kvRun := none })
      pure true
  | e => throw e

/-- A row runs entry i: does it take the next entry in the same step? -/
def batchEntry (r : Nat) (o : Op) (vd list i : Nat) : M Bool := do
  let h ← theHart
  let d := setBits (h.batchDesc list i) 24 3 1
  modH (fun h => h.setBatch list i d)
  let acc ← kvAcc
  let s ← get
  let v := s.kvPool acc acc.fn
  let pos := bits d 32 40
  let cap := o.lmul * 128
  let cnt := min (min (16 - pos % 16) (bits d 72 40 - pos)) (cap / v.rowBytes)
  let fail (st : Nat) : M Bool := do
    batchEnd r o vd list i (setBits (setBits d 24 3 4) 112 8 st) false st 0
    pure false
  match ← attempt (kvRun acc (do
      let x ← kvRange acc (bits d 0 20) (bits d 20 4) pos cnt cap false
      if cap < v.rowBytes then throw 5
      pure x)) with
  | .ok (.error st) => fail st
  | .ok (.ok (rb, ps)) => do
    match ← attempt (kvRows rb ps) with
    | .ok x =>
      if x.2.2.isEmpty then do
        let pos := pos + ps.length
        let done := decide (bits d 72 40 ≤ pos)
        modR r (fun row => row.putBytes vd x.1 x.2.1 o.sew)
        batchEnd r o vd list i (setBits (setBits d 32 40 pos) 24 3 (if done then 3 else 1)) (!done) 0 ps.length
        pure false
      else do
        kvFound x.2.2
        fail 12
    | .error e => batchPark r o vd list i d acc e
  | .error e => batchPark r o vd list i d acc e

/-- One row's step of a batch load, over at most `fuel` entries. Where one must wait, those that have parked before it stay parked. -/
def batchStep (r : Nat) (o : Op) (vd list : Nat) : (fuel : Nat) → M Unit
  | 0 => modR r (fun row => row.report o vd (kvReport 13 false 0 0))
  | fuel + 1 => do
    let h ← theHart
    let row ← theRow r
    let n := h.batchCount list
    let mine := match row.kvRun with
      | some (l, i) => if l = list ∧ i < n ∧ batchState (h.batchDesc list i) = 1 then some i else none
      | none => none
    match mine.or ((List.range n).find? (fun i => batchState (h.batchDesc list i) == 0)) with
    | none => do
      let all := (List.range n).all (fun i => decide (3 ≤ batchState (h.batchDesc list i)))
      modR r (fun row => { row.report o vd (kvReport (if all then 14 else 13) false 0 0) with kvRun := none })
    | some i => do
      if ← whole (batchEntry r o vd list i) then batchStep r o vd list fuel

/-- kvld.b in the tile: every row with VL > 0 takes one step, in ascending row index. -/
def allKvldB (o : Op) (vd : Nat) : M Unit := do
  let h ← theHart
  kvIdle h.fn
  let list := o.sb.v.toNat
  h.taking.forM (fun (p : Nat × Row) => kvldGroup p.1 o vd)
  match h.taking with
  | [] => pure ()
  | (r, _) :: _ => do
    let hd ← asRow r o false (padReadM list list 64)
    let n := h.batchCount list
    if 0x7_F000 < list + 64 * (n + 1) then rowTrap r o 0x07 (BitVec.ofNat 64 list)
    if hd.2.any id || poisonedAt h.scratchPoison list (64 * (n + 1)) then rowPoison r o 0 false
    -- a row that has taken its step in an earlier attempt holds its mark
    h.taking.forM (fun (p : Nat × Row) =>
      if p.2.prog.isSome then pure ()
      else do
        asRow p.1 o false (batchStep p.1 o vd list (n + 1))
        modR p.1 (fun row => { row with prog := some { k := 0, mask := 0, acc := [] } }))

/-- Entries parked under a fault change when it is freed: READY with RESUMED, or FAILED with RANGE (R135). -/
def Hart.batchFreed (h : Hart) (fid : Nat) (conv : Bool) : Hart :=
  let mine := h.kvParked.filter (fun x => x.2.2 == fid)
  let h := mine.foldl (fun (h : Hart) x =>
    let d := h.batchDesc x.1 x.2.1
    if batchState d = 2 then
      h.setBatch x.1 x.2.1 (if conv then setBits (setBits d 24 3 4) 112 8 5 else setBits (setBits d 24 3 0) 27 1 1)
    else h) h
  { h with kvParked := h.kvParked.filter (fun x => x.2.2 != fid) }

/-! Pool initialisation (R122). -/

/-- Garnet zeroes the metadata area and marks every page free but those that hold a retired row (R138); an absent page parks. The unit of die 0
does it (log 76, DESIGN CHOICE, unsafe). -/
def kvInitM (f : Nat) : M Unit := whole do
  let s ← get
  let v := s.kvPool (baseAcc f 0 4) f
  let pages := (List.range (v.areaBytes / 4096)).map (fun i => v.seqt + 4096 * i)
  let xs ← pages.mapM (fun a => xlate v.acc a true [0])
  xs.forM (fun x => match x.dest with
    | .localM pa => do
      snoopClear pa 4096
      homeWrite pa (List.replicate 4096 0) (List.replicate 4096 false)
      modify (fun s => s.numberLines v.acc x pa 4096)
    | _ => pure ())
  writeMem v.acc v.fm (List.replicate (v.np / 8) 0xFF) (List.replicate (v.np / 8) false) [0]
  let held ← if s.repair.retired.isEmpty then pure [] else (List.range v.np).filterM v.retired
  let _ ← kvRun v.acc (held.forM (fun pg => do
    v.setPage pg 0 true
    v.setFree pg false))
  modify (fun s => s.modFn f (fun g => { g with kvBusy := false, kvAlloc := 0 }))

/-- The zeroing of a pool goes on; a converted fault ends it: EN returns to 0 and the area stays as it is. An area that runs past 2^57 takes an
access fault that has no hart, and the zeroing stays due (log 83, DESIGN CHOICE, unsafe). -/
def State.kvInit (s : State) (f : Nat) : State :=
  let g := s.fn f
  if !g.kvBusy then s else
  let stop (s : State) : State := s.modFn f (fun g => { g with kvpool := WS g.kvpool 0 1 0, kvBusy := false, kvPark := none })
  match g.kvPark with
  | some p => if p.conv then stop s else s
  | none =>
    match kvInitM f s with
    | .ok _ s' => s'
    | .error (.park p) s' => if p.conv then stop s' else s'.modFn f (fun g => { g with kvPark := some p })
    | .error _ s' => s'

/-- KVPOOL_INIT_COMPLETE (R122). -/
def execKvpoolInitComplete (fn : Nat) (s : State) : Out State := .next (s.kvInit fn)

/-! Resets (R140). -/

/-- Release one sequence of a virtual function from the physical function's pool, if it names it: the state, and whether that is done. Only the pages
of the physical function are dropped, since the function's own tables are cleared next. It is not done while it waits at a line, or for a page of the physical
function; an entry that cannot be read in the function's own memory is passed over. -/
def State.kvDetachOne (s : State) (f q : Nat) : State × Bool :=
  let acc := baseAcc f 0 4
  let v := s.kvPool acc f
  let go : KM Unit := do
    let x ← v.liveSeq q
    let ps ← v.pages { x with ext := x.ext.filter KvExt.pool }
    ps.forM (fun p => p.1.drop p.2)
  if s.kvDetached.contains (f, q) then (s, true) else
  match whole (kvRun acc go) s with
  | .ok _ t => ({ t with kvDetached := (f, q) :: t.kvDetached }, true)
  | .error (.park p) t => if !p.conv && t.faults.any (fun o => o.fid == p.fid && o.fn == 0) then (t, false) else (s, true)
  | .error .wait t => (t, false)
  | .error _ _ => (s, true)

/-- Release from the physical function's pool every sequence of a virtual function that names it (R140): whether all is done. -/
def State.kvDetach (s : State) (f : Nat) : State × Bool :=
  let v := s.kvPool (baseAcc f 0 4) f
  if !v.en then (s, true) else
  (List.range v.nseq).foldl (fun (x : State × Bool) q =>
    let y := x.1.kvDetachOne f q
    (y.1, x.2 && y.2)) (s, true)

end Sys2Proof.Machine
end

