-- ==== Sys2Proof/Machine/Power.lean ====
section
/-! DEFINITION. Power, bring-up, thermal and current events, device reset, machine checks and RAS events (R7 to R18, R37 to R42, R72, R234). -/

namespace Sys2Proof.Machine

/-- An event changes the device only while it has power (log 21, DESIGN CHOICE, safe). -/
def State.whenOn (s : State) (f : State → State) : State := if s.powered then f s else s

/-- Bring-up stage (R15). -/
def State.stage (s : State) : Nat := BF s.dev.idstat 0 4

/-! Reset and bring-up (R15, R72). -/

/-- What power loss or a device reset leaves of the model's own fields: counters, messages sent, moves to come. -/
def State.keepModel (old new : State) : State :=
  { new with
    outbox := old.outbox, agenda := old.agenda, freeCtr := old.freeCtr, issueCtr := old.issueCtr, placeCtr := old.placeCtr
    agentMoves := old.agentMoves
    reqCtr := old.reqCtr, gangCtr := old.gangCtr, hartCtr := old.hartCtr, imgCtr := old.imgCtr }

/-- POWER_ON (R15): stage 1 of a device that has not begun bring-up; every register at its reset value, DEVTIME at 0. -/
def execPowerOn (s : State) : Out State :=
  .next (if !s.powered || s.stage == 0 && s.dev.devtime == 0 then
    s.keepModel { State.reset with dev := { DevRegs.reset with idstat := 1 }, mem := s.mem, poison := s.poison, repair := s.repair }
  else s)

/-! The repair state (R39, R42). -/

/-- Rows that a spare sub-channel holds (R24). -/
def spareRows : Nat := 12288 * 16

/-- The spare that holds a reserved row: they are drawn from spare 8 downwards. -/
def reservedIn (n : Nat) : Nat := 8 - n / spareRows

/-- The spares that stage 3 may take: in no use, and without a reserved row in use. -/
def Repair.freeSpares (r : Repair) : List Nat :=
  (List.range 9).filter (fun k => !r.sparesUsed.contains k && !r.reserved.any (fun n => reservedIn n == k))

/-- The reserved row drawn next: the first one free, in spares that stage 3 has not taken. -/
def Repair.nextReserved (r : Repair) : Option Nat :=
  (List.range 9).findSome? (fun i =>
    if r.sparesUsed.contains (8 - i) then none
    else ((List.range (min spareRows (r.reserved.length + 1))).map (fun j => i * spareRows + j)).find? (fun n => !r.reserved.contains n))

/-- Remap entries of a stack in use. -/
def Repair.remapped (r : Repair) (stack : Nat) : Nat := (r.remaps.filter (fun x => x.1.1 == stack)).length

/-- Post-package repair rows of a bank in use. -/
def Repair.pprUsed (r : Repair) (loc : Nat × Nat × Nat) : Nat :=
  match r.ppr.find? (fun x => x.1 == loc) with
  | some x => x.2
  | none => 0

/-- RASCAP from the repair state (R42). -/
def State.setRascap (s : State) : State :=
  let used := (List.range 16).foldl (fun (m : Nat) k => max m (s.repair.remapped k)) 0
  s.modDev (fun d => { d with
    rascap := BitVec.ofNat 64 (s.repair.retiredFrames.length * 2 ^ 32 + (4096 - used) * 2 ^ 16 + s.repair.freeSpares.length) })

/-- Stage 3 clears the LLC, the subscription tables and the state of Garnet and Agate; a dirty sector it drops leaves a free value
in memory (R15, log 14, DESIGN CHOICE, safe). -/
def State.clearBase (s : State) : State :=
  let s := (s.llc.filter (fun l => l.dirty != 0)).foldl (fun (s : State) l =>
    (List.range 4).foldl (fun (s : State) i =>
      if BB l.dirty i then { s with
        mem := s.mem.write (64 * l.line + 16 * i) (leBytes 8 (Config.free s.freeCtr).toNat ++ leBytes 8 (Config.free (s.freeCtr + 1)).toNat)
        freeCtr := s.freeCtr + 2 }
      else s) s) s
  { s with llc := [], plru := [], fill := [], roCache := [], snoop := [], snoopWait := [], subs := [], pushes := [], streams := [] }

/-- BRINGUP_STAGE (R15): the stage in progress completes, or fails. A stage that failed goes no further. Stage 2 loads the repair state, which
RASCAP then shows. -/
def execBringupStage (ok : Bool) (s : State) : Out State :=
  .next (s.whenOn (fun s =>
    let st := s.stage
    if st = 0 ∨ 7 ≤ st ∨ BB s.dev.idstat 4 then s
    else if ok then
      let s := if st = 2 then s.setRascap else if st = 3 then s.clearBase else s
      s.modDev (fun d => { d with idstat := BitVec.ofNat 64 (st + 1) })
    else s.modDev (fun d => { d with idstat := BitVec.ofNat 64 (st + 16) })))

/-- A device reset (R72): everything stops, registers take their reset values, bring-up begins again at stage 3. Memory, the
repair state, DEVTIME, RASCAP and THERMSTAT.TRIP stay. Before stage 3 the steps that it needs are not complete: the stage in progress, or
the one that failed, begins again (R15; log 74, DESIGN CHOICE, unsafe). -/
def State.deviceReset (s : State) : State :=
  s.keepModel { State.reset with
    dev := { DevRegs.reset with
      idstat := BitVec.ofNat 64 (min 3 s.stage), devtime := s.dev.devtime, rascap := s.dev.rascap
      thermstat := BitVec.ofNat 64 (4 * BF s.dev.thermstat 2 1) }
    mem := s.mem, poison := s.poison, repair := { s.repair with errs := [] }, llc := s.llc
    portDown := Vector.replicate 20 (some s.dev.devtime.toNat) }

/-- DEVICE_RESET (R72): of a device whose bring-up has begun. -/
def execDeviceReset (s : State) : Out State :=
  .next (s.whenOn (fun s => if s.stage = 0 then s else s.deviceReset))

/-- POWER_REMOVAL (R13): all state is lost but the repair state, which stage 2 of the next power-on loads (R15; log 73, DEDUCED, unsafe). -/
def execPowerRemoval (s : State) : Out State :=
  .next (s.whenOn (fun s => s.keepModel { State.reset with powered := false, repair := { s.repair with errs := [] } }))

/-! Sensors (R13). -/

/-- A sensor reading of 115 °C or more: the trip, a device reset with TRIP set. TMAX keeps the reading, the other registers are as after any device reset, and
bring-up begins in the same step (log 74, DESIGN CHOICE, unsafe). -/
def State.tripIf (s : State) (tmax : Nat) : State :=
  if 115 ≤ tmax then s.deviceReset.modDev (fun d => { d with thermstat := WS (WS d.thermstat 2 1 1) 32 8 tmax }) else s

/-- The hottest sensor reads tmax: every response of R13 whose threshold the reading meets. -/
def State.thermal (s : State) (tmax : Nat) : State :=
  let t := min 255 tmax
  let old := BF s.dev.thermstat 32 8
  let warned := BB s.dev.thermstat 1
  let s := s.modDev (fun d => { d with thermstat := WS d.thermstat 32 8 t })
  let s := if 95 ≤ t then
      let s := s.modDev (fun d => { d with thermstat := WS d.thermstat 1 1 1 })
      if old < 95 || !warned then s.msix 0 2 else s
    else s
  let s :=
    if 105 ≤ t then s.modDev (fun d =>
      let l := min 8 (BF d.pwrstat 3 5)
      { d with pwrstat := WS (WS (WS d.pwrstat 2 1 1) 3 5 l) 1 1 1 })
    else if t < 100 then s.modDev (fun d => { d with pwrstat := WS d.pwrstat 2 1 0 })
    else s
  s.tripIf t

/-- THERMAL_WARNING (R13). -/
def execThermalWarning (tmax : Nat) (s : State) : Out State :=
  .next (s.whenOn (fun s => if 95 ≤ tmax then s.thermal tmax else s))

/-- THERMAL_CAP (R13). -/
def execThermalCap (tmax : Nat) (s : State) : Out State :=
  .next (s.whenOn (fun s => if 105 ≤ tmax then s.thermal tmax else s))

/-- THERMAL_CAP_CLEAR (R13). -/
def execThermalCapClear (tmax : Nat) (s : State) : Out State :=
  .next (s.whenOn (fun s => if tmax < 100 then s.thermal tmax else s))

/-- THERMAL_TRIP (R13). -/
def execThermalTrip (tmax : Nat) (s : State) : Out State :=
  .next (s.whenOn (fun s => if 115 ≤ tmax then s.thermal tmax else s))

/-! Current and power (R9 to R12). -/

/-- PEAK_CURRENT_GUARD (R9). -/
def execPeakCurrentGuard (amps : Nat) (s : State) : Out State :=
  .next (s.whenOn (fun s => if 9000 < amps then
    s.modDev (fun d => { d with pwrstat := WS d.pwrstat 16 16 (min 0xFFFF (BF d.pwrstat 16 16 + 1)) }) else s))

/-- A reading of the running average (R16). -/
def DevRegs.setAvg (d : DevRegs) (avgw : Nat) : DevRegs := { d with pwrstat := WS d.pwrstat 32 16 (min 0xFFFF avgw) }

/-- The power controller sets LANES; PWR is 1 below 16 lanes (R11). -/
def DevRegs.setLanes (d : DevRegs) (lanes : Nat) : DevRegs :=
  { d with pwrstat := WS (WS d.pwrstat 3 5 lanes) 1 1 (b2n (decide (lanes < 16))) }

/-- The cap on LANES (R11). -/
def DevRegs.lanesCap (d : DevRegs) : Nat := if BB d.pwrstat 2 then 8 else 16

/-- LANES_DECREASE (R11): the average reads `avgw`, and above the limit LANES falls. -/
def execLanesDecrease (avgw : Nat) (s : State) : Out State :=
  .next (s.whenOn (fun s => s.modDev (fun d =>
    let d := d.setAvg avgw
    if BF d.pwrctl 0 13 < avgw ∧ 4 < s.lanes then d.setLanes (BF d.pwrstat 3 5 - 4) else d)))

/-- LANES_INCREASE (R11): the average reads `avgw`, and below 95 % of the limit LANES rises to its cap. -/
def execLanesIncrease (avgw : Nat) (s : State) : Out State :=
  .next (s.whenOn (fun s => s.modDev (fun d =>
    let d := d.setAvg avgw
    if 100 * avgw < 95 * BF d.pwrctl 0 13 ∧ s.lanes < d.lanesCap then d.setLanes (min d.lanesCap (BF d.pwrstat 3 5 + 4)) else d)))

/-- Core cycles, in fifths, that one nanosecond adds to every placed hart and to its gang (R7, R148). -/
def nsCycles : Nat := 18

/-- DEVTIME_ADVANCE (R18): one nanosecond, counted from stage 1 on. -/
def execDevtimeAdvance (s : State) : Out State :=
  .next (s.whenOn (fun s => if s.stage = 0 then s else
    let placed (h : Hart) : Bool := !h.saved
    { s.modDev (fun d => { d with devtime := d.devtime + 1 }) with
      harts := s.harts.map (fun (h : Hart) => if placed h then { h with placedCyc := h.placedCyc + nsCycles } else h)
      gangs := s.gangs.map (fun (g : Gang) =>
        { g with cyc := g.cyc + nsCycles * (s.harts.filter (fun h => h.gang == g.id && placed h)).length }) }))

/-! RAS events and repair (R39 to R42). -/

/-- A RAS event of the physical function (R41); its TIME (R18) is put where fault records have it (log 60, DEDUCED, unsafe). -/
def State.rasEvent (s : State) (kind stack subch bank row line0 : Nat) : State :=
  (s.fqRecord 0 (kind + stack * 2 ^ 8 + subch * 2 ^ 16 + bank * 2 ^ 23 + row * 2 ^ 32 + line0 * 2 ^ 64
    + BF s.dev.rascap 32 32 * 2 ^ 128)).msix 0 1

/-- The logical bank that a physical sub-channel serves now (R23). -/
def State.bankAt (s : State) (stack subch : Nat) : Option Nat :=
  (if subch = 127 ∧ 7 ≤ stack then s.repair.bankMap.find? (fun x => x.2 == stack - 7) |>.map Prod.fst
   else some (subch * 16 + stack)).filter (fun b => s.bankLoc b == (stack, subch))

/-- The lowest line of a DRAM row of a logical bank, and the step to the next (R24, R40). -/
def rowLine (b bank row k : Nat) : Nat := b + 2039 * (bank / 4 + bank % 4 * 4 + 16 * k + 512 * row)

/-- A row that no stage can repair is retired (R40). -/
def State.retireRow (s : State) (loc : Nat × Nat × Nat × Nat) (b : Nat) : State :=
  let lines := (List.range 32).map (rowLine b loc.2.2.1 loc.2.2.2)
  let frames := (lines.map (· / 64)).filter (fun f => !s.repair.retiredFrames.contains f)
  let s := { s with
    repair := { s.repair with retired := s.repair.retired ++ [loc], retiredFrames := s.repair.retiredFrames ++ frames }
    llc := s.llc.filter (fun l => !lines.contains l.line) }
  let s := s.setRascap
  let s := s.rasEvent 0x20 loc.1 loc.2.1 loc.2.2.1 loc.2.2.2 (rowLine b loc.2.2.1 loc.2.2.2 0)
  lines.foldl State.kvRasLine s

/-- ROW_REPAIR (R39): the first available stage, else the row is retired. Stage 1 needs a place for the row's lines meanwhile: a free
remap entry or a reserved row. A sub-channel whose stage 3 copy is under way is repaired by it. A new entry of a row replaces its old one, whose
reserved row stays in use (log 80, DESIGN CHOICE, unsafe). -/
def State.rowRepair (s : State) (loc : Nat × Nat × Nat × Nat) : State :=
  let stack := loc.1
  let subch := loc.2.1
  let bank := loc.2.2.1
  let row := loc.2.2.2
  match s.bankAt stack subch with
  | none => s
  | some b =>
    let r := s.repair
    let used : Nat := r.pprUsed (stack, subch, bank)
    if 16 ≤ bank ∨ 12288 ≤ row ∨ r.retired.contains loc then s
    else if used < 4 ∧ (r.remapped stack < 4096 ∨ r.nextReserved.isSome) then
      { s with repair := { r with ppr := ((stack, subch, bank), used + 1) :: r.ppr.filter (fun x => x.1 != (stack, subch, bank)) } }
    else match (if r.remapped stack < 4096 then r.nextReserved else none) with
      | some n =>
        { s with repair := { r with
            remaps := r.remaps.filter (fun (x : (Nat × Nat × Nat × Nat) × Nat) => x.1 != loc) ++ [(loc, n)]
            reserved := r.reserved ++ [n] } }.setRascap
      | none =>
        if r.copying.any (fun x => x.1 == b) then s
        else match r.freeSpares.head? with
          | some k => { s with repair := { r with copying := r.copying ++ [(b, k)], sparesUsed := r.sparesUsed ++ [k] } }.setRascap
          | none => s.retireRow loc b

/-- ROW_REPAIR (R39, R40). -/
def execRowRepair (stack subch bank row : Nat) (s : State) : Out State :=
  .next (s.whenOn (fun s => if stack < 16 ∧ subch < 128 then s.rowRepair (stack, subch, bank, row) else s))

/-- A corrected error in a row (R37, R39): counts are kept for 1,024 rows a stack, the least recently incremented going first; at the
16th the row is failing. -/
def State.corrected (s : State) (loc : Nat × Nat × Nat × Nat) : State :=
  let n := (match s.repair.errs.find? (fun x => x.1 == loc) with
    | some x => x.2
    | none => 0) + 1
  let others := s.repair.errs.filter (fun x => x.1 != loc)
  if 16 ≤ n then { s with repair := { s.repair with errs := others } }.rowRepair loc
  else
    let here := others.filter (fun x => x.1.1 == loc.1)
    let kept := match here with
      | x :: _ => if here.length < 1024 then others else others.erase x
      | [] => others
    { s with repair := { s.repair with errs := kept ++ [(loc, n)] } }

/-- An uncorrectable error in sectors of a line (R37): they are poisoned, and a RAS event names the line. -/
def State.uncorrected (s : State) (line secs : Nat) : State :=
  let p := poisonSectors s.poison (64 * line) secs
  let l := s.lineLoc line
  ({ s with poison := p }.rasEvent 0x22 l.1 l.2.1 l.2.2.1 l.2.2.2 line).kvRasLine line

/-- What a read of sectors of a line meets (R37, R39): 1 a corrected error, 2 an uncorrectable one. Sectors that the LLC holds come from its own
arrays, which wear out no DRAM row. A retired row is out of use. -/
def State.memoryError (s : State) (err line secs : Nat) : State :=
  let held := match s.llc.find? (fun l => l.line == line) with
    | some l => l.valid.toNat
    | none => 0
  let dram := secs &&& held != secs
  let loc := s.lineLoc line
  if s.retiredLine line then s
  else match err with
    | 1 => if dram then s.corrected loc else s
    | 2 => if dram then (s.uncorrected line secs).rowRepair loc else s.uncorrected line secs
    | _ => s

/-- SPARE_COPY_COMPLETE (R39): the spare takes the logical bank, the old sub-channel's remap entries are freed with their reserved rows, and a
RAS event reports it. -/
def execSpareCopyComplete (bank : Nat) (s : State) : Out State :=
  .next (s.whenOn (fun s =>
    match s.repair.copying.find? (fun x => x.1 == bank) with
    | none => s
    | some x =>
      let old := s.bankLoc bank
      let freed := s.repair.remaps.filter (fun y => y.1.1 == old.1 && y.1.2.1 == old.2)
      let s := { s with
        repair := { s.repair with
          bankMap := (bank, x.2) :: s.repair.bankMap.filter (fun y => y.1 != bank)
          copying := s.repair.copying.filter (fun y => y.1 != bank)
          remaps := s.repair.remaps.filter (fun y => !(y.1.1 == old.1 && y.1.2.1 == old.2))
          reserved := s.repair.reserved.filter (fun n => !freed.any (fun y => y.2 == n)) }
        llc := s.llc.filter (fun l => lineBank l.line != bank) }
      (s.setRascap.rasEvent 0x21 old.1 old.2 0 0 bank).kvRasLine bank))

/-! Machine checks (R234). -/

/-- Does a gang have a hart or a cluster on a core that a test picks? -/
def State.gangOn (s : State) (g : Nat) (p : Nat → Bool) : Bool :=
  s.harts.any (fun h => h.gang == g && !h.saved && (p h.core || h.rows.any (fun r => match r.cluster with
    | some c => p (c / 4)
    | none => false)))

/-- The device reset that a machine check of a base die asks for, once every gang has completed and its record is written (R234). -/
def State.resetIfDue (s : State) : State :=
  if s.resetDue && s.gangs.isEmpty && s.cpls.all (fun c => c.park.isSome) then s.deviceReset else s

/-- A machine check (R234): scope 0 a core, 1 a compute die, 2 a base die. -/
def State.machineCheck (s : State) (scope index unit : Nat) : State :=
  let s := s.fqRecord 0 (0x23 + unit % 256 * 2 ^ 8 + BF s.dev.rascap 32 32 * 2 ^ 128)
  let ids := s.gangs.map Gang.id
  match scope with
  | 0 => (ids.filter (fun g => s.gangOn g (fun c => c == index))).foldl (fun (s : State) g => s.stopGang g 6 0) s
  | 1 => (ids.filter (fun g => s.gangOn g (fun c => dieOf c == index))).foldl (fun (s : State) g => s.stopGang g 6 0) s
  | _ =>
    let s := ids.foldl (fun (s : State) g => s.stopGang g 6 0) s
    let queued := s.gangs.filter (fun g => g.phase == .queued)
    let s := queued.foldl (fun (s : State) g => s.complete g 6 0 0) s
    { s with gangs := s.gangs.filter (fun g => g.phase != GangPhase.queued), resetDue := true }.resetIfDue

/-- MACHINE_CHECK (R234). -/
def execMachineCheck (scope index unit : Nat) (s : State) : Out State :=
  .next (s.whenOn (fun s =>
    if scope ≤ 2 ∧ index < (if scope = 0 then 192 else 4) then s.machineCheck scope index unit else s))

/-! Errors the matrix slices and lane units correct (R195). -/

/-- One more in a 32-bit field, saturating. -/
def bump32 (v : Word) (lo : Nat) : Word := WS v lo 32 (min 0xFFFF_FFFF (BF v lo 32 + 1))

/-- TIMING_ERROR_REPLAY (R195): the operation is replayed and REPLAYS counts it; or, while a hart is in approximate mode, the error
stays in the low bits of a product of a coming row and LEFT counts it. -/
def execTimingErrorReplay (left : Bool) (s : State) : Out State :=
  .next (s.whenOn (fun s =>
    if !left then s.modDev (fun d => { d with oscnt := bump32 d.oscnt 0 })
    else if s.harts.any (fun h => BB h.hcr 2) then
      { s.modDev (fun d => { d with oscnt := bump32 d.oscnt 32 }) with leftErr := s.leftErr + 1 }
    else s))

end Sys2Proof.Machine
end

