-- ==== Sys2Proof/Machine/RegEvents.lean ====
section
/-! DEFINITION. Writes of the registers of BAR0, one event a register (R10, R13, R16, R21, R28, R36, R48, R54, R63 to R67, R73, R77, R85,
R87, R91, R100, R121, R122, R141, R195, R228, R384). The offsets are those of the rules; the stored values are BAR0's (Bar.lean). -/

namespace Sys2Proof.Machine

/-- A write of a register that only the physical function's BAR0 has. -/
def State.pfEvent (s : State) (off val : Nat) : Out State := .next (s.whenOn (fun s => s.pfWrite off (BitVec.ofNat 64 val)))

/-- A write of a register of a function's own BAR0. -/
def State.fnEvent (s : State) (fn off val : Nat) : Out State :=
  .next (s.whenOn (fun s => if fn < 65 then s.fnWrite fn off (BitVec.ofNat 64 val) else s))

/-- PWRCTL_WRITE (R10). -/
def execPwrctlWrite (val : Nat) (s : State) : Out State := s.pfEvent 0x0040 val
/-- PWRSTAT_WRITE (R16). -/
def execPwrstatWrite (val : Nat) (s : State) : Out State := s.pfEvent 0x0048 val
/-- THERMSTAT_WRITE (R13, R16). -/
def execThermstatWrite (val : Nat) (s : State) : Out State := s.pfEvent 0x0050 val
/-- MEMERR_WRITE (R21). -/
def execMemerrWrite (val : Nat) (s : State) : Out State := s.pfEvent 0x0030 val
/-- SURFTAB_WRITE (R28). -/
def execSurftabWrite (fn val : Nat) (s : State) : Out State := s.fnEvent fn 0x0100 val
/-- SURFFLUSH_WRITE (R36). -/
def execSurfflushWrite (fn val : Nat) (s : State) : Out State := s.fnEvent fn 0x0108 val
/-- FABCFG_WRITE (R48). -/
def execFabcfgWrite (val : Nat) (s : State) : Out State := s.pfEvent 0x0200 val
/-- FABPART_WRITE (R48). -/
def execFabpartWrite (fn val : Nat) (s : State) : Out State := if fn < 65 then s.pfEvent (0x0400 + 8 * fn) val else .next s
/-- FABPSTAT_WRITE (R48). -/
def execFabpstatWrite (port val : Nat) (s : State) : Out State := if port < 20 then s.pfEvent (0x0280 + 8 * port) val else .next s
/-- TREE_INSTALL (R54): a write of TREESET; the record's VALID field says what it asks for. -/
def execTreeInstall (fn addr : Nat) (s : State) : Out State := s.fnEvent fn 0x0120 addr
/-- TREE_TEARDOWN_COMMAND (R54): a write of TREESET whose record has VALID = 0. -/
def execTreeTeardownCommand (fn addr : Nat) (s : State) : Out State := s.fnEvent fn 0x0120 addr
/-- VFCFG_WRITE (R64): virtual function vf, doubleword `word`. -/
def execVfcfgWrite (vf word val : Nat) (s : State) : Out State :=
  if vf < 64 ∧ word < 4 then s.pfEvent (0x1000 + 32 * vf + 8 * word) val else .next s
/-- LAUNCHWIN_WRITE (R65, R67). -/
def execLaunchwinWrite (val : Nat) (s : State) : Out State := s.fnEvent 0 0x0140 val
/-- LAUNCHSTAT_WRITE (R67). -/
def execLaunchstatWrite (fn val : Nat) (s : State) : Out State := s.fnEvent fn 0x0148 val
/-- GANG_RESET (R73, R74). -/
def execGangReset (fn val : Nat) (s : State) : Out State := s.fnEvent fn 0x0150 val
/-- QOSCTX_WRITE (R77). -/
def execQosctxWrite (fn cls val : Nat) (s : State) : Out State :=
  if fn < 65 ∧ cls < 4 then s.pfEvent (0x2000 + 32 * fn + 8 * cls) val else .next s
/-- XLINV_WRITE (R87). -/
def execXlinvWrite (fn val : Nat) (s : State) : Out State := s.fnEvent fn 0x0188 val
/-- FQCFG_WRITE (R91). -/
def execFqcfgWrite (fn val : Nat) (s : State) : Out State := s.fnEvent fn 0x0190 val
/-- FQPTR_WRITE (R91). -/
def execFqptrWrite (fn val : Nat) (s : State) : Out State := s.fnEvent fn 0x0198 val
/-- HRANGE_WRITE (R85). -/
def execHrangeWrite (fn idx word val : Nat) (s : State) : Out State :=
  if fn < 65 ∧ idx < 4 ∧ word < 2 then s.pfEvent (0x4000 + 64 * fn + 16 * idx + 8 * word) val else .next s
/-- HEATCFG_WRITE (R100). -/
def execHeatcfgWrite (val : Nat) (s : State) : Out State := s.pfEvent 0x0070 val
/-- SCHEDCFG_WRITE (R141). -/
def execSchedcfgWrite (val : Nat) (s : State) : Out State := s.pfEvent 0x0020 val
/-- SCHEDSTAT_WRITE (R141). -/
def execSchedstatWrite (val : Nat) (s : State) : Out State := s.pfEvent 0x0028 val
/-- SAVECFG_WRITE (R228). -/
def execSavecfgWrite (fn val : Nat) (s : State) : Out State := s.fnEvent fn 0x0110 val
/-- KVPOOL_WRITE (R121, R122). -/
def execKvpoolWrite (fn val : Nat) (s : State) : Out State := s.fnEvent fn 0x01A0 val
/-- KVMETA_WRITE (R121, R122). -/
def execKvmetaWrite (fn val : Nat) (s : State) : Out State := s.fnEvent fn 0x01A8 val
/-- OSCNT_WRITE (R195). -/
def execOscntWrite (val : Nat) (s : State) : Out State := s.pfEvent 0x0058 val
/-- FRSTAT_WRITE (R384). -/
def execFrstatWrite (fn val : Nat) (s : State) : Out State := s.fnEvent fn 0x01B8 val

/-- REGISTER_WRITE (R63): an aligned write of 8 bytes to a function's BAR0. -/
def execRegisterWrite (fn off val : Nat) (s : State) : Out State :=
  .next (s.whenOn (fun s => if fn < 65 ∧ off < 0x1_0000 ∧ off % 8 = 0 then s.barWrite fn off (BitVec.ofNat 64 val) else s))

/-! What registers start. -/

/-- SURFFLUSH_COMPLETE (R36): records and aperture copies of the named surfaces are gone, and BUSY clears. -/
def execSurfflushComplete (fn : Nat) (s : State) : Out State :=
  .next (s.whenOn (fun s =>
    if fn < 65 ∧ (s.fn fn).surfBusy then
      let s := (s.fn fn).surfPending.foldl (fun (s : State) i => s.flushSurf fn (if i = 2048 then none else some i)) s
      s.modFn fn (fun g => { g with surfBusy := false, surfPending := [] })
    else s))

/-- The addresses an invalidation covers: first and end (R87). -/
def FnRegs.xlRange (g : FnRegs) : Nat × Nat :=
  if 45 ≤ g.xlLog2n then (0, 2 ^ 57) else
  let n := 2 ^ g.xlLog2n
  let p := g.xlVA / n * n
  (p * 4096, (p + n) * 4096)

/-- Is a write of the device's own, of an image or a record, still waiting at its home? Its function is not noted, so it counts for each. -/
def State.ownWrites (s : State) : Bool := s.homeWait.any (fun o => match o with
  | .bytes _ _ _ => true
  | _ => false)

/-- Is every request of a function that a cached translation served complete (R87)? A store waits in a write buffer, a vector
instruction is between its probe and its end, a request of a hart, a tree command or a record has left the device, or an image's bytes wait. -/
def State.xlQuiet (s : State) (fn : Nat) : Bool :=
  !s.ownWrites && !s.ext.any (fun e => e.hart == (treeAcc fn).hart || s.cpls.any (fun c => c.fn == fn && c.acc.hart == e.hart)) &&
  (s.harts.filter (fun h => h.fn == fn)).all (fun h =>
    h.wbuf.isEmpty
    && !s.ext.any (fun e => e.hart == h.id)
    && h.rows.all (fun r => r.prog.isNone || r.park.isSome || (match h.queue[r.qdone - h.qbase]? with
        | some e => (match e.op.i with
          | .vsend .. => true
          | _ => false)
        | none => true)))

/-- XLINV_COMPLETE (R87, R155): cached translations and instruction lines of the range go, BUSY clears, and the next write that waits
begins. -/
def execXlinvComplete (fn : Nat) (s : State) : Out State :=
  .next (s.whenOn (fun s =>
    let g := s.fn fn
    if fn < 65 ∧ g.xlBusy ∧ s.xlQuiet fn then
      let r := g.xlRange
      let s := { s with
        tlb := s.tlb.filter (fun t => !(t.fn == fn && decide (t.page <<< t.shift < r.2) && decide (r.1 < (t.page + 1) <<< t.shift)))
        icache := s.icache.filter (fun l => !(l.fn == fn && decide (l.va < r.2) && decide (r.1 < l.va + 64))) }
      let s := s.modFn fn (fun g => { g with xlBusy := false, xlWaiting := g.xlWaiting.drop 1 })
      match g.xlWaiting with
      | v :: _ => s.xlinvWrite fn v
      | [] => s
    else s))

/-- FAULT_RECORD_WRITE (R92): the oldest waiting record is written once there is room. -/
def execFaultRecordWrite (fn : Nat) (s : State) : Out State := .next (s.whenOn (fun s => if fn < 65 then s.fqWriteOne fn else s))

/-- MSIX_UNMASK (R71). -/
def execMsixUnmask (fn vector : Nat) (s : State) : Out State :=
  .next (s.whenOn (fun s =>
    if fn < 65 ∧ vector < 16 ∧ BB (s.fn fn).msixMask vector then
      let due := BB (s.fn fn).msixPend vector
      let off := ~~~(BitVec.ofNat 16 (2 ^ vector))
      let s := s.modFn fn (fun g => { g with msixMask := g.msixMask &&& off, msixPend := g.msixPend &&& off })
      if due then s.msix fn vector else s
    else s))

end Sys2Proof.Machine
end

