-- ==== Sys2Proof/Machine/HostEvents.lean ====
section
/-! DEFINITION. The homes and the host: memory requests, write-back, CXL.mem and CXL.cache, token buckets, the reset of a virtual function
(R20, R25 to R27, R60 to R66, R75 to R78). -/

namespace Sys2Proof.Machine

/-! Homes (R20 to R27). -/

/-- A request with a granule field of 0 is discarded and counted, and completes as if it had moved no data (R20, R21): a store is gone; a load
raises a machine check of unit kind 1, at the core of its hart, else at its compute die or base die (which array that is: log 60, DEDUCED, unsafe). -/
def State.zeroGranule (s : State) (die hart : Nat) (write : Bool) : State :=
  let s := s.modDev (fun d => { d with
    memerr := WS (WS d.memerr 0 32 (min 0xFFFF_FFFF (BF d.memerr 0 32 + 1))) 32 3 die })
  if write then
    s.modHart hart (fun h => { h with wbuf := match h.wbuf with
      | w :: rest => if w.served then rest else w :: rest
      | [] => [] })
  else if 4 ≤ die % 8 then s.machineCheck 2 (die % 8 - 4) 1
  else match s.hart? hart with
    | some h => s.machineCheck 0 h.core 1
    | none => s.machineCheck 1 (die % 8) 1

/-- The oldest write of a hart that its port has served commits at its home and counts as completed (R27, R101, R148); a line the host may
cache waits (R62). -/
def State.commitOldest (s : State) (hart : Nat) : State :=
  match s.hart? hart with
  | none => s
  | some h =>
    match h.wbuf with
    | [] => s
    | w :: rest =>
      if !w.served then s else
      match homeWrite w.pa w.bytes (List.replicate w.bytes.length w.poison) true s with
      | .ok _ t =>
        ((t.countBytes w.gang (sectorCount w.pa w.bytes.length)).numberAccess w.die { dest := .localM w.pa, pteAddr := 0, user := false }).modHart hart
          (fun h => { h with wbuf := rest })
      | .error _ t => t

/-- A request of a hart at or above the physical-address limit completes with an address error, and the hart takes the fault (R24). -/
def State.beyondLimit (s : State) (hart addr : Nat) : State :=
  match s.hart? hart with
  | some h => if h.stopped || h.saved then s else
      { ({ s with cur := hart } : State).takeTrap { code := 0x09, val := BitVec.ofNat 64 addr } with cur := s.cur }
  | none => s

/-- An uncorrectable error in an SRAM data array or a register file (R37), met on behalf of a hart: it poisons the sectors of an L2 line (1) or a
scratchpad line (2), a scalar register (3), or the four bytes of a vector register that a word of the register file holds (4): those of word
`gran` of the register that bits 4:0 of the address name, in the row that the bits above name. The words of the register files are a choice (log 86, DESIGN
CHOICE, unsafe). A hart's own arrays answer for its own state only. -/
def State.arrayError (s : State) (array hart gran addr : Nat) : State :=
  match array with
  | 1 => { s with poison := poisonSectors s.poison (addr / 64 * 64) (gran % 16) }
  | 2 => s.modHart hart (fun h => { h with scratchPoison := poisonSectors h.scratchPoison (addr % 0x7_F000 / 64 * 64) (gran % 16) })
  | 3 => s.modHart hart (fun h => h.wr (addr % 32) (h.rd (addr % 32)) true)
  | 4 => s.modRow hart (addr / 32) (fun row => { row with
      vpoison := row.vpoison.setIfInBounds (addr % 32) (((row.vpoison[addr % 32]?).getD 0) ||| BitVec.ofNat 128 (15 * 2 ^ (4 * (gran % 32)))) })
  | _ => s

/-- MEMORY_REQUEST (R20, R24 to R27, R37): the named sectors are brought to the home, where their codes may find an error (`err`: 1 corrected, 2 not);
a write of the hart's oldest served store to the line commits. An access to another data array (`array`) meets an error in it alone: a corrected one changes nothing
that a register shows. -/
def execMemoryRequest (die gran addr hart : Nat) (s : State) (err : Nat := 0) (write : Bool := false) (array : Nat := 0) : Out State :=
  .next (s.whenOn (fun s =>
    if array ≠ 0 then (if err = 2 then s.arrayError array hart gran addr else s) else
    if gran % 16 = 0 then s.zeroGranule die hart write
    else if paLimit ≤ addr then s.beyondLimit hart addr
    else
      let s := s.memoryError err (addr / 64) (gran % 16)
      if write && ((s.hart? hart).bind (fun h => h.wbuf.head?)).any (fun w => w.served && w.pa / 64 == addr / 64) then s.commitOldest hart
      else s.llcTouch (addr / 64) (gran % 16)))

/-- LINE_WRITEBACK (R26): a dirty line leaves the LLC; memory then holds its bytes. -/
def execLineWriteback (line : Nat) (s : State) : Out State :=
  .next (s.whenOn (fun s => { s with llc := s.llc.filter (fun l => !(l.line == line && l.dirty != 0)) }))

/-- DECOMPRESS_RETRY (R33): the decode of a hart's access fails to validate once more. -/
def execDecompressRetry (hart : Nat) (s : State) : Out State :=
  .next (s.whenOn (fun s => s.modHart hart (fun h => { h with attempts := min 4 (h.attempts + 1) })))

/-! CXL.mem (R62, R66). -/

/-- Does an address lie in a frame of a function under reset (R75)? -/
def State.frameResetting (s : State) (pa : Nat) : Bool := s.vfResetting.contains (s.frameOwner (pa / 4096))

/-- A line enters the snoop filter of its home: 16,384 lines a slice, the least recently entered leaving with a BISnp (R62). A line that leaves holds
writes up until the host has answered. -/
def State.snoopEnter (s : State) (line : Nat) : State :=
  let s := { s with snoop := s.snoop.filter (fun l => l != line) }
  let here := s.snoop.filter (fun l => s.homeSlice l == s.homeSlice line && !s.snoopWait.contains l)
  let s := if here.length < 16384 then s else
    match here with
    | l :: _ => s.askHost [l]
    | [] => s
  { s with snoop := s.snoop ++ [line] }

/-- HOST_MEM_READ (R62): the host reads a line. -/
def execHostMemRead (addr : Nat) (cacheable : Bool) (s : State) : Out State :=
  .next (s.whenOn (fun s =>
    let a := addr / 64 * 64
    if paLimit < a + 64 then s else
    let r := s.homeBytes a 64
    let bad := s.frameResetting a
    let p := BitVec.ofNat 4 (sumN ((List.range 4).map (fun i => b2n (bad || r.2.getD (16 * i) false) * 2 ^ i)))
    let s := (s.touchRead a 64 true).send (.hostData a r.1 p)
    if cacheable then s.snoopEnter (a / 64) else s))

/-- One line of a host write: it commits, and a line of a live window goes to the scheduler when it is written whole, else
counts in PARTIAL (R66, R67). -/
def State.hostLine (s : State) (p : Nat × List (Byte × Bool)) : State :=
  if s.frameResetting p.1 then s else
  let s := s.commitPiece true p
  (s.windowsAt (p.1 / 64 * 64)).foldl (fun (s : State) w =>
    if p.2.length = 64 then
      { s with launchQ := s.launchQ ++ [(w.1, w.2, BitVec.ofNat 512 (leVal (p.2.map Prod.fst)))] }
    else s.modFn w.1 (fun g => { g with partial16 := if g.partial16 = 0xFFFF then g.partial16 else g.partial16 + 1 })) s

/-- HOST_MEM_WRITE (R62, R66): the host writes device memory, line by line. -/
def execHostMemWrite (addr len data : Nat) (s : State) : Out State :=
  .next (s.whenOn (fun s =>
    if paLimit < addr + len then s
    else (linePieces addr ((leBytes len data).map (fun b => (b, false)))).foldl State.hostLine s))

/-! CXL.cache and its ports (R60, R61, R212). -/

/-- Answer a request that has left the device and has no answer. A request of a hart that is gone ends with it. -/
def State.answer (s : State) (req : Nat) (host : Bool) (status data : Nat) (poison : BitVec 4) : State :=
  let here (e : ExtReq) : Bool := e.id == req && e.host == host && e.reply.isNone
  let gone (e : ExtReq) : Bool := decide (e.hart < 2 ^ 32) && (s.hart? e.hart).isNone
  { s with ext := (s.ext.filter (fun e => !(here e && gone e))).map (fun (e : ExtReq) =>
      if here e then { e with reply := some (status, data, poison) } else e) }

/-- CXL_CACHE_RESPONSE (R212): the data, with the poison of each sector of the line. -/
def execCxlCacheResponse (req data poison : Nat) (s : State) : Out State :=
  .next (s.whenOn (fun s => s.answer req true 0 data (BitVec.ofNat 4 poison)))

/-- CXL_PORT_DOWN (R60). -/
def execCxlPortDown (port : Nat) (s : State) : Out State :=
  .next (s.whenOn (fun s => { s with cxlUp := s.cxlUp &&& ~~~(BitVec.ofNat 4 (2 ^ port)) }))

/-- CXL_PORT_UP (R60, R61): a link slower than 32 GT/s or in 68-byte flit mode trains to CXL.io only (`ioOnly`) and carries no CXL.cache traffic. -/
def execCxlPortUp (port : Nat) (s : State) (ioOnly : Bool := false) : Out State :=
  .next (s.whenOn (fun s => { s with
    cxlUp := if ioOnly then s.cxlUp &&& ~~~(BitVec.ofNat 4 (2 ^ port)) else s.cxlUp ||| BitVec.ofNat 4 (2 ^ port) }))

/-! Token buckets (R76 to R78). -/

/-- The hart's oldest write that is not served becomes served. -/
def Hart.serve (h : Hart) : Hart :=
  { h with wbuf := h.wbuf.takeWhile PendWrite.served ++ (match h.wbuf.dropWhile PendWrite.served with
      | [] => []
      | w :: rest => { w with served := true } :: rest) }

/-- The request that a port serves next: among those that hold tokens, in class order, then the oldest (R76). -/
def State.portNext (s : State) (port : Nat) : Option PortReq :=
  ((s.portWaiting port).filter (fun r => (s.pay port r.fn r.cls r.need).isSome)).foldl (fun (b : Option PortReq) r =>
    match b with
    | none => some r
    | some y => if r.cls < y.cls || (r.cls == y.cls && decide (r.order < y.order)) then some r else some y) none

/-- A port serves the request that is next: a write of a write buffer; another unit's request is served as that unit tries again. -/
def State.portServe (s : State) (port : Nat) : State :=
  match s.portNext port with
  | none => s
  | some r => if r.agent = 1000 then (((s.pay port r.fn r.cls r.need).getD s).lenderActive port r.fn r.cls).modHart r.hart Hart.serve else s

/-- L2_PORT_SERVE (R76). -/
def execL2PortServe (port : Nat) (s : State) : Out State := .next (s.whenOn (fun s => s.portServe port))

/-- Add steps to the spill pool of a class, at most 4,096 tokens; the function that fed it is noted (R78). -/
def State.feed (s : State) (port fn cls n : Nat) : State :=
  if n = 0 then s else
  let old : Pool := match s.pools.find? (fun p => p.port == port && p.cls == cls) with
    | some p => p
    | none => { port := port, cls := cls, fill := 0, lending := true, feeders := [], lastBusy := 0 }
  let new : Pool := { old with fill := min (4096 * 1024) (old.fill + n), feeders := setIns old.feeders fn }
  { s with pools := new :: s.pools.filter (fun p => !(p.port == port && p.cls == cls)) }

/-- One mesh cycle of one bucket: RATE steps of 1/1,024 token, up to DEPTH (R78). -/
def State.accrue (s : State) (port fn cls : Nat) : State :=
  let q := s.qosctx fn cls
  let full := BF q 16 16 * 1024
  let fill := s.bucketFill port fn cls + BF q 0 16
  let s := if s.bucketFill port fn cls = min full fill then s else s.setBucket port fn cls (min full fill)
  s.feed port fn cls (fill - full)

/-- Has a lender of a pool, a context of its class whose bucket fed it, a request waiting at the port (R78)? -/
def State.lenderWaits (s : State) (p : Pool) : Bool :=
  (s.portWaiting p.port).any (fun r => r.cls == p.cls && p.feeders.contains r.fn)

/-- The pools of a port note when a lender last had a request waiting. -/
def State.notePools (s : State) (port : Nat) : State :=
  { s with pools := s.pools.map (fun (p : Pool) => if p.port == port && s.lenderWaits p then { p with lastBusy := s.meshCycles } else p) }

/-- BUCKET_ACCRUE (R78): one mesh cycle of every bucket of a port. -/
def execBucketAccrue (port : Nat) (s : State) : Out State :=
  .next (s.whenOn (fun s => if port < 4 then
    ((List.range 65).foldl (fun (s : State) f => (List.range 4).foldl (fun (s : State) c => s.accrue port f c) s) s).notePools port else s))

/-- LENDER_ACTIVE (R78): a context whose bucket fed the pool has a request waiting: the pool stops lending and is emptied. What overflows goes on into
it. A request is admitted and served in one, so none that borrowed is left to serve after the lender's. -/
def execLenderActive (port fn cls : Nat) (s : State) : Out State :=
  .next (s.whenOn (fun s =>
    if (s.portWaiting port).any (fun r => r.fn == fn && r.cls == cls) then s.lenderActive port fn cls else s))

/-- May a pool lend again: no lender has had a request waiting for 1,024 mesh cycles (R78)? -/
def State.relends (s : State) (p : Pool) : Bool :=
  !p.lending && !s.lenderWaits p && decide (p.lastBusy + 1024 ≤ s.meshCycles)

/-- SPILL_POOL_RELEND (R78). -/
def execSpillPoolRelend (port cls : Nat) (s : State) : Out State :=
  .next (s.whenOn (fun s => { s with pools := s.pools.map (fun (p : Pool) =>
    if p.port == port && p.cls == cls && s.relends p then { p with lending := true } else p) }))

/-! Reset of a virtual function (R75). -/

/-- VF_RESET (R75): virtual function vf, which is function vf + 1. -/
def execVfReset (vf : Nat) (s : State) : Out State := .next (s.whenOn (fun s => if vf < 64 then s.vfResetStart (vf + 1) else s))

/-- The frames a function owns, by the frame table. -/
def State.framesOf (s : State) (f : Nat) : List Nat :=
  let lo := s.frameEntry 0
  s.mem.filterMap (fun c => if lo ≤ c.1 ∧ c.1 < lo + 2 * 200441856 ∧ (c.1 - lo) % 2 = 1 ∧ c.2.toNat % 128 = f
    then some ((c.1 - lo) / 2) else none)

/-- Another function's subscription to a line of the function ends with its slot CLOSED (R75 step 4): a subscriber on another device learns it by a
push flit (log 11, DESIGN CHOICE, unsafe). -/
def State.closeSub (s : State) (u : Sub) : State :=
  if 2 ^ 40 ≤ u.hart then
    ({ s with pushes := s.pushes.filter (fun p => !(p.hart == u.hart && p.slot == u.slot)) } : State).sendPush
      { hart := u.hart, slot := u.slot, value := 0, poison := false, seq := 2 ^ 48 + u.seq, fn := u.fn, addr := u.addr, part := u.part }
  else s.closeSlot u.hart u.slot

/-- Does a subscription belong to a hart of function f of this device? -/
def Sub.mine (u : Sub) (f : Nat) : Bool := u.fn == f && decide (u.hart < 2 ^ 40)

/-- Step 4 of R75: the entries that the function holds, and those that others hold on its lines. -/
def State.vfSubs (s : State) (f : Nat) (frames : List Nat) : State :=
  let on (u : Sub) : Bool := u.dev.isNone && frames.contains (u.addr / 64 / 64)
  let s := (s.subs.filter (fun u => !u.mine f && on u)).foldl State.closeSub s
  { s with subs := s.subs.filter (fun u => !(u.mine f || on u)) }

/-- Steps 6 and 7 of R75 on function f. -/
def State.vfClear (s : State) (f : Nat) (frames : List Nat) : State :=
  let mine (pa : Nat) : Bool := frames.contains (pa / 4096)
  let owned := s.trees.filter (fun t => t.owner == f)
  let s := owned.foldl (fun (s : State) t => s.teardown t.id) s
  let s := { s with
    streams := s.streams.filter (fun x => x.fn != f)
    trees := s.trees.filter (fun t => t.owner != f)
    harts := s.harts.filter (fun h => h.fn != f)
    kvMarks := s.kvMarks.filter (fun x => x.1 != f)
    kvDetached := s.kvDetached.filter (fun x => x.1 != f)
    roCache := s.roCache.filter (fun l => l.fn != f)
    mem := s.mem.filter (fun c => !mine c.1)
    poison := s.poison.filter (fun x => !mine (16 * x) || s.retiredLine (x / 4))
    llc := s.llc.filter (fun l => !mine (64 * l.line))
    surfRecs := s.surfRecs.filter (fun r => r.fn != f)
    apCopies := s.apCopies.filter (fun r => r.fn != f)
    faults := s.faults.filter (fun o => o.fn != f)
    tlb := s.tlb.filter (fun t => t.fn != f)
    icache := s.icache.filter (fun l => l.fn != f)
    buckets := s.buckets.filter (fun b => b.fn != f) }
  let s := frames.foldl (fun (s : State) fr =>
    let a := s.frameEntry fr + 1
    s.homeOp (.bytes a [BitVec.ofNat 8 ((s.mem.read1 a).toNat / 128 * 128 + 127)] none)) s
  s.modFn f (fun g => { FnRegs.reset with vfcfg := g.vfcfg, qos := g.qos, fabpart := g.fabpart, msixMask := g.msixMask })

/-- Is a write that a hart of a function sent out still under way (R73)? `subs` asks about the removal of its subscriptions, which ends
with their homes' answers. -/
def State.fnWrites (s : State) (f : Nat) (subs : Bool) : Bool :=
  s.ext.any (fun e => e.write && e.reply.isNone && (e.agent == 110) == subs && (s.hart? e.hart).any (fun h => h.fn == f))

/-- Step 4 of R75 for the harts of a function: their subscriptions are removed at every home. -/
def State.vfUnsub (s : State) (f : Nat) : State :=
  ((s.harts.filter (fun h => h.fn == f)).map Hart.id).foldl State.unsubAll s

/-- Step 6 of R75 for the harts of a function: the rounds in which they are waiting leaves time out. -/
def State.vfRounds (s : State) (f : Nat) : State :=
  ((s.harts.filter (fun h => h.fn == f)).map Hart.id).foldl State.timeoutRounds s

/-- The lines whose writes the reset needs the host to have given up: those of the function's frames, and those that hold the frames' owners. -/
def State.vfHeld (s : State) (frames : List Nat) : List Nat :=
  s.snoop.filter (fun l => frames.contains (l / 64) || frames.any (fun fr => (s.frameEntry fr + 1) / 64 == l))

/-- VF_RESET_COMPLETE (R75), steps 3 to 8 in their order: the writes of its copies are through (3), its subscriptions are gone at every home (4),
Garnet has released its sequences (5), its trees and rounds are torn down (6), the host has given up every line of its frames and of
their table entries and the pages are cleared (7). The reset ends with the owners written (8). -/
def execVfResetComplete (vf : Nat) (s : State) : Out State :=
  .next (s.whenOn (fun s =>
    let f := vf + 1
    if !s.vfResetting.contains f ∨ s.fnWrites f false then s else
    let s := s.vfUnsub f
    if s.fnWrites f true then s else
    let frames := s.framesOf f
    let held := s.vfHeld frames
    if !held.isEmpty then s.askHost held
    else if frames.any (fun fr => s.homeBusy (s.frameEntry fr + 1) 1) then s
    else
      let r := (s.vfSubs f frames).kvDetach f
      if !r.2 then r.1
      else
        let t := (r.1.vfRounds f).vfClear f frames
        { t with vfResetting := t.vfResetting.filter (fun x => x != f) }.msix 0 3))

end Sys2Proof.Machine
end

