-- ==== Sys2Proof/Machine/FabricEvents.lean ====
section
/-! DEFINITION. Ngarok ports, requests of other devices, responses, and the moves of reduction trees (R43 to R59, R358). -/

namespace Sys2Proof.Machine

/-! Ports (R47, R48). -/

/-- REQTO in nanoseconds. -/
def State.reqto (s : State) : Nat := BF s.dev.fabcfg 32 16 * 1000

/-- Is a port's link trained? -/
def State.portUp (s : State) (p : Nat) : Bool := BB ((s.dev.fabpstat[p]?).getD 0) 0

/-- A port comes up on 8 or 4 lanes. -/
def State.trainPort (s : State) (p lanes : Nat) : State :=
  if p < 20 ∧ (lanes = 8 ∨ lanes = 4) then
    { s.modPort p (fun v => WS (WS (WS v 4 4 lanes) 1 1 (b2n (lanes == 4))) 0 1 1) with
      portFails := s.portFails.setIfInBounds p 0
      portDown := s.portDown.setIfInBounds p none }
  else s

/-- LINK_TRAINED (R48). -/
def execLinkTrained (port lanes : Nat) (s : State) : Out State :=
  .next (s.whenOn (fun s => if s.portUp port then s else s.trainPort port lanes))

/-- FLIT_RECEIVE (R47): a flit of a reserved kind is discarded and counted; any other shows that the port carries frames. -/
def execFlitReceive (port kind : Nat) (s : State) : Out State :=
  .next (s.whenOn (fun s => if s.portUp port then
    (if 12 ≤ kind % 16 then s.countCrc port else { s with portFails := s.portFails.setIfInBounds port 0 }) else s))

/-- A frame goes out again from a port's replay buffer; RETRY and CRCERR count it, and one more in a row. -/
def State.frameAgain (s : State) (port : Nat) (f : BitVec 128 × Nat) : State :=
  let s := ((s.send (.flit port f.1 f.2)).modPort port (fun v => WS v 32 16 (min 0xFFFF (BF v 32 16 + 1)))).countCrc port
  { s with portFails := s.portFails.setIfInBounds port ((s.portFails[port]?).getD 0 + 1) }

/-- FRAME_REPLAY (R48): a frame that fails its CRC, by its place in the port's replay buffer, oldest first, is sent again. When the 16th replay in a row
fails too, the frame counts in CRCERR and the port goes down to retrain. A device without an id sends nothing (R43). -/
def execFrameReplay (port : Nat) (s : State) (idx : Nat := 0) : Out State :=
  .next (s.whenOn (fun s =>
    match ((s.replay[port]?).getD [])[idx]? with
    | none => s
    | some f =>
      if !s.portUp port ∨ 640 ≤ s.devId then s
      else if (s.portFails[port]?).getD 0 < 16 then s.frameAgain port f
      else { (s.countCrc port).modPort port (fun v => WS v 0 1 0) with
        portDown := s.portDown.setIfInBounds port (some s.dev.devtime.toNat) }))

/-- PORT_RETRAIN (R48): after 16 failed replays; on 4 lanes it runs DEGRADED. -/
def execPortRetrain (port lanes : Nat) (s : State) : Out State :=
  .next (s.whenOn (fun s => if 16 ≤ (s.portFails[port]?).getD 0 ∧ !s.portUp port then s.trainPort port lanes else s))

/-- PORT_DOWN_TIMEOUT (R48): the outstanding requests of a port that stays down end with LINK. -/
def execPortDownTimeout (port : Nat) (s : State) : Out State :=
  .next (s.whenOn (fun s =>
    match (s.portDown[port]?).getD none with
    | none => s
    | some t =>
      if s.portUp port ∨ s.dev.devtime.toNat - t ≤ s.reqto then s else
      { s with ext := s.ext.map (fun (e : ExtReq) =>
          if !e.host && e.port == port && e.reply.isNone then { e with reply := some (4, 0, 0) } else e) }))

/-! Responses to this device's requests (R51). -/

/-- FABRIC_RESPONSE (R51): the statuses a home or a switch gives, the data, and its poison, one bit for each sector of the line. -/
def execFabricResponse (req status data poison : Nat) (s : State) : Out State :=
  .next (s.whenOn (fun s => if status < 3 ∧ s.devId < 640 then s.answer req false status data (BitVec.ofNat 4 poison) else s))

/-- FABRIC_REQUEST_TIMEOUT (R51, R200): no response within REQTO, from another device or from the host. -/
def execFabricRequestTimeout (req : Nat) (s : State) : Out State :=
  .next (s.whenOn (fun s =>
    match s.ext.find? (fun e => e.id == req && decide (s.reqto ≤ s.dev.devtime.toNat - e.since)) with
    | some e => s.answer req e.host 3 0 0
    | none => s))

/-! Requests of other devices at their home (R45, R49 to R51). -/

/-- A request that writes a line waits at its home while the host may cache the line, and behind earlier ones of the line (R62). -/
def State.remHeld (s : State) (q : RemReq) : Bool :=
  !(s.heldLines q.addr q.len).isEmpty || s.remWait.any (fun x => x.addr / 64 == q.addr / 64)

/-- Such a request waits. -/
def State.remHold (s : State) (q : RemReq) : State :=
  { s with remWait := s.remWait ++ [q] }.askHost (s.heldLines q.addr q.len)

/-- A remote read (kind 0). -/
def State.homeServeRead (s : State) (q : RemReq) : State :=
  let r := s.homeBytes q.addr q.len
  (s.touchRead q.addr q.len true).respond q 0 (sectorPoison q.addr r.2) (leVal r.1)

/-- The bytes that a remote write leaves: a 4-bit store writes its half of one byte (R200). -/
def RemReq.bytes (q : RemReq) (old : List Byte) : List Byte :=
  let new := leBytes q.len q.data
  let o := (old.headD 0).toNat
  match q.half with
  | 1 => [BitVec.ofNat 8 (o / 16 * 16 + q.data % 16)]
  | 2 => [BitVec.ofNat 8 (q.data % 256 / 16 * 16 + o % 16)]
  | _ => new

/-- The poison those bytes take (R38): a byte half written keeps that of the half left. -/
def RemReq.marks (q : RemReq) (old : List Bool) : List Bool :=
  let new := bytePoison q.addr q.len q.poison
  if q.half = 0 then new else (new.zip old).map (fun x => x.1 || x.2)

/-- A remote write (kind 2): acknowledged once it has committed. -/
def State.homeServeWrite (s : State) (q : RemReq) : State :=
  if s.remHeld q then s.remHold q
  else
    let old := s.homeBytes q.addr q.len
    (s.commitWrite q.addr (q.bytes old.1) (q.marks old.2)).respond q 0 0 0

/-- The new value of a remote atomic: an operation of R280 (0 to 63) or 64 + the operation of a vector atomic (R326), its operand and, for cas, the
expected value, from the payload (log 11, DESIGN CHOICE, unsafe). -/
def RemReq.atomicValue (q : RemReq) (old : Nat) : Option Nat :=
  let w := 8 * q.len
  let op := bits q.data 0 8
  if 64 ≤ op then some (vamoValue (op - 64) w old (bits q.data 8 64 % 2 ^ w)).1
  else amoValue op w old (bits q.data 8 64 % 2 ^ w) (bits q.data 72 64)

/-- A swap, scalar or vector: it consumes no old value (R38, R280, R327). -/
def RemReq.swaps (q : RemReq) : Bool := bits q.data 0 8 == 3 || bits q.data 0 8 == 66

/-- A swap or a scalar compare-and-swap: the value it writes carries its operand's poison, the first sector's of the payload (R280, R327). -/
def RemReq.carries (q : RemReq) : Bool := q.swaps || (decide (bits q.data 0 8 < 64) && decide (11 < bits q.data 0 8))

/-- A remote atomic (kind 4): performed at the home, which answers the old value. -/
def State.homeServeAtomic (s : State) (q : RemReq) : State :=
  let r := s.homeBytes q.addr q.len
  let old := leVal r.1
  let answer (s : State) : State := s.respond q 0 (sectorPoison q.addr r.2) old
  match (if r.2.any id && !q.swaps then none else q.atomicValue old) with
  | none => answer (s.touchRead q.addr q.len true)
  | some v =>
    if s.remHeld q then s.remHold q
    else answer (s.commitWrite q.addr (leBytes q.len v) (List.replicate q.len (q.carries && BB q.poison 0)))

/-- A remote subscription (kind 6): bit 32 of the payload ends the entry; a full slice answers with bit 64 (log 11, DESIGN CHOICE, unsafe). -/
def State.homeServeSub (s : State) (q : RemReq) : State :=
  let who := farHart q.src (bits q.data 6 26)
  let slot := bits q.data 0 6
  if bit q.data 32 then
    -- the pushes ordered before the removal go first (R360)
    let mine := s.pushes.filter (fun p => p.hart == who && p.slot == slot)
    let s := mine.foldl State.sendPush { s with pushes := s.pushes.filter (fun p => !(p.hart == who && p.slot == slot)) }
    { s with subs := s.subs.filter (fun u => !(u.hart == who && u.slot == slot && u.dev.isNone)) }.respond q 0 0 0
  else if 4096 ≤ (s.subs.filter (fun (u : Sub) => u.dev.isNone && s.homeSlice (u.addr / 64) == s.homeSlice (q.addr / 64))).length then
    s.respond q 0 0 (2 ^ 64) true
  else
    let r := s.homeBytes q.addr 8
    let u : Sub := { addr := q.addr, fn := q.fn, hart := who, slot := slot, seq := 0, dev := none, part := q.part }
    { s with subs := s.subs ++ [u] }.respond q 0 (sectorPoison q.addr r.2) (leVal r.1)

/-- REMOTE_REQUEST (R43, R45, R50): a device without an id refuses; an address beyond the limit is ADDR; the partition is the owner's of the frame, and
neither is 0. -/
def State.remoteRequest (s : State) (q : RemReq) : State :=
  if 640 ≤ s.devId ∨ 640 ≤ q.src then s
  else if q.kind = 7 then s.pushArrive q
  else if q.kind = 11 then s.sendArrive q
  else if !([0, 2, 4, 6].contains q.kind) ∨ q.len = 0 ∨ 64 < q.addr % 64 + q.len ∨ (q.kind = 6 ∧ q.addr % 8 ≠ 0)
      ∨ (q.kind = 4 ∧ !([2, 4, 8].contains q.len)) ∨ (q.half ≠ 0 ∧ q.len ≠ 1) then s
  else if paLimit < q.addr + q.len then s.respond q 1 0 0
  else
    let owner := s.frameOwner (q.addr / 4096)
    let have_ := BF (s.fn owner).fabpart 0 16
    if q.part = 0 ∨ have_ = 0 ∨ q.part ≠ have_ ∨ s.vfResetting.contains owner then s.respond q 2 0 0
    else match q.kind with
      | 0 => s.homeServeRead q
      | 2 => s.homeServeWrite q
      | 4 => s.homeServeAtomic q
      | _ => s.homeServeSub q

/-- REMOTE_REQUEST (R47, R50, R51): what the flit carries, its poison for each sector, the half of a byte that a 4-bit store writes, and the requester's tag. -/
def execRemoteRequest (kind src part fn addr bytes data : Nat) (s : State) (poison half tag : Nat := 0) : Out State :=
  .next (s.whenOn (fun s => s.remoteRequest
    { kind := kind, src := src, part := part, fn := fn, addr := addr, len := bytes, data := data, poison := BitVec.ofNat 4 poison, half := half, tag := tag }))

/-- What waits for the host tries again, in order: the device's own writes, Garnet's markings, fault records, other devices' requests. -/
def State.hostYields (s : State) : State :=
  let s := s.homeRetry.kvRetry.cplRetry
  let s := (List.range 65).foldl State.fqDrain s
  s.remWait.foldl State.remoteRequest { s with remWait := [] }

/-- BISNP_RESPONSE (R62): the host has given the line up. -/
def execBisnpResponse (line : Nat) (s : State) : Out State :=
  .next (s.whenOn (fun s => if s.snoopWait.contains line then
    { s with snoop := s.snoop.filter (fun l => l != line), snoopWait := s.snoopWait.filter (fun l => l != line) }.hostYields else s))

/-! Reduction trees (R57, R59). -/

/-- REDUCTION_OPERAND (R57). -/
def execReductionOperand (tree node child data poison flags : Nat) (s : State) : Out State :=
  .next (s.whenOn (fun s => s.reductionOperand tree node child data poison flags))

/-- REDUCTION_RESULT (R57). -/
def execReductionResult (tree node data poison flags : Nat) (s : State) : Out State :=
  .next (s.whenOn (fun s => s.reductionResult tree node data poison flags))

/-- REDUCTION_TIMEOUT (R59). -/
def execReductionTimeout (tree node : Nat) (s : State) : Out State := .next (s.whenOn (fun s => s.reductionTimeout tree node))

/-- TEARDOWN_FLIT (R59): a node of an installed tree receives a teardown from a neighbour, and forwards it to every other. -/
def execTeardownFlit (tree node : Nat) (s : State) (src : Nat := 0) : Out State :=
  .next (s.whenOn (fun s => if s.devId < 640 ∧ (s.treeNode? tree node).isSome then s.teardown tree (some src) else s))

end Sys2Proof.Machine
end

