-- ==== Sys2Proof/Machine/FaultCmd.lean ====
section
/-! DEFINITION. Replaying and converting open faults: FREPLAY and FCONV (R93, R96, R129, R135, R384). -/

namespace Sys2Proof.Machine

/-- A park after its fault is freed: gone on a replay, marked on a conversion; any other park stays. -/
def parkAfter (fid : Nat) (conv : Bool) (p : Park) : Option Park :=
  if p.conv then some p
  else if p.fid == fid || p.also.contains fid then (if conv then some { p with conv := true } else none)
  else some p

/-- An optional park after its fault is freed. -/
def parkFreed (fid : Nat) (conv : Bool) (p : Option Park) : Option Park := p.bind (parkAfter fid conv)

/-- A row whose request goes on has a ready block from then on (R151). -/
def Row.freed (now fid : Nat) (conv : Bool) (r : Row) : Row :=
  let p := parkFreed fid conv r.park
  { r with park := p, readySince := if p == r.park then r.readySince else now }

/-- Every request of a hart parked under a fault. -/
def Hart.freed (h : Hart) (now fid : Nat) (conv : Bool) : Hart :=
  let h := h.batchFreed fid conv
  { h with
    park := parkFreed fid conv h.park
    rows := h.rows.map (Row.freed now fid conv)
    tokens := h.tokens.map (fun (t : Token) => { t with job := t.job.map (fun (j : CopyJob) => { j with park := parkFreed fid conv j.park }) }) }

/-- The translations of an open fault's page that its die keeps: a replay walks again from the root (R93). -/
def TlbEntry.under (t : TlbEntry) (o : OpenFault) : Bool :=
  t.die == o.fid / 256 && t.fn == o.fn && t.page <<< t.shift >>> 12 == o.page >>> (t.shift - 12) <<< (t.shift - 12)

/-- An open fault entry frees and its requests go back to translation, or are converted. -/
def State.freeFault (s : State) (fid : Nat) (conv : Bool) : State :=
  let gone := s.faults.filter (fun o => o.fid == fid)
  State.kvRetry { s with
    tlb := if conv then s.tlb else s.tlb.filter (fun t => !gone.any t.under)
    faults := s.faults.filter (fun o => o.fid != fid)
    harts := s.harts.map (fun h => h.freed s.dev.devtime.toNat fid conv)
    streams := s.streams.map (fun (x : Stream) => { x with park := parkFreed fid conv x.park })
    cpls := s.cpls.map (fun (c : Cpl) => { c with park := parkFreed fid conv c.park })
    fns := s.fns.map (fun (g : FnRegs) => { g with kvPark := parkFreed fid conv g.kvPark }) }

/-- FRSTAT after a command (R384). -/
def frstatAfter (old : Word) (fid : Nat) (stale : Bool) : Word :=
  let cnt := if stale then min 0xFFFF (BF old 32 16 + 1) else BF old 32 16
  BitVec.ofNat 64 (fid + b2n stale * 2 ^ 16 + cnt * 2 ^ 32)

/-- FREPLAY or FCONV on the FID in s[a]. -/
def faultM (conv : Bool) (fn8 a : Nat) : M Unit := do
  needLevel 1 (xWord 0 a 0 fn8)
  let xe ← rdS a
  let x := xe.v
  if BF x 10 54 ≠ 0 then trapM 0x03 x
  consume xe.poison
  drained
  let h ← theHart
  let s ← get
  let fid := BF x 0 10
  let open_ := s.faults.any (fun o => o.fid == fid && o.fn == h.fn)
  let s := if open_ then s.freeFault fid conv else s
  set (s.modFn h.fn (fun g => { g with frstat := frstatAfter g.frstat fid (!open_) }))
  advance

/-- FREPLAY (R384). -/
def execFreplay (a : Nat) (s : State) : Out State := finish (faultM false 5 a) s
/-- FCONV (R384). -/
def execFconv (a : Nat) (s : State) : Out State := finish (faultM true 6 a) s

end Sys2Proof.Machine
end

