-- ==== Sys2Proof/Machine/VWords.lean ====
section
/-! DEFINITION. Issue of the vector and matrix words: each captures what it reads and enters the vector queue (R158, R160, R282, R293).
What a row then does with it stands in the row's dispatch. -/

namespace Sys2Proof.Machine

/-- Enter the queue, once no earlier entry still owes the scalar destination. -/
def issueTo (d : Nat) (i : Instr) : M Unit := do
  destFree d
  enqueueI i

/-- vaddI (R294). -/
def execVaddI (d a b f m : Nat) (s : State) : Out State := finish (enqueueI (.vaddI d a b f m)) s
/-- vsubI (R294). -/
def execVsubI (d a b f m : Nat) (s : State) : Out State := finish (enqueueI (.vsubI d a b f m)) s
/-- vmulI (R294). -/
def execVmulI (d a b f m : Nat) (s : State) : Out State := finish (enqueueI (.vmulI d a b f m)) s
/-- vmulhI (R294). -/
def execVmulhI (d a b f m : Nat) (s : State) : Out State := finish (enqueueI (.vmulhI d a b f m)) s
/-- vminI (R294). -/
def execVminI (d a b f m : Nat) (s : State) : Out State := finish (enqueueI (.vminI d a b f m)) s
/-- vmaxI (R294). -/
def execVmaxI (d a b f m : Nat) (s : State) : Out State := finish (enqueueI (.vmaxI d a b f m)) s
/-- vmaccI (R294). -/
def execVmaccI (d a b f m : Nat) (s : State) : Out State := finish (enqueueI (.vmaccI d a b f m)) s
/-- vdivI (R294). -/
def execVdivI (d a b f m : Nat) (s : State) : Out State := finish (enqueueI (.vdivI d a b f m)) s
/-- vaddIS (R294). -/
def execVaddIS (d a b f m : Nat) (s : State) : Out State := finish (enqueueI (.vaddIS d a b f m)) s
/-- vsubIS (R294). -/
def execVsubIS (d a b f m : Nat) (s : State) : Out State := finish (enqueueI (.vsubIS d a b f m)) s
/-- vmulIS (R294). -/
def execVmulIS (d a b f m : Nat) (s : State) : Out State := finish (enqueueI (.vmulIS d a b f m)) s
/-- vmulhIS (R294). -/
def execVmulhIS (d a b f m : Nat) (s : State) : Out State := finish (enqueueI (.vmulhIS d a b f m)) s
/-- vminIS (R294). -/
def execVminIS (d a b f m : Nat) (s : State) : Out State := finish (enqueueI (.vminIS d a b f m)) s
/-- vmaxIS (R294). -/
def execVmaxIS (d a b f m : Nat) (s : State) : Out State := finish (enqueueI (.vmaxIS d a b f m)) s
/-- vmaccIS (R294). -/
def execVmaccIS (d a b f m : Nat) (s : State) : Out State := finish (enqueueI (.vmaccIS d a b f m)) s
/-- vdivIS (R294). -/
def execVdivIS (d a b f m : Nat) (s : State) : Out State := finish (enqueueI (.vdivIS d a b f m)) s
/-- vaddF (R295). -/
def execVaddF (d a b f m : Nat) (s : State) : Out State := finish (enqueueI (.vaddF d a b f m)) s
/-- vsubF (R295). -/
def execVsubF (d a b f m : Nat) (s : State) : Out State := finish (enqueueI (.vsubF d a b f m)) s
/-- vmulF (R295). -/
def execVmulF (d a b f m : Nat) (s : State) : Out State := finish (enqueueI (.vmulF d a b f m)) s
/-- vdivF (R295). -/
def execVdivF (d a b f m : Nat) (s : State) : Out State := finish (enqueueI (.vdivF d a b f m)) s
/-- vminF (R295). -/
def execVminF (d a b f m : Nat) (s : State) : Out State := finish (enqueueI (.vminF d a b f m)) s
/-- vmaxF (R295). -/
def execVmaxF (d a b f m : Nat) (s : State) : Out State := finish (enqueueI (.vmaxF d a b f m)) s
/-- vfmaF (R295). -/
def execVfmaF (d a b f m : Nat) (s : State) : Out State := finish (enqueueI (.vfmaF d a b f m)) s
/-- vsqrtF (R295). -/
def execVsqrtF (d a f m : Nat) (s : State) : Out State := finish (enqueueI (.vsqrtF d a f m)) s
/-- vaddFS (R295). -/
def execVaddFS (d a b f m : Nat) (s : State) : Out State := finish (enqueueI (.vaddFS d a b f m)) s
/-- vsubFS (R295). -/
def execVsubFS (d a b f m : Nat) (s : State) : Out State := finish (enqueueI (.vsubFS d a b f m)) s
/-- vmulFS (R295). -/
def execVmulFS (d a b f m : Nat) (s : State) : Out State := finish (enqueueI (.vmulFS d a b f m)) s
/-- vdivFS (R295). -/
def execVdivFS (d a b f m : Nat) (s : State) : Out State := finish (enqueueI (.vdivFS d a b f m)) s
/-- vminFS (R295). -/
def execVminFS (d a b f m : Nat) (s : State) : Out State := finish (enqueueI (.vminFS d a b f m)) s
/-- vmaxFS (R295). -/
def execVmaxFS (d a b f m : Nat) (s : State) : Out State := finish (enqueueI (.vmaxFS d a b f m)) s
/-- vfmaFS (R295). -/
def execVfmaFS (d a b f m : Nat) (s : State) : Out State := finish (enqueueI (.vfmaFS d a b f m)) s
/-- vand (R297). -/
def execVand (d a b m : Nat) (s : State) : Out State := finish (enqueueI (.vand d a b m)) s
/-- vor (R297). -/
def execVor (d a b m : Nat) (s : State) : Out State := finish (enqueueI (.vor d a b m)) s
/-- vxor (R297). -/
def execVxor (d a b m : Nat) (s : State) : Out State := finish (enqueueI (.vxor d a b m)) s
/-- vnot (R297). -/
def execVnot (d a m : Nat) (s : State) : Out State := finish (enqueueI (.vnot d a m)) s
/-- vsll (R297). -/
def execVsll (d a b m : Nat) (s : State) : Out State := finish (enqueueI (.vsll d a b m)) s
/-- vsrl (R297). -/
def execVsrl (d a b m : Nat) (s : State) : Out State := finish (enqueueI (.vsrl d a b m)) s
/-- vsra (R297). -/
def execVsra (d a b m : Nat) (s : State) : Out State := finish (enqueueI (.vsra d a b m)) s
/-- vandS (R297). -/
def execVandS (d a b m : Nat) (s : State) : Out State := finish (enqueueI (.vandS d a b m)) s
/-- vorS (R297). -/
def execVorS (d a b m : Nat) (s : State) : Out State := finish (enqueueI (.vorS d a b m)) s
/-- vxorS (R297). -/
def execVxorS (d a b m : Nat) (s : State) : Out State := finish (enqueueI (.vxorS d a b m)) s
/-- vsllS (R297). -/
def execVsllS (d a b m : Nat) (s : State) : Out State := finish (enqueueI (.vsllS d a b m)) s
/-- vsrlS (R297). -/
def execVsrlS (d a b m : Nat) (s : State) : Out State := finish (enqueueI (.vsrlS d a b m)) s
/-- vsraS (R297). -/
def execVsraS (d a b m : Nat) (s : State) : Out State := finish (enqueueI (.vsraS d a b m)) s
/-- vcmpeq (R298). -/
def execVcmpeq (d a b f m : Nat) (s : State) : Out State := finish (enqueueI (.vcmpeq d a b f m)) s
/-- vcmpne (R298). -/
def execVcmpne (d a b f m : Nat) (s : State) : Out State := finish (enqueueI (.vcmpne d a b f m)) s
/-- vcmplt (R298). -/
def execVcmplt (d a b f m : Nat) (s : State) : Out State := finish (enqueueI (.vcmplt d a b f m)) s
/-- vcmple (R298). -/
def execVcmple (d a b f m : Nat) (s : State) : Out State := finish (enqueueI (.vcmple d a b f m)) s
/-- vcmpgt (R298). -/
def execVcmpgt (d a b f m : Nat) (s : State) : Out State := finish (enqueueI (.vcmpgt d a b f m)) s
/-- vcmpge (R298). -/
def execVcmpge (d a b f m : Nat) (s : State) : Out State := finish (enqueueI (.vcmpge d a b f m)) s
/-- vcmpun (R298). -/
def execVcmpun (d a b f m : Nat) (s : State) : Out State := finish (enqueueI (.vcmpun d a b f m)) s
/-- vcmpeqS (R298). -/
def execVcmpeqS (d a b f m : Nat) (s : State) : Out State := finish (enqueueI (.vcmpeqS d a b f m)) s
/-- vcmpneS (R298). -/
def execVcmpneS (d a b f m : Nat) (s : State) : Out State := finish (enqueueI (.vcmpneS d a b f m)) s
/-- vcmpltS (R298). -/
def execVcmpltS (d a b f m : Nat) (s : State) : Out State := finish (enqueueI (.vcmpltS d a b f m)) s
/-- vcmpleS (R298). -/
def execVcmpleS (d a b f m : Nat) (s : State) : Out State := finish (enqueueI (.vcmpleS d a b f m)) s
/-- vcmpgtS (R298). -/
def execVcmpgtS (d a b f m : Nat) (s : State) : Out State := finish (enqueueI (.vcmpgtS d a b f m)) s
/-- vcmpgeS (R298). -/
def execVcmpgeS (d a b f m : Nat) (s : State) : Out State := finish (enqueueI (.vcmpgeS d a b f m)) s
/-- vcmpunS (R298). -/
def execVcmpunS (d a b f m : Nat) (s : State) : Out State := finish (enqueueI (.vcmpunS d a b f m)) s
/-- mand (R299). -/
def execMand (d a b : Nat) (s : State) : Out State := finish (enqueueI (.mand d a b)) s
/-- mor (R299). -/
def execMor (d a b : Nat) (s : State) : Out State := finish (enqueueI (.mor d a b)) s
/-- mxor (R299). -/
def execMxor (d a b : Nat) (s : State) : Out State := finish (enqueueI (.mxor d a b)) s
/-- mandn (R299). -/
def execMandn (d a b : Nat) (s : State) : Out State := finish (enqueueI (.mandn d a b)) s
/-- mnot (R299). -/
def execMnot (d a : Nat) (s : State) : Out State := finish (enqueueI (.mnot d a)) s
/-- mpopc (R299). -/
def execMpopc (d a : Nat) (s : State) : Out State := finish (issueTo d (.mpopc d a)) s
/-- mfirst (R299). -/
def execMfirst (d a : Nat) (s : State) : Out State := finish (issueTo d (.mfirst d a)) s
/-- vmerge (R300). -/
def execVmerge (d a b m : Nat) (s : State) : Out State := finish (enqueueI (.vmerge d a b m)) s
/-- vmv (R300). -/
def execVmv (d a m : Nat) (s : State) : Out State := finish (enqueueI (.vmv d a m)) s
/-- vbcast (R300). -/
def execVbcast (d b m : Nat) (s : State) : Out State := finish (enqueueI (.vbcast d b m)) s
/-- vext (R300). -/
def execVext (d a b : Nat) (s : State) : Out State := finish (issueTo d (.vext d a b)) s
/-- vcvt (R301, R302). -/
def execVcvt (d a f m : Nat) (s : State) : Out State := finish (enqueueI (.vcvt d a f m)) s
/-- vclass (R303, R304). -/
def execVclass (d a f m : Nat) (s : State) : Out State := finish (enqueueI (.vclass d a f m)) s
/-- vrecpe (R303, R304). -/
def execVrecpe (d a f m : Nat) (s : State) : Out State := finish (enqueueI (.vrecpe d a f m)) s
/-- vexp2e (R303, R304). -/
def execVexp2e (d a f m : Nat) (s : State) : Out State := finish (enqueueI (.vexp2e d a f m)) s
/-- vsadd (R305). -/
def execVsadd (d a b f m : Nat) (s : State) : Out State := finish (enqueueI (.vsadd d a b f m)) s
/-- vssub (R305). -/
def execVssub (d a b f m : Nat) (s : State) : Out State := finish (enqueueI (.vssub d a b f m)) s
/-- vsmul (R305). -/
def execVsmul (d a b f m : Nat) (s : State) : Out State := finish (enqueueI (.vsmul d a b f m)) s
/-- vsmacc (R305). -/
def execVsmacc (d a b f m : Nat) (s : State) : Out State := finish (enqueueI (.vsmacc d a b f m)) s
/-- vssra (R305). -/
def execVssra (d a b f m : Nat) (s : State) : Out State := finish (enqueueI (.vssra d a b f m)) s
/-- vssrl (R305). -/
def execVssrl (d a b f m : Nat) (s : State) : Out State := finish (enqueueI (.vssrl d a b f m)) s
/-- vnclip (R305). -/
def execVnclip (d a b f m : Nat) (s : State) : Out State := finish (enqueueI (.vnclip d a b f m)) s
/-- vavg (R305). -/
def execVavg (d a b f m : Nat) (s : State) : Out State := finish (enqueueI (.vavg d a b f m)) s
/-- vsaddS (R305). -/
def execVsaddS (d a b f m : Nat) (s : State) : Out State := finish (enqueueI (.vsaddS d a b f m)) s
/-- vssubS (R305). -/
def execVssubS (d a b f m : Nat) (s : State) : Out State := finish (enqueueI (.vssubS d a b f m)) s
/-- vsmulS (R305). -/
def execVsmulS (d a b f m : Nat) (s : State) : Out State := finish (enqueueI (.vsmulS d a b f m)) s
/-- vsmaccS (R305). -/
def execVsmaccS (d a b f m : Nat) (s : State) : Out State := finish (enqueueI (.vsmaccS d a b f m)) s
/-- vssraS (R305). -/
def execVssraS (d a b f m : Nat) (s : State) : Out State := finish (enqueueI (.vssraS d a b f m)) s
/-- vssrlS (R305). -/
def execVssrlS (d a b f m : Nat) (s : State) : Out State := finish (enqueueI (.vssrlS d a b f m)) s
/-- vnclipS (R305). -/
def execVnclipS (d a b f m : Nat) (s : State) : Out State := finish (enqueueI (.vnclipS d a b f m)) s
/-- vavgS (R305). -/
def execVavgS (d a b f m : Nat) (s : State) : Out State := finish (enqueueI (.vavgS d a b f m)) s
/-- vredsumO (R306). -/
def execVredsumO (d a b f m : Nat) (s : State) : Out State := finish (enqueueI (.vredsumO d a b f m)) s
/-- vredsumU (R306). -/
def execVredsumU (d a b f m : Nat) (s : State) : Out State := finish (enqueueI (.vredsumU d a b f m)) s
/-- vredmin (R306). -/
def execVredmin (d a b f m : Nat) (s : State) : Out State := finish (enqueueI (.vredmin d a b f m)) s
/-- vredmax (R306). -/
def execVredmax (d a b f m : Nat) (s : State) : Out State := finish (enqueueI (.vredmax d a b f m)) s
/-- vredand (R306). -/
def execVredand (d a b f m : Nat) (s : State) : Out State := finish (enqueueI (.vredand d a b f m)) s
/-- vredor (R306). -/
def execVredor (d a b f m : Nat) (s : State) : Out State := finish (enqueueI (.vredor d a b f m)) s
/-- vredxor (R306). -/
def execVredxor (d a b f m : Nat) (s : State) : Out State := finish (enqueueI (.vredxor d a b f m)) s
/-- vscanO (R308). -/
def execVscanO (d a f m : Nat) (s : State) : Out State := finish (enqueueI (.vscanO d a f m)) s
/-- vscanFast (R308). -/
def execVscanFast (d a f m : Nat) (s : State) : Out State := finish (enqueueI (.vscanFast d a f m)) s
/-- viota (R309). -/
def execViota (d a m : Nat) (s : State) : Out State := finish (enqueueI (.viota d a m)) s
/-- vid (R309). -/
def execVid (d m : Nat) (s : State) : Out State := finish (enqueueI (.vid d m)) s
/-- rnggen (R309). -/
def execRnggen (d a b m : Nat) (s : State) : Out State := finish (enqueueI (.rnggen d a b m)) s
/-- vcompress (R310). -/
def execVcompress (d a m : Nat) (s : State) : Out State := finish (enqueueI (.vcompress d a m)) s
/-- vexpand (R310). -/
def execVexpand (d a m : Nat) (s : State) : Out State := finish (enqueueI (.vexpand d a m)) s
/-- vslideup (R311). -/
def execVslideup (d a b m : Nat) (s : State) : Out State := finish (enqueueI (.vslideup d a b m)) s
/-- vslidedn (R311). -/
def execVslidedn (d a b m : Nat) (s : State) : Out State := finish (enqueueI (.vslidedn d a b m)) s
/-- vslide1up (R311). -/
def execVslide1up (d a b m : Nat) (s : State) : Out State := finish (enqueueI (.vslide1up d a b m)) s
/-- vslide1dn (R311). -/
def execVslide1dn (d a b m : Nat) (s : State) : Out State := finish (enqueueI (.vslide1dn d a b m)) s
/-- vperm (R311). -/
def execVperm (d a b m : Nat) (s : State) : Out State := finish (enqueueI (.vperm d a b m)) s
/-- xchg (R312). -/
def execXchg (d a b : Nat) (s : State) : Out State := finish (enqueueI (.xchg d a b)) s
/-- vld (R314 to R325). -/
def execVld (d a g m e : Nat) (s : State) : Out State := finish (enqueueI (.vld d a g m e)) s
/-- vldu (R314 to R325). -/
def execVldu (d a g m e : Nat) (s : State) : Out State := finish (enqueueI (.vldu d a g m e)) s
/-- vldf (R314 to R325). -/
def execVldf (d a g m e : Nat) (s : State) : Out State := finish (enqueueI (.vldf d a g m e)) s
/-- vst (R314 to R325). -/
def execVst (d a g m e : Nat) (s : State) : Out State := finish (enqueueI (.vst d a g m e)) s
/-- vstu (R314 to R325). -/
def execVstu (d a g m e : Nat) (s : State) : Out State := finish (enqueueI (.vstu d a g m e)) s
/-- vlds (R314 to R325). -/
def execVlds (d a b g m e : Nat) (s : State) : Out State := finish (enqueueI (.vlds d a b g m e)) s
/-- vldsu (R314 to R325). -/
def execVldsu (d a b g m e : Nat) (s : State) : Out State := finish (enqueueI (.vldsu d a b g m e)) s
/-- vldsf (R314 to R325). -/
def execVldsf (d a b g m e : Nat) (s : State) : Out State := finish (enqueueI (.vldsf d a b g m e)) s
/-- vsts (R314 to R325). -/
def execVsts (d a b g m e : Nat) (s : State) : Out State := finish (enqueueI (.vsts d a b g m e)) s
/-- vstsu (R314 to R325). -/
def execVstsu (d a b g m e : Nat) (s : State) : Out State := finish (enqueueI (.vstsu d a b g m e)) s
/-- vldx (R314 to R325). -/
def execVldx (d a b m e : Nat) (s : State) : Out State := finish (enqueueI (.vldx d a b m e)) s
/-- vldxu (R314 to R325). -/
def execVldxu (d a b m e : Nat) (s : State) : Out State := finish (enqueueI (.vldxu d a b m e)) s
/-- vstx (R314 to R325). -/
def execVstx (d a b m e : Nat) (s : State) : Out State := finish (enqueueI (.vstx d a b m e)) s
/-- vstxu (R314 to R325). -/
def execVstxu (d a b m e : Nat) (s : State) : Out State := finish (enqueueI (.vstxu d a b m e)) s
/-- vamoaddI (R326, R327). -/
def execVamoaddI (d a b m e : Nat) (s : State) : Out State := finish (enqueueI (.vamoaddI d a b m e)) s
/-- vamoadduI (R326, R327). -/
def execVamoadduI (d a b m e : Nat) (s : State) : Out State := finish (enqueueI (.vamoadduI d a b m e)) s
/-- vamoaddF (R326, R327). -/
def execVamoaddF (d a b m e : Nat) (s : State) : Out State := finish (enqueueI (.vamoaddF d a b m e)) s
/-- vamoadduF (R326, R327). -/
def execVamoadduF (d a b m e : Nat) (s : State) : Out State := finish (enqueueI (.vamoadduF d a b m e)) s
/-- vamoswap (R326, R327). -/
def execVamoswap (d a b m e : Nat) (s : State) : Out State := finish (enqueueI (.vamoswap d a b m e)) s
/-- vamoswapu (R326, R327). -/
def execVamoswapu (d a b m e : Nat) (s : State) : Out State := finish (enqueueI (.vamoswapu d a b m e)) s
/-- vamomin (R326, R327). -/
def execVamomin (d a b m e : Nat) (s : State) : Out State := finish (enqueueI (.vamomin d a b m e)) s
/-- vamominu (R326, R327). -/
def execVamominu (d a b m e : Nat) (s : State) : Out State := finish (enqueueI (.vamominu d a b m e)) s
/-- vamomax (R326, R327). -/
def execVamomax (d a b m e : Nat) (s : State) : Out State := finish (enqueueI (.vamomax d a b m e)) s
/-- vamomaxu (R326, R327). -/
def execVamomaxu (d a b m e : Nat) (s : State) : Out State := finish (enqueueI (.vamomaxu d a b m e)) s
/-- vamoand (R326, R327). -/
def execVamoand (d a b m e : Nat) (s : State) : Out State := finish (enqueueI (.vamoand d a b m e)) s
/-- vamoandu (R326, R327). -/
def execVamoandu (d a b m e : Nat) (s : State) : Out State := finish (enqueueI (.vamoandu d a b m e)) s
/-- vamoor (R326, R327). -/
def execVamoor (d a b m e : Nat) (s : State) : Out State := finish (enqueueI (.vamoor d a b m e)) s
/-- vamooru (R326, R327). -/
def execVamooru (d a b m e : Nat) (s : State) : Out State := finish (enqueueI (.vamooru d a b m e)) s
/-- vamoxor (R326, R327). -/
def execVamoxor (d a b m e : Nat) (s : State) : Out State := finish (enqueueI (.vamoxor d a b m e)) s
/-- vamoxoru (R326, R327). -/
def execVamoxoru (d a b m e : Nat) (s : State) : Out State := finish (enqueueI (.vamoxoru d a b m e)) s
/-- mrow (R336 to R341). -/
def execMrow (d a n f : Nat) (s : State) : Out State := finish (enqueueI (.mrow d a n f)) s
/-- mrowm (R336 to R341). -/
def execMrowm (d a n f : Nat) (s : State) : Out State := finish (enqueueI (.mrowm d a n f)) s
/-- mrowx (R336 to R341). -/
def execMrowx (d a n f : Nat) (s : State) : Out State := finish (enqueueI (.mrowx d a n f)) s
/-- mxrd (R336 to R341). -/
def execMxrd (d a f : Nat) (s : State) : Out State := finish (enqueueI (.mxrd d a f)) s
/-- mxclr (R336 to R341). -/
def execMxclr (a : Nat) (s : State) : Out State := finish (enqueueI (.mxclr a)) s
/-- mtload (R335). -/
def execMtload (n a b f : Nat) (s : State) : Out State := finish (enqueueI (.mtload n a b f)) s
/-- cbload (R334). -/
def execCbload (a : Nat) (s : State) : Out State := finish (enqueueI (.cbload a)) s

end Sys2Proof.Machine
end

