-- ==== Sys2Proof/Machine/Rows.lean ====
section
/-! DEFINITION. The rows of a tile run the vector queue: entries, loops with their strips, what each word does in a row, and the traps
after an entry (R158 to R163, R189, R204, R221, R286, R307, R346). -/

namespace Sys2Proof.Machine

/-- Mask registers a word reads or writes. -/
def maskRegs : Instr → List Nat
  | .vaddI _ _ _ _ m => [m]
  | .vsubI _ _ _ _ m => [m]
  | .vmulI _ _ _ _ m => [m]
  | .vmulhI _ _ _ _ m => [m]
  | .vminI _ _ _ _ m => [m]
  | .vmaxI _ _ _ _ m => [m]
  | .vmaccI _ _ _ _ m => [m]
  | .vdivI _ _ _ _ m => [m]
  | .vaddIS _ _ _ _ m => [m]
  | .vsubIS _ _ _ _ m => [m]
  | .vmulIS _ _ _ _ m => [m]
  | .vmulhIS _ _ _ _ m => [m]
  | .vminIS _ _ _ _ m => [m]
  | .vmaxIS _ _ _ _ m => [m]
  | .vmaccIS _ _ _ _ m => [m]
  | .vdivIS _ _ _ _ m => [m]
  | .vaddF _ _ _ _ m => [m]
  | .vsubF _ _ _ _ m => [m]
  | .vmulF _ _ _ _ m => [m]
  | .vdivF _ _ _ _ m => [m]
  | .vminF _ _ _ _ m => [m]
  | .vmaxF _ _ _ _ m => [m]
  | .vfmaF _ _ _ _ m => [m]
  | .vsqrtF _ _ _ m => [m]
  | .vaddFS _ _ _ _ m => [m]
  | .vsubFS _ _ _ _ m => [m]
  | .vmulFS _ _ _ _ m => [m]
  | .vdivFS _ _ _ _ m => [m]
  | .vminFS _ _ _ _ m => [m]
  | .vmaxFS _ _ _ _ m => [m]
  | .vfmaFS _ _ _ _ m => [m]
  | .vand _ _ _ m => [m]
  | .vor _ _ _ m => [m]
  | .vxor _ _ _ m => [m]
  | .vnot _ _ m => [m]
  | .vsll _ _ _ m => [m]
  | .vsrl _ _ _ m => [m]
  | .vsra _ _ _ m => [m]
  | .vandS _ _ _ m => [m]
  | .vorS _ _ _ m => [m]
  | .vxorS _ _ _ m => [m]
  | .vsllS _ _ _ m => [m]
  | .vsrlS _ _ _ m => [m]
  | .vsraS _ _ _ m => [m]
  | .vcmpeq d _ _ _ m => [d, m]
  | .vcmpne d _ _ _ m => [d, m]
  | .vcmplt d _ _ _ m => [d, m]
  | .vcmple d _ _ _ m => [d, m]
  | .vcmpgt d _ _ _ m => [d, m]
  | .vcmpge d _ _ _ m => [d, m]
  | .vcmpun d _ _ _ m => [d, m]
  | .vcmpeqS d _ _ _ m => [d, m]
  | .vcmpneS d _ _ _ m => [d, m]
  | .vcmpltS d _ _ _ m => [d, m]
  | .vcmpleS d _ _ _ m => [d, m]
  | .vcmpgtS d _ _ _ m => [d, m]
  | .vcmpgeS d _ _ _ m => [d, m]
  | .vcmpunS d _ _ _ m => [d, m]
  | .mand d a b => [d, a, b]
  | .mor d a b => [d, a, b]
  | .mxor d a b => [d, a, b]
  | .mandn d a b => [d, a, b]
  | .mnot d a => [d, a]
  | .mpopc _ a => [a]
  | .mfirst _ a => [a]
  | .vmerge _ _ _ m => [m]
  | .vmv _ _ m => [m]
  | .vbcast _ _ m => [m]
  | .vcvt _ _ _ m => [m]
  | .vclass _ _ _ m => [m]
  | .vrecpe _ _ _ m => [m]
  | .vexp2e _ _ _ m => [m]
  | .vsadd _ _ _ _ m => [m]
  | .vssub _ _ _ _ m => [m]
  | .vsmul _ _ _ _ m => [m]
  | .vsmacc _ _ _ _ m => [m]
  | .vssra _ _ _ _ m => [m]
  | .vssrl _ _ _ _ m => [m]
  | .vnclip _ _ _ _ m => [m]
  | .vavg _ _ _ _ m => [m]
  | .vsaddS _ _ _ _ m => [m]
  | .vssubS _ _ _ _ m => [m]
  | .vsmulS _ _ _ _ m => [m]
  | .vsmaccS _ _ _ _ m => [m]
  | .vssraS _ _ _ _ m => [m]
  | .vssrlS _ _ _ _ m => [m]
  | .vnclipS _ _ _ _ m => [m]
  | .vavgS _ _ _ _ m => [m]
  | .vredsumO _ _ _ _ m => [m]
  | .vredsumU _ _ _ _ m => [m]
  | .vredmin _ _ _ _ m => [m]
  | .vredmax _ _ _ _ m => [m]
  | .vredand _ _ _ _ m => [m]
  | .vredor _ _ _ _ m => [m]
  | .vredxor _ _ _ _ m => [m]
  | .vscanO _ _ _ m => [m]
  | .vscanFast _ _ _ m => [m]
  | .viota _ a m => [a, m]
  | .vid _ m => [m]
  | .rnggen _ _ _ m => [m]
  | .vcompress _ _ m => [m]
  | .vexpand _ _ m => [m]
  | .vslideup _ _ _ m => [m]
  | .vslidedn _ _ _ m => [m]
  | .vslide1up _ _ _ m => [m]
  | .vslide1dn _ _ _ m => [m]
  | .vperm _ _ _ m => [m]
  | .vld _ _ _ m _ => [m]
  | .vldu _ _ _ m _ => [m]
  | .vldf _ _ _ m _ => [m]
  | .vst _ _ _ m _ => [m]
  | .vstu _ _ _ m _ => [m]
  | .vlds _ _ _ _ m _ => [m]
  | .vldsu _ _ _ _ m _ => [m]
  | .vldsf _ _ _ _ m _ => [m]
  | .vsts _ _ _ _ m _ => [m]
  | .vstsu _ _ _ _ m _ => [m]
  | .vldx _ _ _ m _ => [m]
  | .vldxu _ _ _ m _ => [m]
  | .vstx _ _ _ m _ => [m]
  | .vstxu _ _ _ m _ => [m]
  | .vamoaddI _ _ _ m _ => [m]
  | .vamoadduI _ _ _ m _ => [m]
  | .vamoaddF _ _ _ m _ => [m]
  | .vamoadduF _ _ _ m _ => [m]
  | .vamoswap _ _ _ m _ => [m]
  | .vamoswapu _ _ _ m _ => [m]
  | .vamomin _ _ _ m _ => [m]
  | .vamominu _ _ _ m _ => [m]
  | .vamomax _ _ _ m _ => [m]
  | .vamomaxu _ _ _ m _ => [m]
  | .vamoand _ _ _ m _ => [m]
  | .vamoandu _ _ _ m _ => [m]
  | .vamoor _ _ _ m _ => [m]
  | .vamooru _ _ _ m _ => [m]
  | .vamoxor _ _ _ m _ => [m]
  | .vamoxoru _ _ _ m _ => [m]
  | .vsend _ _ m => [m]
  | _ => []

/-- Mask registers of an entry, with those of a loop body. -/
def Entry.maskRegs (e : Entry) : List Nat :=
  if e.sub = 0 then Machine.maskRegs e.op.i ++ e.body.flatMap (fun o => Machine.maskRegs o.i)
  else if e.sub = 2 then [e.vlmax] else []

/-- The number an entry keeps: the mask of a retired copy, or a draw record. -/
def Entry.kept (e : Entry) : Nat :=
  match e.carry with
  | c :: _ => c.acc.headD 0
  | [] => 0

/-! Passing an entry. -/

/-- Row r is past the entry it executed. -/
def passRow (r : Nat) : M Unit :=
  modH (fun h => ({ h with rows := h.rows.modify r (fun (x : Row) => { x with prog := none, qdone := x.qdone + 1 }) } : Hart).pop)

/-- A vector instruction has completed in row r: VSTART returns to 0 (R170). -/
def doneRow (r : Nat) : M Unit := modR r (fun x => { x with vstart := 0, prog := none })

/-- The floating-point cause of a committed instruction (R189): the flags it raised. -/
def flagCause (r : Nat) (o : Op) (fl : Nat) : List TrapInfo :=
  if BB o.hcr 4 && fl != 0 then [{ code := 0x11, vec := true, row := r, val := BitVec.ofNat 64 fl, vpc := o.pc }] else []

/-- The causes of an entry that has committed in every row, lowest code first (R189, R194, R221): the flags that all its rows raised, and the
approximation check where a count reached THRESH in it. -/
def Entry.causes (e : Entry) (chk : Word) : List TrapInfo :=
  flagCause e.flagRow e.op e.flags
  ++ (if e.sub == 0 && !e.isLoop && e.n != 0 then [{ code := 0x12, vec := true, row := e.n - 1, val := chk, vpc := e.op.pc }] else [])

/-- Causes of a committed instruction are to be reported. -/
def Hart.owes (h : Hart) (l : List TrapInfo) : Hart := { h with late := h.late ++ l }

/-- An instruction has committed. -/
def afterTrap (r : Nat) (o : Op) (fl : Nat) : M Unit := modH (fun h => h.owes (flagCause r o fl))

/-- What row r adds to its entry as it passes it: the flags it raised. -/
def Entry.passed (e : Entry) (r fl : Nat) : Entry :=
  { e with flags := e.flags ||| fl, flagRow := if fl = 0 then e.flagRow else min e.flagRow r }

/-- Is every row but r past the entry that r stands at? -/
def Hart.lastAt (h : Hart) (r : Nat) : Bool :=
  match h.rows[r]? with
  | some row => h.rows.zipIdx.all (fun x => x.2 == r || decide (row.qdone < x.1.qdone))
  | none => false

/-- Row r is past a word; the last row to pass it commits the word for the hart (R189, R194, R338). -/
def passWord (r : Nat) (fl : Nat) : M Unit := do
  modEntry r (fun e => e.passed r fl)
  let h ← theHart
  match h.entryOf r with
  | some e => if h.lastAt r then modH (fun h => ({ h with apxRow := h.apxRow + e.count } : Hart).owes (e.causes (h.apxchk.setWidth 64)))
  | none => pure ()
  passRow r

/-- Has every row reached the entry at a queue index? -/
def Hart.allAt (h : Hart) (idx : Nat) : Bool := h.rows.all (fun r => decide (idx ≤ r.qdone))

/-- Has every row of the tile reached the entry and not passed it? A row that the grant in force does not hold yet may be further. -/
def Hart.allJust (h : Hart) (idx : Nat) : Bool :=
  h.rows.all (fun r => if r.joined then r.qdone == idx else decide (idx ≤ r.qdone))

/-- An entry that executes once for the tile: when every row has reached it, and then every row is past it. A word on elements (`elems`) leaves
VSTART alone in a row with VL 0, where it is a no-op (R160). It waits for a suspended row as well (R163), but for CBLOAD, which reaches the image of
one (`held` off, R334). -/
def onceForAll (idx : Nat) (elems : Bool) (o : Op) (x : M Nat) (held : Bool := true) : M Unit := do
  let h ← theHart
  waitUnless (h.allJust idx && (!held || h.rows.all (fun r => r.cluster.isSome)))
  let fl ← x
  modH (fun h => ({ h with rows := h.rows.map (fun (x : Row) =>
    if x.joined && x.qdone == idx then
      { x with prog := none, vstart := if elems && x.vl == 0 then x.vstart else 0, qdone := x.qdone + 1 }
    else x) } : Hart).pop)
  afterTrap 0 o fl

/-- An action that raises no flag. -/
def noFlags (x : M Unit) : M Nat := do
  x
  pure 0

/-- An entry that the home row executes alone, for an engine only when every row is past the entries before it; the other
rows go past it. -/
def homeOnly (engine : Bool) (r idx : Nat) (x : M Nat) : M Unit := do
  if r = 0 then
    let h ← theHart
    waitUnless (!engine || h.allAt idx)
    let fl ← x
    doneRow r
    passWord r fl
  else passWord r 0

/-- A word on a row's elements: nothing where VL is 0 (R160). -/
def onElems (r : Nat) (x : M Nat) : M Unit := do
  let row ← theRow r
  if row.vl = 0 then passWord r 0
  else do
    let fl ← x
    doneRow r
    passWord r fl

/-! Loops (R162, R163, R286, R307). -/

/-- The carries a loop starts with, from the home row. -/
def loopCarries (home : Row) (body : List Op) : List Carry :=
  body.zipIdx.filterMap (fun x => match x.1.i with
    | .vredsumO _ _ b _ _ => some (carryStart home x.1 b x.2)
    | .vredsumU _ _ b _ _ => some (carryStart home x.1 b x.2)
    | .vredmin _ _ b _ _ => some (carryStart home x.1 b x.2)
    | .vredmax _ _ b _ _ => some (carryStart home x.1 b x.2)
    | .vredand _ _ b _ _ => some (carryStart home x.1 b x.2)
    | .vredor _ _ b _ _ => some (carryStart home x.1 b x.2)
    | .vredxor _ _ b _ _ => some (carryStart home x.1 b x.2)
    | .vscanO _ _ _ _ => some { pos := x.2, next := 0, acc := [], poison := false }
    | .vscanFast _ _ _ _ => some { pos := x.2, next := 0, acc := [], poison := false }
    | _ => none)

/-- What the end of a loop writes in a row: element 0 of every carried reduction's destination; the flags of each word; and whether one of them
saturates. -/
def Row.loopEnd (row : Row) (e : Entry) : Row × List (Op × Nat) × Bool :=
  e.body.zipIdx.foldl (fun (y : Row × List (Op × Nat) × Bool) x =>
    let put (vd : Nat) (c : Carry) (order : Bool := false) : Row × List (Op × Nat) × Bool :=
      let z := y.1.carryEnd x.1 vd order c
      (z.1, y.2.1 ++ [(x.1, z.2.1)], y.2.2 || z.2.2)
    match e.carry.find? (fun c => c.pos == x.2) with
    | none => y
    | some c => match x.1.i with
      | .vredsumO d _ _ _ _ => put d c
      | .vredsumU d _ _ _ _ => put d c
      | .vredmin d _ _ _ _ => put d c true
      | .vredmax d _ _ _ _ => put d c true
      | .vredand d _ _ _ _ => put d c
      | .vredor d _ _ _ _ => put d c
      | .vredxor d _ _ _ _ => put d c
      | _ => y) (row, [], false)

/-- A strip that an evicted row was running: its row, which holds no cluster. -/
def Hart.orphan (h : Hart) : Option Nat :=
  h.rows.findIdx? (fun r => r.cluster.isNone && r.run.isSome)

/-- Does a lower row of the grant stand idle at the same loop? -/
def Hart.lowerIdle (h : Hart) (r idx : Nat) : Bool :=
  (h.rows.take r).any (fun x => x.cluster.isSome && x.qdone == idx && x.run.isNone)

/-- Row r takes up the strip of a suspended row, with everything the strip has reached. -/
def adoptStrip (r k : Nat) : M Unit := do
  let src ← theRow k
  modR r (fun x => { x with
    v := src.v, vpoison := src.vpoison, vtag := src.vtag, m := src.m, vl := src.vl, vstart := src.vstart, strip := src.strip
    vdead := src.vdead, prog := src.prog, run := src.run })
  modR k (fun x => { x with run := none, prog := none })

/-- Deal a strip of a begun loop to row r, which stands idle at it: an evicted strip first, else the next new one. -/
def dealStrip (r idx : Nat) (e : Entry) : M Unit := do
  let h ← theHart
  waitUnless (!h.lowerIdle r idx)
  match h.orphan with
  | some k => adoptStrip r k
  | none => do
    waitUnless (h.vloopn != 0)
    let s ← get
    let vlmax := effVlmax (BF e.op.vtype 0 3) (BF e.op.vtype 3 3) s.lanes
    let vl := min h.vloopn.toNat vlmax
    let first := e.n - h.vloopn.toNat
    modR r (fun x => { x with
      vl := BitVec.ofNat 11 vl, vstart := 0, strip := BitVec.ofNat 40 first, run := some { first := first, vl := vl, pos := 0 } })
    modH (fun h => { h with
      vloopn := BitVec.ofNat 40 (h.vloopn.toNat - vl)
      vlmax := if h.loopSince && h.vtype == e.op.vtype then BitVec.ofNat 11 vlmax else h.vlmax })

/-- Is a begun loop over: no element left and no strip running? -/
def Hart.loopOver (h : Hart) (e : Entry) : Bool := e.vlmax == 1 || (h.vloopn == 0 && h.rows.all (fun r => r.run.isNone))

/-- The fetch of a body operation by the block sequencer of row r's cluster: a miss freezes the row and counts in SLIP; a
poisoned line is consumed (R38, R155, R286). The words are those that the scalar unit checked (log 67). -/
def bodyFetch (r : Nat) (o : Op) : M Unit := do
  let h ← theHart
  let row ← theRow r
  let s ← get
  let va := o.pc.toNat
  match s.ilineOn (row.die (dieOf h.core)) h va with
  | some l => if l.poison then rowTrap r o 0x0D 0
  | none => do
    modR r (fun x => { x with fetchWait := some (va / 64 * 64) })
    modH Hart.slipped
    waitM

/-- The next operation of the strip that row r runs. -/
def stripStep (r : Nat) (e : Entry) (t : Strip) : M Unit := do
  let next (x : Row) : Row := { x with run := if t.pos + 1 < e.body.length then some { t with pos := t.pos + 1 } else none }
  match e.body[t.pos]? with
  | none => modR r (fun x => { x with run := none })
  | some o => do
    let row ← theRow r
    if row.prog.isNone then bodyFetch r o
    match o.i with
    | .vdead _ => modR r (fun x => next (x.kill (BF o.sa.v 0 32)))
    | _ =>
      match elemOp r o (some t.pos) with
      | none => modR r next
      | some x => do
        let fl ← x
        doneRow r
        modR r next
        afterTrap r o fl

/-- A row at a loop. -/
def loopStep (r idx : Nat) (e : Entry) : M Unit := do
  let h ← theHart
  let row ← theRow r
  if !e.started then
    waitUnless (r == 0)
    modEntry r (fun e => { e with started := true, carry := loopCarries row e.body, vlmax := 0 })
    modH (fun h => { h with vloopn := BitVec.ofNat 40 e.n })
  else
    match row.run with
    | some t => stripStep r e t
    | none =>
      if h.loopOver e then do
        modEntry r (fun e => { e with vlmax := 1 })
        if e.n ≠ 0 then
          let y := row.loopEnd e
          modR r (fun _ => y.1)
          raiseFlags (y.2.1.foldl (fun f x => f ||| x.2) 0) y.2.2
          if h.lastAt r then modH (fun h => h.owes (y.2.1.flatMap (fun x => flagCause r x.1 x.2)))
        passRow r
      else dealStrip r idx e

/-! What an entry does in a row. -/

/-- A queued instruction in row r, whose entry has queue index idx. -/
def wordStep (r idx : Nat) (e : Entry) : M Unit := do
  let o := e.op
  match o.i with
  | .vdead _ => do
    modR r (fun x => x.kill (BF o.sa.v 0 32))
    passRow r
  | .vbar _ => do
    let h ← theHart
    waitUnless (h.allAt idx)
    passRow r
  | .mtload n _ _ _ => do
    let fl ← rowMtload r o n
    doneRow r
    passWord r fl
  | .xchg d a _ => onceForAll idx false o (noFlags (allXchg o d a))
  | .cbload _ => onceForAll idx false o (noFlags (allCbload o)) false
  | .smax a b => onceForAll idx true o (allSmax o a b)
  | .skth a b _ => onceForAll idx true o (noFlags (allSkth o a b))
  | .stopp a b _ => onceForAll idx true o (noFlags (allStopp o a b))
  | .sdraw a b _ => onceForAll idx true o (noFlags (allSdraw o false a b e.kept))
  | .sdrawHw a b _ => onceForAll idx true o (noFlags (allSdraw o true a b e.kept))
  | .kvldB d _ => onceForAll idx true o (noFlags (allKvldB o d))
  | .vext d a _ => homeOnly false r idx (rowExt r o d a)
  | .mpopc d a => homeOnly false r idx (rowMpopc r d a)
  | .mfirst d a => homeOnly false r idx (rowMfirst r d a)
  | .vrecv a b => homeOnly true r idx (rowVrecv r o a b)
  | .fred a _ c => homeOnly true r idx (rowFred r o a c)
  | .fredw a _ c => homeOnly true r idx (rowFredw r o a c)
  | .papp _ b _ => homeOnly true r idx (rowPapp r o b)
  | .pld a _ _ => homeOnly true r idx (rowPld r o a)
  | .kvapp a _ _ => homeOnly true r idx (rowKvapp r o a)
  | .kvld a _ _ => homeOnly true r idx (rowKvld r o a)
  | .vsend a b m => do
    let h ← theHart
    waitUnless (h.allAt idx)
    onElems r (rowVsend r o a b m)
  | .swgt a b _ => do
    let h ← theHart
    waitUnless (h.allAt idx)
    onElems r (rowSwgt r o a b)
  | _ =>
    match elemOp r o none with
    | some x => onElems r x
    | none => passRow r

/-- The home row waits at an entry that touches the mask register of an earlier copy still in flight (R346). -/
def Hart.maskWaits (h : Hart) (r i : Nat) (e : Entry) : Bool :=
  r == 0 && (h.queue.take i).any (fun x => x.sub == 2 && !x.started && e.maskRegs.contains x.vlmax)

/-- A row that VSETTL has added takes part from the next VSETL or VLOOP on, which it reaches with the whole tile behind or beside it (R163, R284). -/
def joinRow (r idx : Nat) : M Unit := do
  let h ← theHart
  let row ← theRow r
  if !row.joined then do
    waitUnless (h.allAt idx)
    modR r (fun x => { x with joined := true })

/-- The oldest entry that row r has not executed. -/
def rowStepM (r : Nat) : M Unit := do
  let h ← theHart
  let row ← theRow r
  let i := row.qdone - h.qbase
  match h.queue[i]? with
  | none => waitM
  | some e => do
    waitUnless (!h.maskWaits r i e)
    if !row.joined && e.sub ≠ 3 && !e.isLoop then passWord r 0 else
    match e.sub with
    | 1 => do
      if r = 0 then modR r (fun x => { x with vl := BitVec.ofNat 11 e.n })
      passRow r
    | 2 => do
      if r = 0 && e.started then
        modR r (fun x => { x with m := x.m.setIfInBounds e.vlmax (BitVec.ofNat 1024 e.kept) })
      passRow r
    | 3 => do
      joinRow r row.qdone
      modR r (fun x => x.config r e.n e.vlmax)
      passRow r
    | _ =>
      if e.isLoop then do
        joinRow r row.qdone
        loopStep r row.qdone e
      else wordStep r row.qdone e

/-- May row r of a hart execute: on its core, holding a cluster, its request not parked, its block sequencer not frozen at a miss? -/
def Hart.rowLive (h : Hart) (r : Nat) : Bool :=
  !h.stopped && !h.saved && (match h.rows[r]? with
    | some row => row.cluster.isSome && (match row.park with
      | some p => p.conv
      | none => row.fetchWait.isNone)
    | none => false)

/-- Address of the instruction whose entry row r executes. -/
def Hart.entryPc (h : Hart) (r : Nat) : Word :=
  match h.entryOf r with
  | none => 0
  | some e =>
    match (h.rows[r]?).bind Row.run with
    | some t => ((e.body[t.pos]?).map Op.pc).getD e.op.pc
    | none => e.op.pc

/-- Has the entry that row r executes stopped inside itself: with progress of its own, or tile rows loaded (R216, R336)? -/
def Hart.inside (h : Hart) (r : Nat) : Bool :=
  match h.rows[r]? with
  | some row => row.prog.isSome || (row.mtrow != 0 && (match h.entryOf r with
    | some e => (match e.op.i with
      | .mtload .. => e.sub == 0
      | _ => false)
    | none => false))
  | none => false

/-- The trap of a converted request of row r of a hart (R93, R129). -/
def Hart.parkTrap (h : Hart) (r : Nat) (p : Park) : TrapInfo :=
  { code := if p.kv then 0x0F else 0x08, sub := p.cause, vec := true, mid := h.inside r, row := r, val := p.va, vpc := h.entryPc r }

/-- A trap of row r, raised in `u` by an attempt that began in `t`: taken, or the row stands stopped there until the rows that rank before it have
gone on or trapped and the others may stop (R221, R227). What the attempt did it does again when the row resumes. -/
def State.rowTraps (t u : State) (hart r : Nat) (i : TrapInfo) : State :=
  let held := (t.waited u).modRow hart r (fun x => { x with stuck := true })
  if (t.hart? hart).any (fun h => !h.late.isEmpty || h.stuckBefore { i with row := r }) then held else (u.takeTrapNow? i).getD held

/-- Does a row stand still for a cause of a committed entry that has still to be reported (R217, R227)? -/
def State.lateHolds (s : State) (h : Hart) (r : Nat) : Bool :=
  !h.late.isEmpty && (match h.rows[r]? with
    | some row => h.rowMayStop s.laneCount row
    | none => true) && !s.ext.any (fun e => e.hart == h.id && e.agent == 1 + r && e.write)

/-- One step of a row: its entry completes, or traps, or waits, or parks. -/
def State.rowStep (s : State) (hart r : Nat) : State :=
  match s.hart? hart with
  | none => s
  | some h =>
    if !h.rowLive r then s else
    if s.lateHolds h r then (s.takeLate? hart).getD s else
    let t := (({ s with cur := hart } : State).retry hart (1 + r)).modRow hart r (fun x => { x with stuck := false })
    let out := match (h.rows[r]?).bind Row.park with
      | some p => t.rowTraps t hart r (h.parkTrap r p)
      | none =>
        match rowStepM r t with
        | .ok _ u => u.settle hart (1 + r)
        | .error (.trap i) u => t.rowTraps u hart r i
        | .error .wait u => u
        | .error (.park p) u =>
          if p.conv then t.rowTraps u hart r (((u.hart? hart).getD h).parkTrap r p) else u.modRow hart r (fun x => { x with park := some p })
    -- a row that issued waits afresh and ranks as any other (R151)
    let issued := match (out.hart? hart).bind (fun h => h.rows[r]?), h.rows[r]? with
      | some a, some b => a.qdone != b.qdone || a.run != b.run
      | _, _ => false
    let out := if issued then out.modRow hart r (fun x => { x with readySince := s.dev.devtime.toNat, promoted := false }) else out
    let out := { out with cur := s.cur }
    -- the trap of a cause that this step, or an earlier one, has committed (R221)
    (out.takeLate? hart).getD out

/-- ROW_DISPATCH (R158, R159). -/
def execRowDispatch (hart row : Nat) (s : State) : Out State := .next (s.rowStep hart row)

/-- A strip of the loop that a row stands at is dealt to it, where the rules deal one (R162). -/
def stripDealM (r : Nat) : M Unit := do
  let h ← theHart
  let row ← theRow r
  match h.entryOf r with
  | none => waitM
  | some e => do
    waitUnless (e.isLoop && e.started && row.run.isNone && !h.loopOver e)
    joinRow r row.qdone
    dealStrip r row.qdone e

/-- VLOOP_STRIP_DEAL (R162, R163). -/
def execVloopStripDeal (hart row : Nat) (s : State) : Out State :=
  .next (match s.hart? hart with
    | none => s
    | some h => if h.rowLive row && ((h.rows[row]?).bind Row.park).isNone then s.asHart hart (stripDealM row) else s)

end Sys2Proof.Machine
end

