-- ==== Sys2Proof/Machine/SchedEvents.lean ====
section
/-! DEFINITION. Moves of the gang scheduler and of instruction fetch (R67 to R70, R148 to R155, R163, R268). -/

namespace Sys2Proof.Machine

/-- LAUNCH_PUSH (R67). -/
def execLaunchPush (fn line record : Nat) (s : State) : Out State :=
  .next (s.whenOn (fun s => s.launchPush fn line (BitVec.ofNat 512 record)))

/-- GANG_PLACE (R144, R149). -/
def execGangPlace (gang : Nat) (s : State) : Out State := .next (s.whenOn (fun s => s.gangPlace gang))

/-- GANG_PREEMPT (R149, R152). -/
def execGangPreempt (gang : Nat) (s : State) : Out State := .next (s.whenOn (fun s => s.gangPreempt gang))

/-- ROW_RESTORE (R163). -/
def execRowRestore (hart row : Nat) (s : State) : Out State := .next (s.whenOn (fun s => s.rowRestore hart row))

/-- Has a gang used up a budget (R148)? -/
def State.overBudget (s : State) (g : Gang) : Bool :=
  decide (5 * 1024 * g.budcyc < g.cyc) || decide (65536 * g.budbytes < g.bytes)
    || (g.cls == 0 && s.harts.any (fun h => h.gang == g.id && decide (5 * guarQ g.record.toNat ≤ h.placedCyc)))

/-- A gang that has used up a budget stops with BUDGET, one that has just ended too: BUDGET goes before DONE (R148, R150). -/
def State.budgetStop (s : State) (gang : Nat) : State :=
  match s.gang? gang with
  | some g => if g.phase != GangPhase.queued && g.stop.isNone && s.overBudget g then s.stopGang gang 3 0 else s
  | none => s

/-- BUDGET_EXHAUSTED (R148). -/
def execBudgetExhausted (gang : Nat) (s : State) : Out State := .next (s.whenOn (fun s => s.budgetStop gang))

/-- GANG_COMPLETION (R69, R70, R150). -/
def execGangCompletion (gang : Nat) (s : State) : Out State :=
  .next (s.whenOn (fun s => ((s.budgetStop gang).completeGang gang).resetIfDue))

/-- Nanoseconds that hold 4,096 core cycles (R7, R151). -/
def starveNs : Nat := 1138

/-- STARVATION_PROMOTE (R151): a row that has had a ready block for 4,096 cycles. -/
def execStarvationPromote (hart row : Nat) (s : State) : Out State :=
  .next (s.whenOn (fun s =>
    match s.hart? hart with
    | none => s
    | some h =>
      match h.rows[row]? with
      | none => s
      | some r =>
        if h.rowLive row && decide (r.qdone < h.qbase + h.queue.length) && decide (starveNs ≤ s.dev.devtime.toNat - r.readySince)
        then s.modRow hart row (fun x => { x with promoted := true }) else s))

/-- ICACHE_FILL (R154, R155): the line that a sequencer of the die waits for is delivered. -/
def execIcacheFill (die fn addr : Nat) (s : State) : Out State := .next (s.whenOn (fun s => s.icacheFill die fn addr))

/-- ILLEGAL_INSTRUCTION (R268): the hart that issues has decoded a word that no table assigns. -/
def execIllegalInstruction (word : Nat) (s : State) : Out State :=
  .next ((s.takeTrap? { code := 0x01, val := BitVec.ofNat 64 (word % 2 ^ 32) }).getD s)

end Sys2Proof.Machine
end

