-- ==== Sys2Proof/Machine/Dispatch.lean ====
section
/-! DEFINITION. The meaning of every instruction: one arm a constructor, each one call. -/

namespace Sys2Proof.Machine

/-- The effect of one instruction or event on a state. -/
def exec (i : Instr) (s : State) : Host.Outcome State Fault Refusal :=
  match i with
  | .ldBHW d a w => Sys2Proof.Machine.execLdBHW d a w s
  | .ldAcq d a sc w => Sys2Proof.Machine.execLdAcq d a sc w s
  | .ldBuHuWu d a w => Sys2Proof.Machine.execLdBuHuWu d a w s
  | .stBHW a b w => Sys2Proof.Machine.execStBHW a b w s
  | .stRel a b sc w => Sys2Proof.Machine.execStRel a b sc w s
  | .amoswap d a b sc w o => Sys2Proof.Machine.execAmoswap d a b sc w o s
  | .amoadd d a b sc w o => Sys2Proof.Machine.execAmoadd d a b sc w o s
  | .amoand d a b sc w o => Sys2Proof.Machine.execAmoand d a b sc w o s
  | .amoor d a b sc w o => Sys2Proof.Machine.execAmoor d a b sc w o s
  | .amoxor d a b sc w o => Sys2Proof.Machine.execAmoxor d a b sc w o s
  | .amomin d a b sc w o => Sys2Proof.Machine.execAmomin d a b sc w o s
  | .amomax d a b sc w o => Sys2Proof.Machine.execAmomax d a b sc w o s
  | .amominu d a b sc w o => Sys2Proof.Machine.execAmominu d a b sc w o s
  | .amomaxu d a b sc w o => Sys2Proof.Machine.execAmomaxu d a b sc w o s
  | .cas d a b sc w o => Sys2Proof.Machine.execCas d a b sc w o s
  | .vsetl d a v => Sys2Proof.Machine.execVsetl d a v s
  | .vloop a => Sys2Proof.Machine.execVloop a s
  | .vnext => Sys2Proof.Machine.execVnext s
  | .vsettl d a => Sys2Proof.Machine.execVsettl d a s
  | .vsetmt m => Sys2Proof.Machine.execVsetmt m s
  | .vdead a => Sys2Proof.Machine.execVdead a s
  | .icpf a imm => Sys2Proof.Machine.execIcpf a imm s
  | .cwait k => Sys2Proof.Machine.execCwait k s
  | .vaddI d a b f m => Sys2Proof.Machine.execVaddI d a b f m s
  | .vsubI d a b f m => Sys2Proof.Machine.execVsubI d a b f m s
  | .vmulI d a b f m => Sys2Proof.Machine.execVmulI d a b f m s
  | .vmulhI d a b f m => Sys2Proof.Machine.execVmulhI d a b f m s
  | .vminI d a b f m => Sys2Proof.Machine.execVminI d a b f m s
  | .vmaxI d a b f m => Sys2Proof.Machine.execVmaxI d a b f m s
  | .vmaccI d a b f m => Sys2Proof.Machine.execVmaccI d a b f m s
  | .vdivI d a b f m => Sys2Proof.Machine.execVdivI d a b f m s
  | .vaddIS d a b f m => Sys2Proof.Machine.execVaddIS d a b f m s
  | .vsubIS d a b f m => Sys2Proof.Machine.execVsubIS d a b f m s
  | .vmulIS d a b f m => Sys2Proof.Machine.execVmulIS d a b f m s
  | .vmulhIS d a b f m => Sys2Proof.Machine.execVmulhIS d a b f m s
  | .vminIS d a b f m => Sys2Proof.Machine.execVminIS d a b f m s
  | .vmaxIS d a b f m => Sys2Proof.Machine.execVmaxIS d a b f m s
  | .vmaccIS d a b f m => Sys2Proof.Machine.execVmaccIS d a b f m s
  | .vdivIS d a b f m => Sys2Proof.Machine.execVdivIS d a b f m s
  | .vaddF d a b f m => Sys2Proof.Machine.execVaddF d a b f m s
  | .vsubF d a b f m => Sys2Proof.Machine.execVsubF d a b f m s
  | .vmulF d a b f m => Sys2Proof.Machine.execVmulF d a b f m s
  | .vdivF d a b f m => Sys2Proof.Machine.execVdivF d a b f m s
  | .vminF d a b f m => Sys2Proof.Machine.execVminF d a b f m s
  | .vmaxF d a b f m => Sys2Proof.Machine.execVmaxF d a b f m s
  | .vfmaF d a b f m => Sys2Proof.Machine.execVfmaF d a b f m s
  | .vsqrtF d a f m => Sys2Proof.Machine.execVsqrtF d a f m s
  | .vaddFS d a b f m => Sys2Proof.Machine.execVaddFS d a b f m s
  | .vsubFS d a b f m => Sys2Proof.Machine.execVsubFS d a b f m s
  | .vmulFS d a b f m => Sys2Proof.Machine.execVmulFS d a b f m s
  | .vdivFS d a b f m => Sys2Proof.Machine.execVdivFS d a b f m s
  | .vminFS d a b f m => Sys2Proof.Machine.execVminFS d a b f m s
  | .vmaxFS d a b f m => Sys2Proof.Machine.execVmaxFS d a b f m s
  | .vfmaFS d a b f m => Sys2Proof.Machine.execVfmaFS d a b f m s
  | .vand d a b m => Sys2Proof.Machine.execVand d a b m s
  | .vor d a b m => Sys2Proof.Machine.execVor d a b m s
  | .vxor d a b m => Sys2Proof.Machine.execVxor d a b m s
  | .vnot d a m => Sys2Proof.Machine.execVnot d a m s
  | .vsll d a b m => Sys2Proof.Machine.execVsll d a b m s
  | .vsrl d a b m => Sys2Proof.Machine.execVsrl d a b m s
  | .vsra d a b m => Sys2Proof.Machine.execVsra d a b m s
  | .vandS d a b m => Sys2Proof.Machine.execVandS d a b m s
  | .vorS d a b m => Sys2Proof.Machine.execVorS d a b m s
  | .vxorS d a b m => Sys2Proof.Machine.execVxorS d a b m s
  | .vsllS d a b m => Sys2Proof.Machine.execVsllS d a b m s
  | .vsrlS d a b m => Sys2Proof.Machine.execVsrlS d a b m s
  | .vsraS d a b m => Sys2Proof.Machine.execVsraS d a b m s
  | .vcmpeq d a b f m => Sys2Proof.Machine.execVcmpeq d a b f m s
  | .vcmpne d a b f m => Sys2Proof.Machine.execVcmpne d a b f m s
  | .vcmplt d a b f m => Sys2Proof.Machine.execVcmplt d a b f m s
  | .vcmple d a b f m => Sys2Proof.Machine.execVcmple d a b f m s
  | .vcmpgt d a b f m => Sys2Proof.Machine.execVcmpgt d a b f m s
  | .vcmpge d a b f m => Sys2Proof.Machine.execVcmpge d a b f m s
  | .vcmpun d a b f m => Sys2Proof.Machine.execVcmpun d a b f m s
  | .vcmpeqS d a b f m => Sys2Proof.Machine.execVcmpeqS d a b f m s
  | .vcmpneS d a b f m => Sys2Proof.Machine.execVcmpneS d a b f m s
  | .vcmpltS d a b f m => Sys2Proof.Machine.execVcmpltS d a b f m s
  | .vcmpleS d a b f m => Sys2Proof.Machine.execVcmpleS d a b f m s
  | .vcmpgtS d a b f m => Sys2Proof.Machine.execVcmpgtS d a b f m s
  | .vcmpgeS d a b f m => Sys2Proof.Machine.execVcmpgeS d a b f m s
  | .vcmpunS d a b f m => Sys2Proof.Machine.execVcmpunS d a b f m s
  | .mand d a b => Sys2Proof.Machine.execMand d a b s
  | .mor d a b => Sys2Proof.Machine.execMor d a b s
  | .mxor d a b => Sys2Proof.Machine.execMxor d a b s
  | .mandn d a b => Sys2Proof.Machine.execMandn d a b s
  | .mnot d a => Sys2Proof.Machine.execMnot d a s
  | .mpopc d a => Sys2Proof.Machine.execMpopc d a s
  | .mfirst d a => Sys2Proof.Machine.execMfirst d a s
  | .vmerge d a b m => Sys2Proof.Machine.execVmerge d a b m s
  | .vmv d a m => Sys2Proof.Machine.execVmv d a m s
  | .vbcast d b m => Sys2Proof.Machine.execVbcast d b m s
  | .vext d a b => Sys2Proof.Machine.execVext d a b s
  | .vcvt d a f m => Sys2Proof.Machine.execVcvt d a f m s
  | .vclass d a f m => Sys2Proof.Machine.execVclass d a f m s
  | .vrecpe d a f m => Sys2Proof.Machine.execVrecpe d a f m s
  | .vexp2e d a f m => Sys2Proof.Machine.execVexp2e d a f m s
  | .vsadd d a b f m => Sys2Proof.Machine.execVsadd d a b f m s
  | .vssub d a b f m => Sys2Proof.Machine.execVssub d a b f m s
  | .vsmul d a b f m => Sys2Proof.Machine.execVsmul d a b f m s
  | .vsmacc d a b f m => Sys2Proof.Machine.execVsmacc d a b f m s
  | .vssra d a b f m => Sys2Proof.Machine.execVssra d a b f m s
  | .vssrl d a b f m => Sys2Proof.Machine.execVssrl d a b f m s
  | .vnclip d a b f m => Sys2Proof.Machine.execVnclip d a b f m s
  | .vavg d a b f m => Sys2Proof.Machine.execVavg d a b f m s
  | .vsaddS d a b f m => Sys2Proof.Machine.execVsaddS d a b f m s
  | .vssubS d a b f m => Sys2Proof.Machine.execVssubS d a b f m s
  | .vsmulS d a b f m => Sys2Proof.Machine.execVsmulS d a b f m s
  | .vsmaccS d a b f m => Sys2Proof.Machine.execVsmaccS d a b f m s
  | .vssraS d a b f m => Sys2Proof.Machine.execVssraS d a b f m s
  | .vssrlS d a b f m => Sys2Proof.Machine.execVssrlS d a b f m s
  | .vnclipS d a b f m => Sys2Proof.Machine.execVnclipS d a b f m s
  | .vavgS d a b f m => Sys2Proof.Machine.execVavgS d a b f m s
  | .vredsumO d a b f m => Sys2Proof.Machine.execVredsumO d a b f m s
  | .vredsumU d a b f m => Sys2Proof.Machine.execVredsumU d a b f m s
  | .vredmin d a b f m => Sys2Proof.Machine.execVredmin d a b f m s
  | .vredmax d a b f m => Sys2Proof.Machine.execVredmax d a b f m s
  | .vredand d a b f m => Sys2Proof.Machine.execVredand d a b f m s
  | .vredor d a b f m => Sys2Proof.Machine.execVredor d a b f m s
  | .vredxor d a b f m => Sys2Proof.Machine.execVredxor d a b f m s
  | .vscanO d a f m => Sys2Proof.Machine.execVscanO d a f m s
  | .vscanFast d a f m => Sys2Proof.Machine.execVscanFast d a f m s
  | .viota d a m => Sys2Proof.Machine.execViota d a m s
  | .vid d m => Sys2Proof.Machine.execVid d m s
  | .rnggen d a b m => Sys2Proof.Machine.execRnggen d a b m s
  | .vcompress d a m => Sys2Proof.Machine.execVcompress d a m s
  | .vexpand d a m => Sys2Proof.Machine.execVexpand d a m s
  | .vslideup d a b m => Sys2Proof.Machine.execVslideup d a b m s
  | .vslidedn d a b m => Sys2Proof.Machine.execVslidedn d a b m s
  | .vslide1up d a b m => Sys2Proof.Machine.execVslide1up d a b m s
  | .vslide1dn d a b m => Sys2Proof.Machine.execVslide1dn d a b m s
  | .vperm d a b m => Sys2Proof.Machine.execVperm d a b m s
  | .xchg d a b => Sys2Proof.Machine.execXchg d a b s
  | .vld d a sc m e => Sys2Proof.Machine.execVld d a sc m e s
  | .vldu d a sc m e => Sys2Proof.Machine.execVldu d a sc m e s
  | .vldf d a sc m e => Sys2Proof.Machine.execVldf d a sc m e s
  | .vst d a sc m e => Sys2Proof.Machine.execVst d a sc m e s
  | .vstu d a sc m e => Sys2Proof.Machine.execVstu d a sc m e s
  | .vlds d a b sc m e => Sys2Proof.Machine.execVlds d a b sc m e s
  | .vldsu d a b sc m e => Sys2Proof.Machine.execVldsu d a b sc m e s
  | .vldsf d a b sc m e => Sys2Proof.Machine.execVldsf d a b sc m e s
  | .vsts d a b sc m e => Sys2Proof.Machine.execVsts d a b sc m e s
  | .vstsu d a b sc m e => Sys2Proof.Machine.execVstsu d a b sc m e s
  | .vldx d a b m e => Sys2Proof.Machine.execVldx d a b m e s
  | .vldxu d a b m e => Sys2Proof.Machine.execVldxu d a b m e s
  | .vstx d a b m e => Sys2Proof.Machine.execVstx d a b m e s
  | .vstxu d a b m e => Sys2Proof.Machine.execVstxu d a b m e s
  | .vamoaddI d a b m e => Sys2Proof.Machine.execVamoaddI d a b m e s
  | .vamoadduI d a b m e => Sys2Proof.Machine.execVamoadduI d a b m e s
  | .vamoaddF d a b m e => Sys2Proof.Machine.execVamoaddF d a b m e s
  | .vamoadduF d a b m e => Sys2Proof.Machine.execVamoadduF d a b m e s
  | .vamoswap d a b m e => Sys2Proof.Machine.execVamoswap d a b m e s
  | .vamoswapu d a b m e => Sys2Proof.Machine.execVamoswapu d a b m e s
  | .vamomin d a b m e => Sys2Proof.Machine.execVamomin d a b m e s
  | .vamominu d a b m e => Sys2Proof.Machine.execVamominu d a b m e s
  | .vamomax d a b m e => Sys2Proof.Machine.execVamomax d a b m e s
  | .vamomaxu d a b m e => Sys2Proof.Machine.execVamomaxu d a b m e s
  | .vamoand d a b m e => Sys2Proof.Machine.execVamoand d a b m e s
  | .vamoandu d a b m e => Sys2Proof.Machine.execVamoandu d a b m e s
  | .vamoor d a b m e => Sys2Proof.Machine.execVamoor d a b m e s
  | .vamooru d a b m e => Sys2Proof.Machine.execVamooru d a b m e s
  | .vamoxor d a b m e => Sys2Proof.Machine.execVamoxor d a b m e s
  | .vamoxoru d a b m e => Sys2Proof.Machine.execVamoxoru d a b m e s
  | .mrow d a n f => Sys2Proof.Machine.execMrow d a n f s
  | .mrowm d a n f => Sys2Proof.Machine.execMrowm d a n f s
  | .mrowx d a n f => Sys2Proof.Machine.execMrowx d a n f s
  | .mxrd d a f => Sys2Proof.Machine.execMxrd d a f s
  | .mxclr a => Sys2Proof.Machine.execMxclr a s
  | .mtload n a b f => Sys2Proof.Machine.execMtload n a b f s
  | .cbload a => Sys2Proof.Machine.execCbload a s
  | .copy a b c k => Sys2Proof.Machine.execCopy a b c k s
  | .copyrO a b c k => Sys2Proof.Machine.execCopyrO a b c k s
  | .copyrU a b c k => Sys2Proof.Machine.execCopyrU a b c k s
  | .copyZ a b c k => Sys2Proof.Machine.execCopyZ a b c k s
  | .copyMig a b c k => Sys2Proof.Machine.execCopyMig a b c k s
  | .pushq a b => Sys2Proof.Machine.execPushq a b s
  | .popq d b => Sys2Proof.Machine.execPopq d b s
  | .vsend a b m => Sys2Proof.Machine.execVsend a b m s
  | .vrecv a b => Sys2Proof.Machine.execVrecv a b s
  | .fred a b c => Sys2Proof.Machine.execFred a b c s
  | .fredw a b c => Sys2Proof.Machine.execFredw a b c s
  | .ldstandLatest a b c => Sys2Proof.Machine.execLdstandLatest a b c s
  | .ldstandQueue a b c => Sys2Proof.Machine.execLdstandQueue a b c s
  | .slotrd a b c => Sys2Proof.Machine.execSlotrd a b c s
  | .unsub a b => Sys2Proof.Machine.execUnsub a b s
  | .stepinv sc => Sys2Proof.Machine.execStepinv sc s
  | .smax a b => Sys2Proof.Machine.execSmax a b s
  | .skth a b c => Sys2Proof.Machine.execSkth a b c s
  | .swgt a b c => Sys2Proof.Machine.execSwgt a b c s
  | .stopp a b c => Sys2Proof.Machine.execStopp a b c s
  | .sdraw a b c => Sys2Proof.Machine.execSdraw a b c s
  | .sdrawHw a b c => Sys2Proof.Machine.execSdrawHw a b c s
  | .pbind a b => Sys2Proof.Machine.execPbind a b s
  | .papp a b c => Sys2Proof.Machine.execPapp a b c s
  | .pld a b c => Sys2Proof.Machine.execPld a b c s
  | .psync b => Sys2Proof.Machine.execPsync b s
  | .pstat a b => Sys2Proof.Machine.execPstat a b s
  | .pfree b => Sys2Proof.Machine.execPfree b s
  | .kvmap a b c => Sys2Proof.Machine.execKvmap a b c s
  | .kvld a b c => Sys2Proof.Machine.execKvld a b c s
  | .kvldB a b => Sys2Proof.Machine.execKvldB a b s
  | .kvapp a b c => Sys2Proof.Machine.execKvapp a b c s
  | .kvfork b c => Sys2Proof.Machine.execKvfork b c s
  | .kvrel b => Sys2Proof.Machine.execKvrel b s
  | .kvcow b c => Sys2Proof.Machine.execKvcow b c s
  | .kvforkM b c => Sys2Proof.Machine.execKvforkM b c s
  | .fenceSv sc => Sys2Proof.Machine.execFenceSv sc s
  | .fenceVs sc => Sys2Proof.Machine.execFenceVs sc s
  | .fenceSvb sc => Sys2Proof.Machine.execFenceSvb sc s
  | .fenceRel sc => Sys2Proof.Machine.execFenceRel sc s
  | .fenceAcq sc => Sys2Proof.Machine.execFenceAcq sc s
  | .fenceRow sc => Sys2Proof.Machine.execFenceRow sc s
  | .vbar sc => Sys2Proof.Machine.execVbar sc s
  | .gbar sc => Sys2Proof.Machine.execGbar sc s
  | .addi d a imm => Sys2Proof.Machine.execAddi d a imm s
  | .ori d a imm => Sys2Proof.Machine.execOri d a imm s
  | .lui d imm => Sys2Proof.Machine.execLui d imm s
  | .j o => Sys2Proof.Machine.execJ o s
  | .jal o => Sys2Proof.Machine.execJal o s
  | .stD d a imm => Sys2Proof.Machine.execStD d a imm s
  | .ldD d a imm => Sys2Proof.Machine.execLdD d a imm s
  | .beq a b o => Sys2Proof.Machine.execBeq a b o s
  | .bne a b o => Sys2Proof.Machine.execBne a b o s
  | .blt a b o => Sys2Proof.Machine.execBlt a b o s
  | .bge a b o => Sys2Proof.Machine.execBge a b o s
  | .bltu a b o => Sys2Proof.Machine.execBltu a b o s
  | .bgeu a b o => Sys2Proof.Machine.execBgeu a b o s
  | .add d a b => Sys2Proof.Machine.execAdd d a b s
  | .sub d a b => Sys2Proof.Machine.execSub d a b s
  | .and d a b => Sys2Proof.Machine.execAnd d a b s
  | .or d a b => Sys2Proof.Machine.execOr d a b s
  | .xor d a b => Sys2Proof.Machine.execXor d a b s
  | .sll d a b => Sys2Proof.Machine.execSll d a b s
  | .srl d a b => Sys2Proof.Machine.execSrl d a b s
  | .sra d a b => Sys2Proof.Machine.execSra d a b s
  | .slt d a b => Sys2Proof.Machine.execSlt d a b s
  | .sltu d a b => Sys2Proof.Machine.execSltu d a b s
  | .seq d a b => Sys2Proof.Machine.execSeq d a b s
  | .min d a b => Sys2Proof.Machine.execMin d a b s
  | .max d a b => Sys2Proof.Machine.execMax d a b s
  | .minu d a b => Sys2Proof.Machine.execMinu d a b s
  | .maxu d a b => Sys2Proof.Machine.execMaxu d a b s
  | .mul d a b => Sys2Proof.Machine.execMul d a b s
  | .mulh d a b => Sys2Proof.Machine.execMulh d a b s
  | .mulhu d a b => Sys2Proof.Machine.execMulhu d a b s
  | .div d a b => Sys2Proof.Machine.execDiv d a b s
  | .divu d a b => Sys2Proof.Machine.execDivu d a b s
  | .rem d a b => Sys2Proof.Machine.execRem d a b s
  | .remu d a b => Sys2Proof.Machine.execRemu d a b s
  | .clz d a => Sys2Proof.Machine.execClz d a s
  | .ctz d a => Sys2Proof.Machine.execCtz d a s
  | .popc d a => Sys2Proof.Machine.execPopc d a s
  | .jalr d a => Sys2Proof.Machine.execJalr d a s
  | .slli d a n => Sys2Proof.Machine.execSlli d a n s
  | .srli d a n => Sys2Proof.Machine.execSrli d a n s
  | .srai d a n => Sys2Proof.Machine.execSrai d a n s
  | .csrr d n => Sys2Proof.Machine.execCsrr d n s
  | .csrw a n => Sys2Proof.Machine.execCsrw a n s
  | .csrs a n => Sys2Proof.Machine.execCsrs a n s
  | .csrc a n => Sys2Proof.Machine.execCsrc a n s
  | .csrrw d a n => Sys2Proof.Machine.execCsrrw d a n s
  | .halt => Sys2Proof.Machine.execHalt s
  | .yield => Sys2Proof.Machine.execYield s
  | .trap imm => Sys2Proof.Machine.execTrap imm s
  | .eret => Sys2Proof.Machine.execEret s
  | .glaunch d a => Sys2Proof.Machine.execGlaunch d a s
  | .freplay a => Sys2Proof.Machine.execFreplay a s
  | .fconv a => Sys2Proof.Machine.execFconv a s
  | .heatage a b => Sys2Proof.Machine.execHeatage a b s
  | .hstop => Sys2Proof.Machine.execHstop s
  | .powerOn => Sys2Proof.Machine.execPowerOn s
  | .bringupStage ok => Sys2Proof.Machine.execBringupStage ok s
  | .deviceReset => Sys2Proof.Machine.execDeviceReset s
  | .thermalWarning tmax => Sys2Proof.Machine.execThermalWarning tmax s
  | .thermalCap tmax => Sys2Proof.Machine.execThermalCap tmax s
  | .thermalCapClear tmax => Sys2Proof.Machine.execThermalCapClear tmax s
  | .thermalTrip tmax => Sys2Proof.Machine.execThermalTrip tmax s
  | .peakCurrentGuard amps => Sys2Proof.Machine.execPeakCurrentGuard amps s
  | .lanesDecrease avgw => Sys2Proof.Machine.execLanesDecrease avgw s
  | .lanesIncrease avgw => Sys2Proof.Machine.execLanesIncrease avgw s
  | .pwrctlWrite val => Sys2Proof.Machine.execPwrctlWrite val s
  | .pwrstatWrite val => Sys2Proof.Machine.execPwrstatWrite val s
  | .thermstatWrite val => Sys2Proof.Machine.execThermstatWrite val s
  | .memoryRequest die gran addr hart err write array => Sys2Proof.Machine.execMemoryRequest die gran addr hart s err write array
  | .lineWriteback line => Sys2Proof.Machine.execLineWriteback line s
  | .memerrWrite val => Sys2Proof.Machine.execMemerrWrite val s
  | .rowRepair stack subch bank row => Sys2Proof.Machine.execRowRepair stack subch bank row s
  | .spareCopyComplete bank => Sys2Proof.Machine.execSpareCopyComplete bank s
  | .machineCheck scope index unit => Sys2Proof.Machine.execMachineCheck scope index unit s
  | .surftabWrite fn val => Sys2Proof.Machine.execSurftabWrite fn val s
  | .surfflushWrite fn val => Sys2Proof.Machine.execSurfflushWrite fn val s
  | .surfflushComplete fn => Sys2Proof.Machine.execSurfflushComplete fn s
  | .decompressRetry hart => Sys2Proof.Machine.execDecompressRetry hart s
  | .fabcfgWrite val => Sys2Proof.Machine.execFabcfgWrite val s
  | .fabpartWrite fn val => Sys2Proof.Machine.execFabpartWrite fn val s
  | .fabpstatWrite port val => Sys2Proof.Machine.execFabpstatWrite port val s
  | .flitReceive port kind => Sys2Proof.Machine.execFlitReceive port kind s
  | .frameReplay port idx => Sys2Proof.Machine.execFrameReplay port s idx
  | .portRetrain port lanes => Sys2Proof.Machine.execPortRetrain port lanes s
  | .portDownTimeout port => Sys2Proof.Machine.execPortDownTimeout port s
  | .remoteRequest kind src part fn addr bytes data poison half tag => Sys2Proof.Machine.execRemoteRequest kind src part fn addr bytes data s poison half tag
  | .fabricResponse req status data poison => Sys2Proof.Machine.execFabricResponse req status data poison s
  | .fabricRequestTimeout req => Sys2Proof.Machine.execFabricRequestTimeout req s
  | .treeInstall fn addr => Sys2Proof.Machine.execTreeInstall fn addr s
  | .treeTeardownCommand fn addr => Sys2Proof.Machine.execTreeTeardownCommand fn addr s
  | .reductionOperand tree node child data poison flags => Sys2Proof.Machine.execReductionOperand tree node child data poison flags s
  | .reductionResult tree node data poison flags => Sys2Proof.Machine.execReductionResult tree node data poison flags s
  | .reductionTimeout tree node => Sys2Proof.Machine.execReductionTimeout tree node s
  | .teardownFlit tree node src => Sys2Proof.Machine.execTeardownFlit tree node s src
  | .hostMemRead addr cacheable => Sys2Proof.Machine.execHostMemRead addr cacheable s
  | .hostMemWrite addr len data => Sys2Proof.Machine.execHostMemWrite addr len data s
  | .bisnpResponse line => Sys2Proof.Machine.execBisnpResponse line s
  | .launchPush fn line record => Sys2Proof.Machine.execLaunchPush fn line record s
  | .gangCompletion gang => Sys2Proof.Machine.execGangCompletion gang s
  | .msixUnmask fn vector => Sys2Proof.Machine.execMsixUnmask fn vector s
  | .vfcfgWrite vf word val => Sys2Proof.Machine.execVfcfgWrite vf word val s
  | .vfReset vf => Sys2Proof.Machine.execVfReset vf s
  | .vfResetComplete vf => Sys2Proof.Machine.execVfResetComplete vf s
  | .launchwinWrite val => Sys2Proof.Machine.execLaunchwinWrite val s
  | .launchstatWrite fn val => Sys2Proof.Machine.execLaunchstatWrite fn val s
  | .gangReset fn val => Sys2Proof.Machine.execGangReset fn val s
  | .qosctxWrite fn cls val => Sys2Proof.Machine.execQosctxWrite fn cls val s
  | .l2PortServe port => Sys2Proof.Machine.execL2PortServe port s
  | .lenderActive port fn cls => Sys2Proof.Machine.execLenderActive port fn cls s
  | .spillPoolRelend port cls => Sys2Proof.Machine.execSpillPoolRelend port cls s
  | .xlinvWrite fn val => Sys2Proof.Machine.execXlinvWrite fn val s
  | .xlinvComplete fn => Sys2Proof.Machine.execXlinvComplete fn s
  | .faultRecordWrite fn => Sys2Proof.Machine.execFaultRecordWrite fn s
  | .fqcfgWrite fn val => Sys2Proof.Machine.execFqcfgWrite fn val s
  | .fqptrWrite fn val => Sys2Proof.Machine.execFqptrWrite fn val s
  | .hrangeWrite fn idx word val => Sys2Proof.Machine.execHrangeWrite fn idx word val s
  | .heatcfgWrite val => Sys2Proof.Machine.execHeatcfgWrite val s
  | .schedcfgWrite val => Sys2Proof.Machine.execSchedcfgWrite val s
  | .schedstatWrite val => Sys2Proof.Machine.execSchedstatWrite val s
  | .gangPlace gang => Sys2Proof.Machine.execGangPlace gang s
  | .gangPreempt gang => Sys2Proof.Machine.execGangPreempt gang s
  | .rowRestore hart row => Sys2Proof.Machine.execRowRestore hart row s
  | .budgetExhausted gang => Sys2Proof.Machine.execBudgetExhausted gang s
  | .starvationPromote hart row => Sys2Proof.Machine.execStarvationPromote hart row s
  | .icacheFill die fn addr => Sys2Proof.Machine.execIcacheFill die fn addr s
  | .vloopStripDeal hart row => Sys2Proof.Machine.execVloopStripDeal hart row s
  | .savecfgWrite fn val => Sys2Proof.Machine.execSavecfgWrite fn val s
  | .agateMerge fn handle => Sys2Proof.Machine.execAgateMerge fn handle s
  | .kvpoolWrite fn val => Sys2Proof.Machine.execKvpoolWrite fn val s
  | .kvmetaWrite fn val => Sys2Proof.Machine.execKvmetaWrite fn val s
  | .kvpoolInitComplete fn => Sys2Proof.Machine.execKvpoolInitComplete fn s
  | .timingErrorReplay left => Sys2Proof.Machine.execTimingErrorReplay left s
  | .oscntWrite val => Sys2Proof.Machine.execOscntWrite val s
  | .frstatWrite fn val => Sys2Proof.Machine.execFrstatWrite fn val s
  | .subscriptionPush => Sys2Proof.Machine.execSubscriptionPush s
  | .vsendArrival fn core slot data poison src part tag => Sys2Proof.Machine.execVsendArrival fn core slot data poison s src part tag
  | .copyRetire hart token => Sys2Proof.Machine.execCopyRetire hart token s
  | .fifoResult hart fifo => Sys2Proof.Machine.execFifoResult hart fifo s
  | .registerWrite fn off val => Sys2Proof.Machine.execRegisterWrite fn off val s
  | .rowDispatch hart row => Sys2Proof.Machine.execRowDispatch hart row s
  | .illegalInstruction word => Sys2Proof.Machine.execIllegalInstruction word s
  | .powerRemoval => Sys2Proof.Machine.execPowerRemoval s
  | .devtimeAdvance => Sys2Proof.Machine.execDevtimeAdvance s
  | .bucketAccrue port => Sys2Proof.Machine.execBucketAccrue port s
  | .linkTrained port lanes => Sys2Proof.Machine.execLinkTrained port lanes s
  | .cxlPortDown port => Sys2Proof.Machine.execCxlPortDown port s
  | .cxlPortUp port ioOnly => Sys2Proof.Machine.execCxlPortUp port s ioOnly
  | .cxlCacheResponse req data poison => Sys2Proof.Machine.execCxlCacheResponse req data poison s

end Sys2Proof.Machine
end

