-- ==== Sys2Proof/Machine/Issue.lean ====
section
/-! DEFINITION. What moves next (R157, R151, log 2, DESIGN CHOICE, unsafe): the moves an agenda names, and the device's own moves where it names none. -/

namespace Sys2Proof.Machine

/-! Issue of a hart (R110, R154, R157, R268). -/

/-- Does the queue hold a PAPP that has not executed? The hart issues nothing behind it (R110). -/
def Hart.pappWaits (h : Hart) : Bool :=
  h.ahead.any (fun e => match e.op.i with
    | .papp _ _ _ => true
    | _ => false)

/-- May a hart issue: on its core, running, and waiting for neither a translation nor a line? -/
def Hart.ready (h : Hart) : Bool :=
  !h.halted && !h.stopped && !h.saved && !h.pappWaits &&
  (match h.park with
   | some p => p.conv
   | none => h.fetchWait.isNone)

/-- The state as a hart tries to issue: it is the current hart. -/
def State.turn (s : State) (hart : Nat) : State := { s with cur := hart }

/-- The four bytes of an instruction in a line. -/
def ILine.fetch (l : ILine) (pc : Nat) : List Byte := (l.bytes.drop (pc % 64)).take 4

/-- What a hart does with the bytes it fetched: the instruction they decode to, or the illegal-instruction trap. -/
noncomputable def runBytes (bs : List Byte) (s : State) : Out State :=
  match decode bs with
  | .ok (i, _) => exec i s
  | .error _ => exec (.illegalInstruction (leVal bs)) s

/-- What a hart's turn comes to: the trap of a committed entry's cause, the trap of a converted request, a miss, poison, or the instruction at its
pc. A trap that must wait leaves everything as it was. -/
noncomputable def State.attempt (s : State) (h : Hart) : Out State :=
  let t := s.turn h.id
  match t.takeLate? h.id with
  | some u => .next u
  | none =>
  match h.park with
  | some p =>
    .next (((t.modHart h.id (fun h => { h with park := none, fetchWait := none })).takeTrap?
      { code := if p.kv then 0x0F else 0x08, sub := p.cause, val := p.va }).getD t)
  | none =>
    match s.iline h h.pc.toNat with
    | none => .next (t.modHart h.id (fun x => x.missed h.pc.toNat))
    | some l => if l.poison then .next ((t.takeTrap? { code := 0x0D }).getD t) else runBytes (l.fetch h.pc.toNat) t

/-- The registers that a branch or jump reads: such a word may leave the pc where it is. -/
def branchReads : Instr → Option (List Nat)
  | .j _ => some []
  | .jal _ => some []
  | .jalr _ a => some [a]
  | .beq a b _ => some [a, b]
  | .bne a b _ => some [a, b]
  | .blt a b _ => some [a, b]
  | .bge a b _ => some [a, b]
  | .bltu a b _ => some [a, b]
  | .bgeu a b _ => some [a, b]
  | _ => none

/-- Does a hart stand at a branch whose operands have come? -/
noncomputable def State.atBranch (s : State) (h : Hart) : Bool :=
  match (s.iline h h.pc.toNat).bind (fun l => decodeWord (l.word h.pc.toNat)) with
  | some i => (branchReads i).any (fun l => l.all (fun n => !h.owed n))
  | none => false

/-- Has a hart issued, from one state to the next: an instruction of it took effect? One that only waited is not ready, and changes
no state (R157). -/
noncomputable def State.hartIssued (s t : State) (hart : Nat) : Bool :=
  match s.hart? hart, t.hart? hart with
  | some a, some b => a.pc != b.pc || a.halted != b.halted || a.stopped != b.stopped || a.park != b.park
      || a.gbarCount != b.gbarCount || a.queue.length != b.queue.length || s.atBranch a
  | _, _ => true

/-- A hart that has issued ranks as most recently issued of its core, after those that have never issued (R157). -/
noncomputable def State.restamp (s t : State) (hart : Nat) : State :=
  if s.hartIssued t hart then { t.modHart hart (fun h => { h with stamp := t.issueCtr + 1 }) with issueCtr := t.issueCtr + 1 } else t

/-- An outcome with its next state changed. -/
def nextBy (o : Out State) (f : State → State) : Out State :=
  match o with
  | .next t => .next (f t)
  | .fault x => .fault x
  | .refused x => .refused x

/-- A hart issues. -/
noncomputable def State.issue (s : State) (h : Hart) : Out State :=
  nextBy (s.attempt h) (fun t => s.restamp t h.id)

/-! Moves of the agenda. -/

/-- Is a constructor an event of the opcode table, which has no word? -/
def isEvent (i : Instr) : Bool := (encode i).isNone

/-- Does the current hart stand at this word, and does no table assign it? -/
noncomputable def State.illegalHere (s : State) (w : Nat) : Bool :=
  match s.curHart with
  | none => false
  | some h =>
    h.ready && h.late.isEmpty && (match s.iline h h.pc.toNat with
      | some l => !l.poison && l.word h.pc.toNat == w && (decodeWord w).isNone
      | none => false)

/-- Rows with a ready block: cluster, and what R151 compares. -/
def State.readyRows (s : State) : List (Nat × Nat × Nat × Nat × Nat × Nat × Nat) :=
  s.harts.flatMap (fun h => (List.range h.rows.length).filterMap (fun r =>
    match h.rows[r]? with
    | some row =>
      match row.cluster with
      | some c => if h.rowLive r && decide (row.qdone < h.qbase + h.queue.length) then
          some (c, s.clsOf h, b2n (!row.promoted), row.readySince, h.core * 4 + h.slot, h.id, r) else none
      | none => none
    | none => none))

/-- Lexicographic order of what R151 compares. -/
def rowBefore (x y : Nat × Nat × Nat × Nat × Nat × Nat × Nat) : Bool :=
  let a := [x.2.1, x.2.2.1, x.2.2.2.1, x.2.2.2.2.1, x.2.2.2.2.2.2]
  let b := [y.2.1, y.2.2.1, y.2.2.2.1, y.2.2.2.2.1, y.2.2.2.2.2.2]
  decide (a < b)

/-- An agent's key: hart × 256, plus 0 for its scalar stream, 1 + r for row r, 65 + k for the copy of token k. -/
def agentKey (hart code : Nat) : Nat := hart * 256 + code

/-- Has an agent got on: what it stands at has changed? -/
noncomputable def agentMoved (s t : State) (key : Nat) : Bool :=
  match s.hart? (key / 256), t.hart? (key / 256) with
  | some a, some b =>
    let c := key % 256
    if c = 0 then s.hartIssued t a.id || a.fetchWait != b.fetchWait || s.ext.length != t.ext.length
    else if c < 65 then
      (match a.rows[c - 1]?, b.rows[c - 1]? with
       | some x, some y => x.qdone != y.qdone || x.run != y.run || x.park != y.park || x.prog != y.prog || x.fetchWait != y.fetchWait
           || x.joined != y.joined
       | _, _ => true) || a.qbase != b.qbase || b.pc != a.pc || s.ext.length != t.ext.length
    else
      match (a.tokens[c - 65]?).bind Token.job, (b.tokens[c - 65]?).bind Token.job with
      | some x, some y => x.t != y.t || x.park != y.park || s.ext.length != t.ext.length
      | _, _ => true
  | _, _ => true

/-- Does a hart rank before another of its core: higher class, then least recently issued (R157)? -/
def State.hartBefore (s : State) (x h : Hart) : Bool :=
  x.core == h.core && (decide (s.clsOf x < s.clsOf h) || (s.clsOf x == s.clsOf h && decide (x.stamp < h.stamp)))

/-- Is it this hart's turn on its core: no ready hart ranks before it? One that would only wait is not ready (R157). -/
noncomputable def State.hartTurn (s : State) (h : Hart) : Bool :=
  h.ready && !s.harts.any (fun x => x.ready && s.hartBefore x h && (match s.attempt x with
    | .next t => s.hartIssued t x.id
    | _ => true))

/-- Is it this row's turn on its cluster: no row with a ready block ranks before it (R151)? -/
noncomputable def State.rowTurn (s : State) (hart r : Nat) : Bool :=
  s.readyRows.any (fun x => x.2.2.2.2.2.1 == hart && x.2.2.2.2.2.2 == r
    && !s.readyRows.any (fun y => y.1 == x.1 && rowBefore y x
      && agentMoved s (s.rowStep y.2.2.2.2.2.1 y.2.2.2.2.2.2) (agentKey y.2.2.2.2.2.1 (1 + y.2.2.2.2.2.2))))

/-- An event of the agenda takes place. A word of a program is no event, and neither is an illegal instruction that the current
hart does not stand at or whose turn it is not, nor the dispatch of a row whose turn it is not: nothing happens. -/
noncomputable def State.event (s : State) (i : Instr) : Out State :=
  if !isEvent i then .next s else
  match i with
  | .illegalInstruction w =>
    if s.illegalHere w && s.curHart.any s.hartTurn then nextBy (exec i s) (fun t => s.restamp t s.cur) else .next s
  | .rowDispatch hart r => if s.rowTurn hart r then exec i s else .next s
  | i => exec i s

/-- One move of the agenda. -/
noncomputable def State.move (s : State) (m : Move) : Out State :=
  match m with
  | .issue hart =>
    match s.hart? hart with
    | some h => if s.hartTurn h then s.issue h else .next s
    | none => .next s
  | .event i => s.event i

/-! The device's own moves, in the order tried. Each answers none where it has nothing to do. -/

/-- A meaning that always goes on, as a state. -/
def stateOf (o : Out State) (s : State) : State :=
  match o with
  | .next t => t
  | _ => s

/-- A move that changes nothing is none. -/
def changed (s t : State) : Option State := if t = s then none else some t

/-- Bring-up goes on (R15). -/
def State.moveBringup (s : State) : Option State :=
  if s.stage = 0 then some (stateOf (execPowerOn s) s)
  else if s.stage < 7 ∧ !BB s.dev.idstat 4 then some (stateOf (execBringupStage true s) s)
  else none

/-- A served write commits; a line that the host holds waits for its answer. -/
def State.moveCommit (s : State) : Option State :=
  (s.harts.find? (fun h => match h.wbuf with
    | w :: _ => w.served && !s.snoopWait.contains (w.pa / 64)
    | [] => false)).map (fun h => s.commitOldest h.id)

/-- A slice port serves a waiting write that holds tokens. -/
def State.moveServe (s : State) : Option State :=
  ((List.range 4).find? (fun p => (s.portNext p).any (fun r => r.agent == 1000))).map s.portServe

/-- A lender has a request waiting, or has had none for long enough (R78). -/
def State.moveLend (s : State) : Option State :=
  (s.pools.find? (fun p => p.lending && s.lenderWaits p)).bind (fun p =>
    ((s.portWaiting p.port).find? (fun r => r.cls == p.cls && p.feeders.contains r.fn)).map (fun r =>
      stateOf (execLenderActive p.port r.fn p.cls s) s))
  <|> ((s.pools.find? s.relends).map (fun p => stateOf (execSpillPoolRelend p.port p.cls s) s))

/-- A launch on its way is decided; one whose decision must wait stays. -/
def State.moveLaunch (s : State) : Option State :=
  s.launchQ.findSome? (fun x =>
    let t := s.launchPush x.1 x.2.1 x.2.2
    if t.launchQ.length = s.launchQ.length then none else some t)

/-- A push, a launch or a contribution on its way arrives. -/
def State.moveFlight (s : State) : Option State :=
  match s.pushes with
  | _ :: _ => some (stateOf (execSubscriptionPush s) s)
  | [] =>
    s.moveLaunch <|>
    (match s.treeUp with
      | x :: _ => some (s.reductionOperand x.1 x.2.1 x.2.2.1 x.2.2.2.1 x.2.2.2.2.1 x.2.2.2.2.2)
      | [] =>
        match s.treeDown with
        | x :: _ => some (s.reductionResult x.1 x.2.1 x.2.2.1 x.2.2.2.1 x.2.2.2.2)
        | [] => none)

/-- A tree command whose reads have come back goes on. -/
def State.moveTree (s : State) : Option State :=
  ((List.range 65).find? (fun f => !(s.fn f).treeWaiting.isEmpty
    && !s.ext.any (fun e => e.hart == (treeAcc f).hart && e.reply.isNone))).bind (fun f => changed s (s.treeRun f))

/-- A gang over a budget stops; one that has ended completes, once every home has answered; a waiting gang is placed, or pre-empts. -/
def State.moveGang (s : State) : Option State :=
  match s.gangs.find? (fun g => g.phase != GangPhase.queued && g.stop.isNone && s.overBudget g) with
  | some g => some (s.budgetStop g.id)
  | none =>
    match s.gangs.findSome? (fun g =>
        if (g.phase == .placed || g.phase == .preempted) && s.gangEnded g.id then changed s (s.completeGang g.id).resetIfDue else none) with
    | some t => some t
    | none =>
      ((List.range 4).findSome? (fun c => (s.waiting c).head?.bind (fun g =>
        let t := s.gangPlace g.id
        if t.placeCtr = s.placeCtr then none else some t)))
      <|> ((List.range 4).findSome? (fun c => (s.waiting c).head?.bind (fun g =>
        let t := s.gangPreempt g.id
        if (t.waiting 2).length + (t.waiting 3).length = (s.waiting 2).length + (s.waiting 3).length then none else some t)))

/-- A suspended row is restored (R163); that of a hart that has halted too while its queue holds work (R156). -/
def State.moveRestore (s : State) : Option State :=
  (s.harts.filter (fun h => !h.saved && !h.stopped && !(h.halted && h.queue.isEmpty))).findSome? (fun h =>
    ((List.range h.rows.length).find? (fun r => ((h.rows[r]?).bind Row.cluster).isNone)).bind (fun r =>
      let t := s.rowRestore h.id r
      if (((t.hart? h.id).bind (fun h => h.rows[r]?)).bind Row.cluster).isSome then some t else none))

/-- A result leaves an input FIFO (R352). -/
def State.moveFifo (s : State) : Option State :=
  s.harts.findSome? (fun h => ((List.range 4).find? (fun f =>
    match (h.inq[f]?).getD [] with
    | c :: _ => c.res.isSome && c.after.isEmpty && decide (((h.outq[f]?).getD []).length < 16)
    | [] => false)).map (fun f => s.modHart h.id (fun h => h.fifoResult f)))

/-- A completion record that waits is written; a line that a hint has asked for is filled. -/
def State.moveLate (s : State) : Option State :=
  (if s.cpls.isEmpty then none else changed s s.cplRetry)
  <|> (if s.hints.isEmpty then none else changed s (s.hints.reverse.foldl State.hintRun s))

/-- Agate merges; Garnet zeroes a pool. -/
def State.moveEngines (s : State) : Option State :=
  ((s.streams.find? (fun x => !x.broken && (match x.park with
    | some p => p.conv
    | none => x.due.isSome))).bind (fun x => changed s (s.agateMerge x.fn x.handle)))
  <|> (((List.range 65).find? (fun f => (s.fn f).kvBusy && (match (s.fn f).kvPark with
    | some p => p.conv
    | none => true))).bind (fun f => changed s (s.kvInit f)))

/-- What registers have started ends. -/
def State.moveRegs (s : State) : Option State :=
  (List.range 65).findSome? (fun f =>
    let g := s.fn f
    if g.surfBusy then some (stateOf (execSurfflushComplete f s) s)
    else if g.xlBusy && s.xlQuiet f then some (stateOf (execXlinvComplete f s) s)
    else if !g.fqWaiting.isEmpty && g.fqRoom then changed s (s.fqWriteOne f)
    else none)

/-- The reset of a virtual function ends (R75). -/
def State.moveReset (s : State) : Option State :=
  match s.vfResetting with
  | f :: _ => if s.snoopWait.isEmpty then changed s (stateOf (execVfResetComplete (f - 1) s) s) else none
  | [] => none

/-- The lines that the sequencers of a hart wait for: die and line. -/
def Hart.lines (h : Hart) : List (Nat × Nat) :=
  (match h.park, h.fetchWait with
    | none, some l => [(dieOf h.core, l)]
    | _, _ => [])
  ++ h.rows.filterMap (fun r => match r.park, r.fetchWait with
    | none, some l => some (r.die (dieOf h.core), l)
    | _, _ => none)

/-- A line that a sequencer waits for is filled; one that cannot be read yet waits. -/
def State.moveFill (s : State) : Option State :=
  s.harts.findSome? (fun h => h.lines.findSome? (fun x => changed s (s.icacheFill x.1 h.fn x.2)))

/-- A timer has run out (R48, R51, R59). -/
def State.moveTimers (s : State) : Option State :=
  (s.trees.findSome? (fun t => (t.nodes.find? (fun n => match n.timer with
    | some since => decide (BF t.record 32 16 * 1000 ≤ s.dev.devtime.toNat - since)
    | none => false)).map (fun n => s.reductionTimeout t.id n.node)))
  <|> (((List.range 20).find? (fun p => (match (s.portDown[p]?).getD none with
      | some t => decide (s.reqto < s.dev.devtime.toNat - t)
      | none => false) && !s.portUp p && s.ext.any (fun e => !e.host && e.port == p && e.reply.isNone))).map
    (fun p => stateOf (execPortDownTimeout p s) s))
  <|> ((s.ext.find? (fun e => e.reply.isNone && decide (s.reqto ≤ s.dev.devtime.toNat - e.since))).map
    (fun e => s.answer e.id e.host 3 0 0))

/-- The first move that a list of them answers. -/
def firstMove (s : State) : List (State → Option State) → Option State
  | [] => none
  | m :: ms => match m s with
    | some t => some t
    | none => firstMove s ms

/-- The device's own work, none where it has none. -/
def State.deviceMove (s : State) : Option State :=
  firstMove s [State.moveBringup, State.moveCommit, State.moveLend, State.moveServe, State.moveFlight, State.moveTree, State.moveGang,
    State.moveRestore, State.moveFifo, State.moveEngines, State.moveRegs, State.moveReset, State.moveFill, State.moveLate, State.moveTimers]

/-! Agents that may have to wait: harts, rows, copies. -/

/-- The agents that may move: of each core the ready hart of the highest class that was least recently issued, of each cluster the
row that R151 picks, and of each core the oldest copy (R151, R157, R167). -/
def State.agents (s : State) : List Nat :=
  let free (k : Nat) : Bool := !s.stalled.contains k
  let hs := s.harts.filter (fun h => h.ready && free (agentKey h.id 0))
  let harts := (hs.filter (fun h => !hs.any (fun x => s.hartBefore x h))).map (fun h => agentKey h.id 0)
  let rs := s.readyRows.filter (fun x => free (agentKey x.2.2.2.2.2.1 (1 + x.2.2.2.2.2.2)))
  let rows := (rs.filter (fun x => !rs.any (fun y => y.1 == x.1 && rowBefore y x))).map (fun x => agentKey x.2.2.2.2.2.1 (1 + x.2.2.2.2.2.2))
  let copies := s.harts.flatMap (fun h => (List.range 8).filterMap (fun k =>
    match ((h.tokens[k]?).bind Token.job) with
    | some j => if !h.stopped && s.copyTurn h j && (match j.park with
        | some p => p.conv
        | none => true) && free (agentKey h.id (65 + k)) then some (agentKey h.id (65 + k)) else none
    | none => none))
  harts ++ rows ++ copies

/-- The agent whose turn it is: the next after the last, in the order of keys. -/
def pickAgent (last : Nat) (l : List Nat) : Option Nat :=
  match l.filter (fun k => decide (last < k)) with
  | [] => l.min?
  | after => after.min?

/-- Note what an agent did: after a move nothing is stalled; after a wait it is. -/
noncomputable def State.noteAgent (s t : State) (key : Nat) : State :=
  { t with
    stalled := if agentMoved s t key then [] else key :: s.stalled
    lastAgent := key
    agentMoves := s.agentMoves + 1 }

/-- A nanosecond passes: DEVTIME, and the mesh cycles that fall into it at every port, 12 in 5 ns (R7; log 2, DESIGN CHOICE, unsafe). -/
def State.tick (s : State) : State :=
  let before := s.meshCycles
  let s := stateOf (execDevtimeAdvance s) s
  let s := (List.range (s.meshCycles - before)).foldl (fun (s : State) _ =>
    (List.range 4).foldl (fun (s : State) p => stateOf (execBucketAccrue p s) s) s) s
  { s.kvRetry with stalled := [], agentMoves := s.agentMoves + 1 }

/-- One move of an agent. -/
noncomputable def State.agentMove (s : State) (key : Nat) : Out State :=
  let hart := key / 256
  let c := key % 256
  let out : Out State :=
    if c = 0 then (match s.hart? hart with
      | some h => s.issue h
      | none => .next s)
    else if c < 65 then execRowDispatch hart (c - 1) s
    else execCopyRetire hart (c - 65) s
  match out with
  | .next t => .next (s.noteAgent t key)
  | .fault f => .fault f
  | .refused r => .refused r

/-- The move of a machine whose agenda is empty: the device's own work, else an agent, else time. Time passes every 16 agent moves too. -/
noncomputable def State.defaultMove (s : State) : Out State :=
  match s.deviceMove with
  | some t => .next { t with stalled := [] }
  | none =>
    if s.agentMoves % 16 = 15 then .next s.tick
    else match pickAgent s.lastAgent s.agents with
      | some k => s.agentMove k
      | none => .next s.tick

/-! The fetch that `withFetchWord` prepares. -/

/-- A launch record of one hart on one cluster, with budgets that do not run out soon. -/
def probeRecord : BitVec 512 :=
  BitVec.ofNat 512 (1 + 2 * 2 ^ 8 + 1 * 2 ^ 32 + 1 * 2 ^ 40 + 0xFFFF_FFFF * 2 ^ 320 + 0xFFFF_FFFF * 2 ^ 352)

/-- The hart of that record, of the physical function, at manager level, in slot 0 of core 0 with cluster 0. -/
def State.probeHart (s : State) : Hart :=
  s.newHart s.hartCtr s.gangCtr 0 0 2 0 probeRecord.toNat { core := 0, slot := 0, clusters := [0] }

/-- The device with a gang of one hart of the physical function placed, at manager level, in slot 0 of core 0. -/
def State.withHart (s : State) : State :=
  let g : Gang := { s.newGang 0 none 0 probeRecord 2 with phase := .placed, placedSeq := s.placeCtr }
  { s with
    powered := true
    dev := { s.dev with idstat := 7 }
    harts := s.harts ++ [s.probeHart]
    gangs := s.gangs ++ [g]
    hartCtr := s.hartCtr + 1
    gangCtr := s.gangCtr + 1
    placeCtr := s.placeCtr + 1 }

/-- The line that holds the bytes of a word at an address, zeros elsewhere. -/
def lineWith (die fn va : Nat) (bs : List Byte) : ILine where
  die := die
  fn := fn
  va := va / 64 * 64
  bytes := List.replicate (va % 64) 0 ++ bs ++ List.replicate (60 - va % 64) 0
  poison := false
  user := true

/-- The line put into the instruction cache of a hart's die, and the hart's issue put at the head of the agenda. -/
def State.withLine (s : State) (h : Hart) (bs : List Byte) : State :=
  let l := lineWith (dieOf h.core) h.fn h.pc.toNat bs
  { s with
    icache := l :: s.icache.filter (fun x => !(x.die == l.die && x.fn == l.fn && x.va == l.va))
    agenda := .issue h.id :: s.agenda }

end Sys2Proof.Machine
end

