-- ==== Sys2Proof/Machine/Step.lean ====
section
/-! DEFINITION. The step of the machine, and the state whose next step runs a given word. -/

namespace Sys2Proof.Machine

/-- One step: the head of the agenda; with an empty agenda, the machine's own move. A device without power and without an
agenda cannot move. -/
noncomputable def step (s : State) : Host.Outcome State Fault Refusal :=
  match s.agenda with
  | m :: rest => State.move { s with agenda := rest, stalled := [] } m
  | [] => if s.powered then s.defaultMove else .fault .noPower

/-- s with the word stored where the next step fetches: in the instruction line of the first hart whose turn it is, as no ready hart ranks
before it (R157), or of a hart that is placed for it (log 3, DESIGN CHOICE, safe). -/
def State.withFetchWord (s : State) (_nbits w : Nat) : State :=
  match s.harts.find? (fun h => h.ready && h.park.isNone && !s.harts.any (fun x => x.ready && s.hartBefore x h)) with
  | some h => s.withLine h (wordBytes (w % 2 ^ 32))
  | none => s.withHart.withLine s.probeHart (wordBytes (w % 2 ^ 32))

end Sys2Proof.Machine
end

