-- ==== Sys2Proof/Safety.lean ====
section
/-! DEFINITION. What the claims speak of: operands that may be used, the states that follow a result, a jump or a trap, what every
step keeps, and runs that do not stop. -/

namespace Sys2Proof.Machine

/-- A scalar register that may be used: no queued word still owes it, and it carries no poison (R38, R158). -/
def Hart.usable (h : Hart) (n : Nat) : Bool := !h.owed n && !h.rdP n

/-- The hart whose instruction executes goes on after it; nothing else changes. -/
def State.skip (s : State) : State := s.modHart s.cur Hart.advance

/-- The hart whose instruction executes writes v, with its poison, to scalar register d and goes on. -/
def State.result (s : State) (d : Nat) (v : Word) (p : Bool := false) : State :=
  s.modHart s.cur (fun h => (h.wr d v p).advance)

/-- The hart whose instruction executes goes on at an address. -/
def State.goto (s : State) (pc : Word) : State := s.modHart s.cur (fun h => { h with pc := pc })

/-- The hart whose instruction executes takes a trap of the scalar stream. -/
def State.trapTo (s : State) (code : Nat) (val : Word) (sub : Nat := 0) : State :=
  s.takeTrap { code := code, val := val, sub := sub }

/-- The hart takes a trap of the scalar stream out of the state s that its instruction reached; while the trap must wait, the instruction has
done nothing, and the state is s0. -/
def State.trapFrom (s0 s : State) (code : Nat) (val : Word) (sub : Nat := 0) : State :=
  (s.takeTrap? { code := code, val := val, sub := sub }).getD s0

/-- Does the trap unit of a hart stop the gang instead of entering the handler: no handler, one already active, or a context error
(R218)? -/
def Hart.noHandler (h : Hart) (code : Nat) : Bool := !BB h.tvec 0 || BB h.tstatus 2 || code == 0x13 || code == 0x14

/-- The hart's input FIFO f has room for a command (R169). -/
def Hart.hasRoom (h : Hart) (f : Nat) : Prop := ((h.inq[f]?).getD []).length < 16

/-- No copy of the hart in flight covers an access: none writes what it touches, and none reads what it writes (R210). -/
def Hart.clear (h : Hart) (va n : Nat) (wr : Bool) : Prop :=
  ∀ t ∈ h.tokens.toList, ∀ j, t.job = some j →
    overlap va n j.hi.1 (j.hi.2 - j.hi.1) = false ∧ (wr = true → overlap va n j.lo.1 (j.lo.2 - j.lo.1) = false)

/-- A scalar access of hart h at va of a width goes to device memory at pa through the translation x, and changes nothing on the way: it
is aligned and below the windows, no copy in flight covers it, no aperture holds va, and the translation, with its A and D set, stands in
the die's service (R79 to R87, R210, R278). -/
def State.direct (s : State) (h : Hart) (va width pa : Nat) (wr : Bool) (kinds : List Nat) (x : Xl) : Prop :=
  va % width = 0 ∧ va < padWindow ∧ h.clear va width wr
    ∧ apertureOf (s.accOf h 0) va s = .ok none s ∧ xlate (s.accOf h 0) va wr kinds false s = .ok x s
    ∧ x.dest = .localM pa ∧ pa + width ≤ paLimit

/-- The port serves n tokens to a scalar access of hart h at pa, which leaves s1: the context has them, and no request goes first (R76). -/
def State.paid (s : State) (h : Hart) (pa n : Nat) (s1 : State) : Prop :=
  s.serve (l2Port (dieOf h.core) (pa / 64)) h.fn (s.clsOf h) h.id 0 n = some s1

/-- A completed access of hart h to n sectors is counted for its gang and numbered (R101, R148). -/
def State.counted (s : State) (h : Hart) (x : Xl) (n : Nat) : State :=
  (s.countBytes h.gang n).numberAccess (dieOf h.core) x

/-- No queued word of the hart has still to acquire before a later scalar access (R362, R406). -/
def Hart.acqFree (h : Hart) : Bool := !h.ahead.any (fun e => e.sub == 0 && e.op.acquires)

/-- Heat sampling is off (R101). -/
def State.noHeat (s : State) : Prop := BB s.dev.heatcfg 32 = false

/-- No line that n bytes from a touch lies in a retired row (R40). -/
def State.unretired (s : State) (a n : Nat) : Prop := ∀ i, i < n → s.retiredLine ((a + i) / 64) = false

/-- An entry placed at the end of the queue, which stood at an index: a row that stood there has had a ready block since now. -/
def Hart.placed (h : Hart) (now end_ : Nat) (e : Entry) : Hart :=
  { h with
    queue := h.queue ++ [e]
    rows := h.rows.map (fun (r : Row) => if r.qdone = end_ then { r with readySince := now } else r) }

/-- An entry is placed in the queue of the hart whose instruction executes, and nothing else changes. -/
def State.placed (s : State) (h : Hart) (e : Entry) : State :=
  s.modHart s.cur (fun x => x.placed s.dev.devtime.toNat (h.qbase + h.queue.length) e)

/-- An entry is placed, and the stream goes on after its word (R158). -/
def State.queued (s : State) (h : Hart) (e : Entry) : State :=
  s.modHart s.cur (fun x => (x.placed s.dev.devtime.toNat (h.qbase + h.queue.length) e).advance)

/-- An optional scalar operand as it is captured. -/
def Hart.operand (h : Hart) : Option Nat → Elem
  | some n => { v := h.rd n, poison := h.rdP n }
  | none => { v := 0 }

/-- No queued word owes an optional scalar operand. -/
def Hart.freeOpt (h : Hart) : Option Nat → Bool
  | some n => !h.owed n
  | none => true

/-- What a queued operation holds: itself, its address, its scalar operands, and the control state of its issue (R158). -/
def Hart.captured (h : Hart) (i : Instr) : Op :=
  { i := i, pc := h.pc, sa := h.operand (captures i).1, sb := h.operand (captures i).2.1, sc := h.operand (captures i).2.2.1,
    sf := h.operand (captures i).2.2.2, vtype := h.vtype, vmt := h.vmt, vxrm := h.vxrm, frm := h.frm, hcr := h.hcr, apxq := h.apxq }

/-- No queued word owes a register that an operation captures. -/
def Hart.capturable (h : Hart) (i : Instr) : Bool :=
  h.freeOpt (captures i).1 && h.freeOpt (captures i).2.1 && h.freeOpt (captures i).2.2.1 && h.freeOpt (captures i).2.2.2

/-! Rows of a tile. -/

/-- Row r of hart n has come to the queue entry e and may execute it: its hart is on its core, with no cause of a committed entry left to report,
the row holds a cluster, and waits for no translation and no mask of a copy (R158 to R160, R221, R346). -/
def State.rowHas (s : State) (n r : Nat) (h : Hart) (row : Row) (e : Entry) : Prop :=
  s.hart? n = some h ∧ h.late = [] ∧ h.rowLive r = true ∧ h.rows[r]? = some row ∧ row.park = none ∧ h.entryOf r = some e
    ∧ h.maskWaits r (row.qdone - h.qbase) e = false

/-- The state in which row r of hart n tries its entry: its places at the ports hold nobody up meanwhile, and it is stopped no more. -/
def State.rowTry (s : State) (n r : Nat) : State := (s.retry n (1 + r)).modRow n r (fun x => { x with stuck := false })

/-- That entry is the word o, without a poisoned descriptor, which the row begins afresh and takes part in. -/
def State.rowAt (s : State) (n r : Nat) (h : Hart) (row : Row) (e : Entry) (o : Op) : Prop :=
  s.rowHas n r h row e ∧ row.joined = true ∧ e.op = o ∧ e.sub = 0 ∧ e.n = 0 ∧ e.isLoop = false ∧ o.comb = false ∧ o.sf.poison = false ∧ row.prog = none

/-- Row r, which passes the word e with the flags fl, leaves its hart no cause to report: it is not the last row there, or the flags of all the rows
are none or trap nowhere, and no row of it reached the threshold of the approximation check (R189, R194, R221). -/
def Hart.silent (h : Hart) (r : Nat) (e : Entry) (fl : Nat) : Prop :=
  h.lastAt r = false ∨ ((BB e.op.hcr 4 = false ∨ e.flags ||| fl = 0) ∧ (e.sub = 0 → e.isLoop = false → e.n = 0))

/-- The word e once row r has passed it with the flags fl. -/
def Entry.after (e : Entry) (r fl : Nat) : Entry :=
  { e with flags := e.flags ||| fl, flagRow := if fl = 0 then e.flagRow else min e.flagRow r }

/-- A hart whose row r, which stood at an index, has passed the word e with the flags fl; the last row to pass takes the rows it counted (R194). -/
def Hart.wordPast (h : Hart) (r qdone : Nat) (e : Entry) (fl : Nat) : Hart :=
  { h with
    queue := h.queue.modify (qdone - h.qbase) (fun e => e.after r fl)
    apxRow := if h.lastAt r then h.apxRow + e.count else h.apxRow }

/-- A row that has executed its entry: it stands at the next one, with VSTART 0, and waits afresh. -/
def Row.passed (x : Row) (qdone now : Nat) : Row :=
  { x with vstart := 0, prog := none, qdone := qdone + 1, readySince := now, promoted := false, stuck := false }

/-- Row r of hart n has executed its word e and is `out` in its registers; the word and the hart have taken flags, the hart saturation, and it has
counted some reshuffles; finished entries at the head of its queue are gone, and the row waits for nothing more. -/
def State.rowDone (s : State) (n r : Nat) (row out : Row) (e : Entry) (fl : Nat) (sat : Bool) (shuf : Nat) : State :=
  ((s.retry n (1 + r)).modHart n (fun h => (({ h.wordPast r row.qdone e fl with
    rows := h.rows.modify r (fun _ => out.passed row.qdone s.dev.devtime.toNat)
    fflags := h.fflags ||| BitVec.ofNat 5 fl
    vxsat := h.vxsat ||| BitVec.ofNat 1 (b2n sat)
    shufcnt := BitVec.ofNat 32 (min (2 ^ 32 - 1) (h.shufcnt.toNat + shuf)) } : Hart).pop))).settle n (1 + r)

/-- Row r of hart n goes past its entry after a change, which commits nothing, the rest of its hart as it was. -/
def State.rowPassed (s : State) (n r : Nat) (f : Row → Row) : State :=
  ((s.retry n (1 + r)).modHart n (fun h => ({ h with rows := h.rows.modify r (fun x => { f x with
    prog := none, qdone := x.qdone + 1, readySince := s.dev.devtime.toNat, promoted := false, stuck := false }) } : Hart).pop)).settle n (1 + r)

/-- From s to t, row r of hart n, which stood at a word, has become `out` in its registers and tiles and gone past the word; the hart has changed in its
queue and its flags, saturation and counters besides, and memory reads as before. -/
def State.rowTo (s t : State) (n r : Nat) (out : Row) : Prop :=
  ∃ h k, s.hart? n = some h ∧ t.hart? n = some k
    ∧ k.rows = h.rows.modify r (fun x => out.passed x.qdone s.dev.devtime.toNat)
    ∧ k = { h with
      rows := k.rows, queue := k.queue, qbase := k.qbase, fflags := k.fflags, vxsat := k.vxsat, shufcnt := k.shufcnt, apxRow := k.apxRow
      scratch := k.scratch, scratchPoison := k.scratchPoison }
    ∧ (∀ x, t.mem.read1 x = s.mem.read1 x)

/-- The hart's scratchpad is as it was. -/
def State.padKept (s t : State) (n : Nat) : Prop :=
  ∃ h k, s.hart? n = some h ∧ t.hart? n = some k ∧ k.scratch = h.scratch ∧ k.scratchPoison = h.scratchPoison

/-- From s to t, the tile of hart n has executed a word once: each row is as `f` makes it and past the word, the hart has changed in its queue, flags,
scalar registers, counter of reshuffles and codebook besides, and memory reads as before. -/
def State.tileTo (s t : State) (n : Nat) (f : Nat → Row → Row) : Prop :=
  ∃ h k, s.hart? n = some h ∧ t.hart? n = some k ∧ k.rows.length = h.rows.length
    ∧ (∀ i x, h.rows[i]? = some x → ∃ y, k.rows[i]? = some y
      ∧ y = { f i x with prog := none, qdone := x.qdone + 1, readySince := y.readySince, promoted := y.promoted, stuck := y.stuck })
    ∧ k = { h with rows := k.rows, queue := k.queue, qbase := k.qbase, s := k.s, sp := k.sp, fflags := k.fflags, shufcnt := k.shufcnt, cbt := k.cbt, img := k.img }
    ∧ (∀ x, t.mem.read1 x = s.mem.read1 x)

/-- Every row of the tile stands at the word of a row, takes part, and holds its cluster (R163). -/
def Hart.together (h : Hart) (row : Row) : Prop :=
  ∀ x ∈ h.rows, x.joined = true ∧ x.qdone = row.qdone ∧ x.cluster.isSome = true

/-- Registers that a word reads at a width other than that of their last write, once each (R164). -/
def Row.reshuffles (row : Row) (l : List Rd) : Nat :=
  (((readRegs l).filter (fun x => ((row.vtag[x.1]?).getD 0).toNat != 0 && ((row.vtag[x.1]?).getD 0).toNat != x.2)).map Prod.fst).eraseDups.length

/-- The elements read carry no poison, and none lies in a dead register that would trap (R38, R166). -/
def Row.readable (row : Row) (o : Op) (l : List Rd) : Prop :=
  (∀ x ∈ l, row.rdPoison x = false) ∧ (BB o.hcr 1 = false ∨ ∀ x ∈ readRegs l, BB row.vdead x.1 = false)

/-- The operand groups of a word are placed as R184 and R254 demand, and its destination overlaps no source (R226). -/
def groupsOk (dst : Option Grp) (srcs : List Grp) (same : Bool) : Bool :=
  !(srcs.any (fun g => !g.ok) || (match dst with
    | some d => !d.ok || srcs.any (fun g => d.clash g same)
    | none => false))

/-- A typed word passes its checks: its descriptor carries no poison, names formats that the word takes, and its groups are well
placed (R182 to R184, R291). -/
def Op.typedOk (o : Op) (vd va : Nat) (vb : Option Nat) (single readD : Bool) (ok : Desc → Bool) : Bool :=
  let d := Desc.of o.sf.v
  !o.sf.poison && (fmtOf d.fa).isSome && (fmtOf d.fb).isSome && (fmtOf d.fd).isSome && !descBad o.sf.v single && ok d
    && groupsOk (some (o.typed d vd d.fd)) ([o.typed d va d.fa] ++ (vb.map (fun b => o.typed d b d.fb)).toList
      ++ (if readD then [o.typed d vd d.fd] else [])) true

/-- How the destination of a typed word takes results, and that of a SEW word. -/
def Op.typedDest (o : Op) (row : Row) (vd : Nat) (satAll : Bool) : Put :=
  let d := Desc.of o.sf.v
  { g := o.typed d vd d.fd, code := d.fd, mode := o.mode d, sat := d.sat || satAll, pc := o.pc, strip := row.strip.toNat }

/-- How the destination of a SEW word takes results. -/
def Op.plainDest (o : Op) (row : Row) (vd : Nat) : Put :=
  { g := o.plain vd, code := 0, mode := 0, sat := false, pc := o.pc, strip := row.strip.toNat }

/-! Vector memory. -/

/-- The byte at x after an access writes a value there: the low bytes of it, or one half of the byte (R316, R317). -/
def VAcc.over (a : VAcc) (value x : Nat) (old : Byte) : Byte :=
  if x < a.va ∨ a.va + a.n ≤ x then old
  else match a.nib with
    | some half => BitVec.ofNat 8 (if half = 0 then old.toNat / 16 * 16 + value % 16 else old.toNat % 16 + value % 16 * 16)
    | none => BitVec.ofNat 8 (value / 256 ^ (x - a.va))

/-- The registers of a vector memory word are placed as R315 demands. -/
def VMode.placed (v : VMode) (o : Op) : Prop :=
  v.vd % o.lmul = 0 ∧ v.vd + v.nf * o.lmul ≤ 32 ∧ (v.kind = 2 → v.eew = o.sew)
    ∧ ∀ b, v.vb = some b → o.group 32 ≤ 8 ∧ b % o.group 32 = 0 ∧ b + o.group 32 ≤ 32
      ∧ (v.kind ≠ 1 → v.vd + v.nf * o.lmul ≤ b ∨ b + o.group 32 ≤ v.vd)

/-- Nothing that a vector memory word reads as an address carries poison, and no dead register traps (R38, R166). -/
def VMode.addressable (v : VMode) (o : Op) (row : Row) : Prop :=
  o.sa.poison = false ∧ (v.strided = true → o.sb.poison = false)
    ∧ (∀ b, v.vb = some b → ∀ j ∈ row.actives v.mask 0, row.elemPoison b 32 j = false)
    ∧ (BB o.hcr 1 = false ∨ ∀ x ∈ readRegs (v.reads o (row.actives v.mask 0)), BB row.vdead x.1 = false)

/-- Every access is aligned and ends below a limit of the scratchpad, no copy in flight covers it, and no stored segment crosses a line (R168, R210,
R319, R324). -/
def VMode.inPad (v : VMode) (o : Op) (h : Hart) (row : Row) (limit : Nat) : Prop :=
  ∀ j ∈ row.actives v.mask 0, (∀ a ∈ v.accs o row j, a.va % a.n = 0 ∧ a.va + a.n ≤ limit ∧ h.clear (padWindow + a.va) a.n (v.kind != 0))
    ∧ (v.kind = 1 → v.nf = 1 ∨ v.addr o row j 0 % 64 + v.nf * max 1 (v.eew / 8) ≤ 64)

/-- Registers of a row outside a group hold what they held. -/
def Row.keepsOutside (out row : Row) (base n : Nat) : Prop :=
  (∀ x, x < 32 → (x < base ∨ base + n ≤ x) → out.v[x]? = row.v[x]? ∧ out.vpoison[x]? = row.vpoison[x]? ∧ out.vtag[x]? = row.vtag[x]?)
    ∧ out = { row with v := out.v, vpoison := out.vpoison, vtag := out.vtag, vdead := out.vdead }

/-- A row of A is given, of n elements: nothing of it that a word uses is poisoned (R38, R337). -/
def ARow.clean (A : ARow) (code : Nat) (scaled : Bool) (n : Nat) : Prop := ∀ k, k < n → A.poisoned code scaled k = false

/-! Runs. -/

/-- The canonical form of memory, and of every hart's scratchpad: what every step keeps (log 1, DESIGN CHOICE, unsafe). -/
def State.canonical (s : State) : Bool := s.mem.wf && s.harts.all (fun h => h.scratch.wf)

/-- A run of k moves stops at no fault and no refusal. -/
def State.safeFor (s : State) (k : Nat) : Prop := ∃ t, Host.Core.run Sys2Proof.core k s = .next t

end Sys2Proof.Machine
end

