-- ==== Sys2Proof/Certificates/Slice0/Obligations.lean ====
section
/-! DEFINITION. The statements for the provers. Each docstring names the rules of the spec that its statement rests on. -/

open Sys2Proof Sys2Proof.Machine

/-! Encoding (R251 to R268). -/

/-- Every word the encoder gives for a well-formed instruction decodes, as bytes of memory, to that instruction, every operand kept, and
the bytes after it stay (R251, R257 to R267). -/
def Obligations.DecodeEncode : Prop :=
  ∀ (i : Instr) (w : Nat) (rest : List Byte), i.wf = true → encode i = some w →
    decode (wordBytes w ++ rest) = .ok (i, rest) ∧ decodeTableWord 32 w = some i

/-- Every word that decodes is the one word the encoder gives for what it decodes to: no bit of a decoded word is ignored, and no
word of a reserved encoding decodes (R252, R268). -/
def Obligations.EncodeDecode : Prop :=
  ∀ (w : Nat) (i : Instr), w < 2 ^ 32 → decodeWord w = some i → i.wf = true ∧ encode i = some w

/-- Words written out from the encodings of R251 to R267 decode to the instructions they stand for. -/
def Obligations.DecodeWords : Prop :=
  decodeTableWord 32 0b000001_00011_00100_00101_00000_000000 = some (.add 3 4 5)
  ∧ decodeTableWord 32 0xF480_0000 = some (.csrr 4 0)
  ∧ decodeTableWord 32 0xF405_100A = some (.csrw 5 0xA)
  ∧ decodeTableWord 32 0xF406_300C = some (.csrc 6 0xC)
  ∧ decodeTableWord 32 0b010010_00000_00000_0000000000000000 = some .vnext
  ∧ decodeTableWord 32 0b011000_00001_00010_00011_00100_001_000 = some (.vaddI 1 2 3 4 1)
  ∧ decodeTableWord 32 0b111110_00000_00000_00000_000_00000000 = some .halt
  ∧ decodeTableWord 32 0 = none

/-! A step. -/

/-- A step whose agenda names a hart whose turn it is on its core (R157), and of which no committed cause waits to be reported, runs the instruction
its fetched bytes decode to, with that hart the current one; where the instruction took effect the hart ranks as the most recently issued, and one that
only waited keeps its rank. The agenda that names the next move is the model's choice (log 2, DESIGN CHOICE, unsafe). -/
def Obligations.StepRunsDecoded : Prop :=
  ∀ (s : State) (h : Hart) (l : ILine) (rest : List Move) (i : Instr) (tail : List Byte),
    let u : State := { s with agenda := rest, stalled := [] }
    s.agenda = .issue h.id :: rest → s.hart? h.id = some h → u.hartTurn h = true → h.late = [] → h.park = none →
    s.iline h h.pc.toNat = some l → l.poison = false → decode (l.fetch h.pc.toNat) = .ok (i, tail) →
    step s = nextBy (exec i (u.turn h.id)) (fun t => u.restamp t h.id)

/-- A step whose agenda names an event runs that event; the dispatch of a row only where it is that row's turn on its cluster (R151). That an agenda
names the events of a run, and that a dispatch out of turn does nothing, is the model's choice (log 2, DESIGN CHOICE, unsafe; log 21, DESIGN CHOICE, safe). -/
def Obligations.StepRunsEvent : Prop :=
  ∀ (s : State) (rest : List Move) (i : Instr),
    let u : State := { s with agenda := rest, stalled := [] }
    s.agenda = .event i :: rest → encode i = none → (∀ w, i ≠ .illegalInstruction w) →
    (∀ hart r, i = .rowDispatch hart r → u.rowTurn hart r = true) → step s = exec i u

/-- What a fetch stops at. Bytes that decode to nothing raise the illegal-instruction trap, with TVAL the word (R220, R268). A fetch that misses
freezes the sequencer: the hart waits for the line, SLIP counts the miss once, and the pc stays (R155). The agenda is the model's choice (log 2,
DESIGN CHOICE, unsafe). -/
def Obligations.FetchStops : Prop :=
  ∀ (s : State) (h : Hart) (rest : List Move),
    let u : State := { s with agenda := rest, stalled := [] }
    s.agenda = .issue h.id :: rest → s.hart? h.id = some h → u.hartTurn h = true → h.late = [] → h.park = none →
    (∀ (l : ILine) (e : DecodeError), s.iline h h.pc.toNat = some l → l.poison = false → decode (l.fetch h.pc.toNat) = .error e →
      step s = .next (u.restamp ((u.turn h.id).trapTo 0x01 (BitVec.ofNat 64 (l.word h.pc.toNat))) h.id))
    ∧ (s.iline h h.pc.toNat = none →
      step s = .next ((u.turn h.id).modHart h.id (fun x => x.missed h.pc.toNat))
      ∧ h.missed h.pc.toNat = { h with
          fetchWait := some (h.pc.toNat / 64 * 64)
          slip := if h.slip = BitVec.allOnes 32 then h.slip else h.slip + 1 })

/-- Every instruction of the table answers a next state in every state, and a step of a device with power does: no meaning stops the machine. -/
def Obligations.ExecAnswers : Prop :=
  (∀ (i : Instr) (s : State), ∃ t, exec i s = .next t) ∧ (∀ s : State, s.powered = true → ∃ t, step s = .next t)

/-- Every step keeps memory in its canonical form: addresses strictly rising, no byte listed that equals an unlisted one. That memory is such a list is the
model's choice (log 1, DESIGN CHOICE, unsafe); what it says of the device is that two memories that read alike are one state. -/
def Obligations.CanonicalKept : Prop :=
  ∀ s t : State, s.mem.wf = true → step s = .next t → t.mem.wf = true

/-- Memory has its canonical form at reset; the form is the model's choice (log 1, DESIGN CHOICE, unsafe). -/
def Obligations.CanonicalAtReset : Prop := State.reset.mem.wf = true

/-- What reset leaves: power applied and bring-up not begun; no hart, no gang; the registers of the functions and of the device at the reset values of
their tables (R10 to R16, R21, R28, R48, R63, R64, R77, R82, R91, R100, R101, R121, R122, R141, R215, R228, R384); and nothing listed in memory, which then
reads 0 everywhere: the model's choice (log 1, DESIGN CHOICE, unsafe). -/
def Obligations.ResetValues : Prop :=
  let s := State.reset
  s.powered = true ∧ s.stage = 0 ∧ s.harts = [] ∧ s.gangs = [] ∧ s.mem = []
  ∧ s.dev.idstat = 0 ∧ s.dev.pwrctl = 4500 ∧ s.lanes = 16 ∧ s.dev.thermstat = 0 ∧ s.dev.devtime = 0 ∧ s.dev.memerr = 0
  ∧ s.dev.frametab = 0 ∧ s.dev.heatcfg = 0x8_0000 ∧ s.dev.fabcfg = 0x64_03FF_0000 ∧ s.dev.schedcfg = 0x6400 ∧ s.dev.launchwin = 0
  ∧ ∀ f, f < 65 → (s.fn f).surftab = 0 ∧ (s.fn f).trapentry = 0 ∧ (s.fn f).savecfg = 0x80 ∧ (s.fn f).ptroot = 0 ∧ (s.fn f).fqcfg = 0
      ∧ (s.fn f).kvpool = 0x400 ∧ (s.fn f).kvmeta = 10 ∧ (s.fn f).vfcfg = 0 ∧ (s.fn f).qos = Vector.replicate 4 0x1_0100_0040
      ∧ (s.fn f).fabpart = 0 ∧ (s.fn f).frstat = 0

/-! Scalar instructions (R272 to R277). -/

/-- The register-register instructions write s[d] from s[a] and s[b], whose poison-free values the rules of R273 and R274 combine, and go
on; every other part of the state stays (the next state is written out whole). -/
def Obligations.ScalarTwoSource : Prop :=
  ∀ (s : State) (h : Hart) (d a b : Nat), s.curHart = some h → h.usable a = true → h.usable b = true → h.owed d = false →
    let x := h.rd a
    let y := h.rd b
    exec (.add d a b) s = .next (s.result d (x + y))
    ∧ exec (.sub d a b) s = .next (s.result d (x - y))
    ∧ exec (.and d a b) s = .next (s.result d (x &&& y))
    ∧ exec (.or d a b) s = .next (s.result d (x ||| y))
    ∧ exec (.xor d a b) s = .next (s.result d (x ^^^ y))
    ∧ exec (.sll d a b) s = .next (s.result d (x <<< (y.toNat % 64)))
    ∧ exec (.srl d a b) s = .next (s.result d (x >>> (y.toNat % 64)))
    ∧ exec (.sra d a b) s = .next (s.result d (x.sshiftRight (y.toNat % 64)))
    ∧ exec (.slt d a b) s = .next (s.result d (if x.toInt < y.toInt then 1 else 0))
    ∧ exec (.sltu d a b) s = .next (s.result d (if x.toNat < y.toNat then 1 else 0))
    ∧ exec (.seq d a b) s = .next (s.result d (if x = y then 1 else 0))
    ∧ exec (.min d a b) s = .next (s.result d (if x.toInt < y.toInt then x else y))
    ∧ exec (.max d a b) s = .next (s.result d (if x.toInt < y.toInt then y else x))
    ∧ exec (.minu d a b) s = .next (s.result d (if x.toNat < y.toNat then x else y))
    ∧ exec (.maxu d a b) s = .next (s.result d (if x.toNat < y.toNat then y else x))
    ∧ exec (.mul d a b) s = .next (s.result d (BitVec.ofInt 64 (x.toInt * y.toInt)))
    ∧ exec (.mulh d a b) s = .next (s.result d (BitVec.ofInt 64 (x.toInt * y.toInt / 2 ^ 64)))
    ∧ exec (.mulhu d a b) s = .next (s.result d (BitVec.ofNat 64 (x.toNat * y.toNat / 2 ^ 64)))

/-- Division: the quotient rounds toward zero, the remainder has the sign of the dividend; a divisor of 0 gives all ones and the
dividend, and −2^63 divided by −1 gives −2^63 and 0 (R274). -/
def Obligations.ScalarDivision : Prop :=
  ∀ (s : State) (h : Hart) (d a b : Nat), s.curHart = some h → h.usable a = true → h.usable b = true → h.owed d = false →
    let x := h.rd a
    let y := h.rd b
    (y ≠ 0 → exec (.div d a b) s = .next (s.result d (BitVec.ofInt 64 (x.toInt.tdiv y.toInt)))
      ∧ exec (.divu d a b) s = .next (s.result d (BitVec.ofNat 64 (x.toNat / y.toNat)))
      ∧ exec (.rem d a b) s = .next (s.result d (BitVec.ofInt 64 (x.toInt.tmod y.toInt)))
      ∧ exec (.remu d a b) s = .next (s.result d (BitVec.ofNat 64 (x.toNat % y.toNat)))
      ∧ x.toInt = x.toInt.tdiv y.toInt * y.toInt + x.toInt.tmod y.toInt ∧ x.toNat = x.toNat / y.toNat * y.toNat + x.toNat % y.toNat)
    ∧ (y = 0 → exec (.div d a b) s = .next (s.result d (BitVec.allOnes 64))
      ∧ exec (.divu d a b) s = .next (s.result d (BitVec.allOnes 64))
      ∧ exec (.rem d a b) s = .next (s.result d x) ∧ exec (.remu d a b) s = .next (s.result d x))
    ∧ (x = BitVec.intMin 64 → y = BitVec.allOnes 64 → exec (.div d a b) s = .next (s.result d x)
      ∧ exec (.rem d a b) s = .next (s.result d 0))

/-- The one-source and immediate instructions (R273, R275): the count of leading zeros, of trailing zeros and of ones, the shifts by
an immediate, ADDI with a sign-extended and ORI with a zero-extended immediate, and LUI. -/
def Obligations.ScalarOneSource : Prop :=
  ∀ (s : State) (h : Hart) (d a n i : Nat), s.curHart = some h → h.usable a = true → h.owed d = false → i < 65536 →
    let x := h.rd a
    (∀ k, k < 64 → x.toNat < 2 ^ (k + 1) → 2 ^ k ≤ x.toNat → exec (.clz d a) s = .next (s.result d (BitVec.ofNat 64 (63 - k))))
    ∧ (∀ k, k < 64 → x.toNat % 2 ^ k = 0 → x.toNat / 2 ^ k % 2 = 1 → exec (.ctz d a) s = .next (s.result d (BitVec.ofNat 64 k)))
    ∧ (x = 0 → exec (.clz d a) s = .next (s.result d 64) ∧ exec (.ctz d a) s = .next (s.result d 64))
    ∧ exec (.popc d a) s = .next (s.result d (BitVec.ofNat 64 ((List.range 64).countP (fun k => x.getLsbD k))))
    ∧ exec (.slli d a n) s = .next (s.result d (x <<< n))
    ∧ exec (.srli d a n) s = .next (s.result d (x >>> n))
    ∧ exec (.srai d a n) s = .next (s.result d (x.sshiftRight n))
    ∧ exec (.addi d a i) s = .next (s.result d (x + (BitVec.ofNat 16 i).signExtend 64))
    ∧ exec (.ori d a i) s = .next (s.result d (x ||| BitVec.ofNat 64 i))
    ∧ exec (.lui d i) s = .next (s.result d ((BitVec.ofNat 16 i).signExtend 64 <<< 16))

/-- A consumed register that carries poison is the poison trap, with TVAL 0, and nothing is written, but a JALR to an address that is no
multiple of 4 takes the trap of the lower code (R221); OR with s0 moves a value with its poison (R38, R272). -/
def Obligations.ScalarPoison : Prop :=
  ∀ (s : State) (h : Hart) (d a b : Nat), s.curHart = some h → h.owed a = false → h.rdP a = true →
    (h.usable b = true → exec (.add d a b) s = .next (s.trapTo 0x0D 0) ∧ exec (.add d b a) s = .next (s.trapTo 0x0D 0)
      ∧ exec (.mul d a b) s = .next (s.trapTo 0x0D 0) ∧ exec (.div d a b) s = .next (s.trapTo 0x0D 0))
    ∧ (∀ i, exec (.addi d a i) s = .next (s.trapTo 0x0D 0))
    ∧ (∀ o, h.usable b = true → exec (.beq a b o) s = .next (s.trapTo 0x0D 0))
    ∧ exec (.jalr d a) s = .next (if (h.rd a).toNat % 4 = 0 then s.trapTo 0x0D 0 else s.trapTo 0x06 (h.rd a))
    ∧ (h.owed d = false → exec (.or d a 0) s = .next (s.result d (h.rd a) true))

/-- What a result leaves: with d = s0 nothing is written, for any other d the register holds the value and the poison; every other
register keeps its own; flags, special and exception registers, the vector state, the other harts, memory and every other part of the
device stay, and the pc moves on by 4 (R157, R253, R272). -/
def Obligations.ResultFrame : Prop :=
  ∀ (s : State) (h : Hart) (d : Nat) (v : Word) (p : Bool), s.curHart = some h → d < 32 →
    let t := s.result d v p
    (∃ k, t.curHart = some k
      ∧ (d ≠ 0 → k.rd d = v ∧ k.rdP d = p)
      ∧ (∀ n, n < 32 → n ≠ d → k.rd n = h.rd n ∧ k.rdP n = h.rdP n)
      ∧ k.rd 0 = 0 ∧ k.rdP 0 = false
      ∧ k.pc = h.pc + 4
      ∧ k = { h with s := k.s, sp := k.sp, pc := k.pc })
    ∧ (∀ n, n ≠ s.cur → t.hart? n = s.hart? n)
    ∧ (∀ a, t.mem.read1 a = s.mem.read1 a)
    ∧ t = { s with harts := t.harts }

/-- A conditional branch goes to its own address + 4 + 4 × its offset when its condition holds, else to the next word; no register is
written, and what stands in the vector queue stays (R253, R276). J and JAL go to their own address + 4 + 4 × the offset, JALR to s[a], which is read
before the link is written; JAL links in s1 and JALR in s[d], the address of the next word; a JALR to an address that is no multiple of 4 is the
misaligned trap, with TVAL the address, before anything is written (R251, R277). -/
def Obligations.BranchesAndJumps : Prop :=
  ∀ (s : State) (h : Hart) (d a b o i : Nat), s.curHart = some h → o < 65536 → i < 2 ^ 26 →
    let x := h.rd a
    let y := h.rd b
    let go (c : Bool) : State := s.modHart s.cur (fun k =>
      { k with pc := if c then k.pc + 4 + 4 * (BitVec.ofNat 16 o).signExtend 64 else k.pc + 4 })
    let off : Word := 4 * (BitVec.ofNat 26 i).signExtend 64
    (h.usable a = true → h.usable b = true →
      exec (.beq a b o) s = .next (go (decide (x = y)))
      ∧ exec (.bne a b o) s = .next (go (decide (x ≠ y)))
      ∧ exec (.blt a b o) s = .next (go (decide (x.toInt < y.toInt)))
      ∧ exec (.bge a b o) s = .next (go (decide (y.toInt ≤ x.toInt)))
      ∧ exec (.bltu a b o) s = .next (go (decide (x.toNat < y.toNat)))
      ∧ exec (.bgeu a b o) s = .next (go (decide (y.toNat ≤ x.toNat))))
    ∧ exec (.j i) s = .next (s.modHart s.cur (fun k => { k with pc := k.pc + 4 + off }))
    ∧ (h.owed 1 = false → exec (.jal i) s = .next (s.modHart s.cur (fun k => { k.wr 1 (h.pc + 4) with pc := k.pc + 4 + off })))
    ∧ (h.usable a = true → h.owed d = false → x.toNat % 4 = 0 →
        exec (.jalr d a) s = .next (s.modHart s.cur (fun k => { k.wr d (h.pc + 4) with pc := x })))
    ∧ (h.usable a = true → x.toNat % 4 ≠ 0 → exec (.jalr d a) s = .next (s.trapTo 0x06 x))

/-! Memory (R38, R200 to R202, R278 to R280). -/

/-- Scalar loads from the scratchpad: s[d] takes the bytes at s[a] + the offset, sign- or zero-extended, with their poison, that of its sector for a
byte of data; an address in the slot page reads the bytes of the subscription slots, with the poison of their doublewords; nothing else changes (R168, R278, R279).
A copy in flight that covers the bytes holds the load up (R210), and so does a queued word that has still to acquire (R362, R406). -/
def Obligations.ScratchpadLoads : Prop :=
  ∀ (s : State) (h : Hart) (d a i w sc off : Nat), s.curHart = some h → h.usable a = true → h.owed d = false → w ≤ 3 →
    off + 8 ≤ 0x8_0000 → (off + 8 ≤ 0x7_F000 ∨ 0x7_F000 ≤ off) →
    let byte (x : Nat) : Byte := if x < 0x7_F000 then h.scratch.read1 x
      else BitVec.ofNat 8 (((h.slots[(x - 0x7_F000) / 64]?).getD 0).toNat / 2 ^ (8 * (x % 64)))
    let bad (x : Nat) : Bool := if x < 0x7_F000 then h.scratchPoison.contains (x / 16) else h.slotPoison.getLsbD ((x - 0x7_F000) / 8)
    let value (n : Nat) : Nat := leVal ((List.range n).map (fun k => byte (off + k)))
    let poison (n : Nat) : Bool := (List.range n).any (fun k => bad (off + k))
    let dword := (h.rd a + (BitVec.ofNat 16 i).signExtend 64).toNat = padWindow + off ∧ off % 8 = 0
    let part := (h.rd a).toNat = padWindow + off ∧ off % 2 ^ w = 0
    (h.acqFree = true → h.clear (padWindow + off) 8 false →
      (dword → exec (.ldD d a i) s = .next (s.result d (BitVec.ofNat 64 (value 8)) (poison 8)))
      ∧ (part →
        exec (.ldBHW d a w) s = .next (s.result d ((BitVec.ofNat (8 * 2 ^ w) (value (2 ^ w))).signExtend 64) (poison (2 ^ w)))
        ∧ exec (.ldBuHuWu d a w) s = .next (s.result d (BitVec.ofNat 64 (value (2 ^ w))) (poison (2 ^ w)))
        ∧ exec (.ldAcq d a sc w) s = .next (s.result d ((BitVec.ofNat (8 * 2 ^ w) (value (2 ^ w))).signExtend 64) (poison (2 ^ w)))))
    ∧ (h.acqFree = false → (dword → exec (.ldD d a i) s = .next s)
      ∧ (part → exec (.ldBHW d a w) s = .next s ∧ exec (.ldBuHuWu d a w) s = .next s ∧ exec (.ldAcq d a sc w) s = .next s))

/-- Scalar stores to the scratchpad write exactly their bytes, the low bytes of the data register, least significant first, and go on; a
release waits while an earlier store is not performed, and changes nothing meanwhile. Every other byte of the scratchpad and all of device memory read as before, and no
register changes. In the slot page a store is the access fault, and nothing is written (R168, R202, R278, R279). Earlier queued words that acquire
have done so (R362). -/
def Obligations.ScratchpadStores : Prop :=
  ∀ (s : State) (h : Hart) (a b i w sc off : Nat), s.curHart = some h → h.usable a = true → h.owed b = false → w ≤ 3 → h.acqFree = true →
    let stored (n : Nat) : State :=
      s.modHart s.cur (fun k => (k.padWrite off (leBytes n (h.rd b).toNat) (List.replicate n (h.rdP b))).advance)
    let dword := (h.rd a + (BitVec.ofNat 16 i).signExtend 64).toNat = padWindow + off ∧ off % 8 = 0
    let part := (h.rd a).toNat = padWindow + off ∧ off % 2 ^ w = 0
    (off + 8 ≤ 0x7_F000 → h.clear (padWindow + off) 8 true →
      (dword → exec (.stD b a i) s = .next (stored 8))
      ∧ (part → exec (.stBHW a b w) s = .next (stored (2 ^ w)) ∧ (h.wbuf = [] → exec (.stRel a b sc w) s = .next (stored (2 ^ w)))))
    ∧ (h.wbuf ≠ [] → exec (.stRel a b sc w) s = .next s)
    ∧ (0x7_F000 ≤ off → off < 0x8_0000 →
      (dword → exec (.stD b a i) s = .next (s.trapTo 0x07 (BitVec.ofNat 64 (padWindow + off))))
      ∧ (part → exec (.stBHW a b w) s = .next (s.trapTo 0x07 (h.rd a))
        ∧ (h.wbuf = [] → exec (.stRel a b sc w) s = .next (s.trapTo 0x07 (h.rd a)))))
    ∧ (∀ n, n ≤ 8 → ∃ k, (stored n).curHart = some k
      ∧ (h.scratch.wf = true → ∀ x, k.scratch.read1 x =
          if off ≤ x ∧ x < off + n then BitVec.ofNat 8 ((h.rd b).toNat / 256 ^ (x - off)) else h.scratch.read1 x)
      ∧ k = { h with scratch := k.scratch, scratchPoison := k.scratchPoison, pc := h.pc + 4 }
      ∧ (∀ x, (stored n).mem.read1 x = s.mem.read1 x))

/-- The new value of an atomic on w bits with old value o, register operand v and expected value e, by its rule (R280); none where a
compare-and-swap does not write. -/
def atomicRule (w o v e : Nat) : List (Option Nat) :=
  [some v, some ((o + v) % 2 ^ w), some (o &&& v), some (o ||| v), some (o ^^^ v),
   some (if (BitVec.ofNat w v).toInt < (BitVec.ofNat w o).toInt then v else o),
   some (if (BitVec.ofNat w o).toInt < (BitVec.ofNat w v).toInt then v else o),
   some (if v < o then v else o), some (if o < v then v else o), if o = e then some v else none]

/-- The atomics, in the order of `atomicRule`. -/
def atomicWords (d a b sc w o : Nat) : List Instr :=
  [.amoswap d a b sc w o, .amoadd d a b sc w o, .amoand d a b sc w o, .amoor d a b sc w o, .amoxor d a b sc w o,
   .amomin d a b sc w o, .amomax d a b sc w o, .amominu d a b sc w o, .amomaxu d a b sc w o, .cas d a b sc w o]

/-- Atomics on the scratchpad, without poison, once the earlier stores of the stream are performed (R202): s[d] takes the old value, sign-extended, and exactly the bytes of the access take the new
one; a compare-and-swap whose expected value, s[d], differs writes nothing (R280). -/
def Obligations.ScratchpadAtomics : Prop :=
  ∀ (s : State) (h : Hart) (d a b sc w o off k : Nat) (i : Instr) (new : Option Nat), s.curHart = some h → h.usable a = true →
    h.usable b = true → h.usable d = true → (w = 2 ∨ w = 3) → (h.rd a).toNat = padWindow + off → off % 2 ^ w = 0 →
    off + 2 ^ w ≤ 0x7_F000 → h.acqFree = true → h.clear (padWindow + off) (2 ^ w) true → h.wbuf = [] → (∀ j, j < 2 ^ w → h.scratchPoison.contains ((off + j) / 16) = false) →
    let bits := 8 * 2 ^ w
    let old := leVal ((List.range (2 ^ w)).map (fun j => h.scratch.read1 (off + j)))
    (atomicWords d a b sc w o)[k]? = some i →
    (atomicRule bits old ((h.rd b).toNat % 2 ^ bits) ((h.rd d).toNat % 2 ^ bits))[k]? = some new →
    exec i s = .next (s.modHart s.cur (fun x =>
      ((match new with
        | some n => x.padWrite off (leBytes (2 ^ w) n) (List.replicate (2 ^ w) false)
        | none => x).wr d ((BitVec.ofNat bits old).signExtend 64)).advance))

/-- An access whose address is no multiple of its width is the misaligned trap, and one whose address is not canonical, 57 bits wide, the access
fault, with TVAL the address: loads, stores and atomics, acquires and releases among them (R79, R220, R278 to R280). -/
def Obligations.AddressTraps : Prop :=
  ∀ (s : State) (h : Hart) (d a b i w sc o : Nat), s.curHart = some h → h.usable a = true → h.usable b = true → h.usable d = true →
    let va := h.rd a
    let ve := h.rd a + (BitVec.ofNat 16 i).signExtend 64
    (ve.toNat % 8 ≠ 0 → exec (.ldD d a i) s = .next (s.trapTo 0x06 ve) ∧ exec (.stD b a i) s = .next (s.trapTo 0x06 ve))
    ∧ (va.toNat % 2 ^ w ≠ 0 → exec (.ldBHW d a w) s = .next (s.trapTo 0x06 va) ∧ exec (.ldBuHuWu d a w) s = .next (s.trapTo 0x06 va)
      ∧ exec (.ldAcq d a sc w) s = .next (s.trapTo 0x06 va) ∧ exec (.stBHW a b w) s = .next (s.trapTo 0x06 va)
      ∧ (h.wbuf = [] → exec (.stRel a b sc w) s = .next (s.trapTo 0x06 va))
      ∧ ∀ x ∈ atomicWords d a b sc w o, exec x s = .next (s.trapTo 0x06 va))
    ∧ (ve.toNat % 8 = 0 → 2 ^ 57 ≤ ve.toNat → exec (.ldD d a i) s = .next (s.trapTo 0x07 ve) ∧ exec (.stD b a i) s = .next (s.trapTo 0x07 ve))
    ∧ (va.toNat % 2 ^ w = 0 → 2 ^ 57 ≤ va.toNat → exec (.ldBHW d a w) s = .next (s.trapTo 0x07 va)
      ∧ exec (.ldBuHuWu d a w) s = .next (s.trapTo 0x07 va) ∧ exec (.stBHW a b w) s = .next (s.trapTo 0x07 va)
      ∧ exec (.ldAcq d a sc w) s = .next (s.trapTo 0x07 va) ∧ (h.wbuf = [] → exec (.stRel a b sc w) s = .next (s.trapTo 0x07 va))
      ∧ ∀ x ∈ atomicWords d a b sc w o, exec x s = .next (s.trapTo 0x07 va))

/-- Scalar loads from device memory: s[d] takes the bytes that memory holds at the translated address, with the hart's own pending
stores over them, sign- or zero-extended, with their poison; the request has been paid for, counted and numbered, and every byte of
memory reads as before (R76, R101, R148, R202, R279). That stores wait in a write buffer, over which a load reads, and that a load is performed as it
issues, is the model's choice (log 4, DESIGN CHOICE, unsafe). -/
def Obligations.MemoryLoads : Prop :=
  ∀ (s s1 : State) (h : Hart) (d a i w sc n va pa : Nat) (x : Xl), s.curHart = some h → h.usable a = true → h.owed d = false → w ≤ 3 → h.acqFree = true →
    (n = 8 ∨ n = 2 ^ w) → (s.retry s.cur 0).direct h va n pa false [0, 1, 2, 3] x →
    (s.retry s.cur 0).paid h pa (popcount 4 (granules va n)) s1 → s.noHeat →
    let r := h.wbuf.foldl (overlay pa) (s.homeBytes pa n)
    let t := ((s1.llcTouch (pa / 64) (granules va n)).counted h x (popcount 4 (granules va n))).settle s.cur 0
    (∀ y, t.mem.read1 y = s.mem.read1 y)
    ∧ (n = 8 → (h.rd a + (BitVec.ofNat 16 i).signExtend 64).toNat = va →
      exec (.ldD d a i) s = .next (t.result d (BitVec.ofNat 64 (leVal r.1)) (r.2.any id)))
    ∧ (n = 2 ^ w → (h.rd a).toNat = va →
      exec (.ldBHW d a w) s = .next (t.result d ((BitVec.ofNat (8 * n) (leVal r.1)).signExtend 64) (r.2.any id))
      ∧ exec (.ldBuHuWu d a w) s = .next (t.result d (BitVec.ofNat 64 (leVal r.1)) (r.2.any id))
      ∧ exec (.ldAcq d a sc w) s = .next (t.result d ((BitVec.ofNat (8 * n) (leVal r.1)).signExtend 64) (r.2.any id)))

/-- Scalar stores to device memory enter the hart's write buffer with the translated address and their bytes, and memory reads as
before; a release, with the buffer empty, is performed at once: exactly its bytes of memory change (R76, R202, R208, R279). The write buffer, and that
memory reads as before until a store commits for every scope at once, is the model's choice (log 4, DESIGN CHOICE, unsafe). -/
def Obligations.MemoryStores : Prop :=
  ∀ (s s1 : State) (h : Hart) (a b i w sc n va pa : Nat) (x : Xl), s.curHart = some h → h.usable a = true → h.owed b = false → w ≤ 3 → h.acqFree = true →
    (n = 8 ∨ n = 2 ^ w) → (s.retry s.cur 0).direct h va n pa true [0, 1, 2, 3] x → s.noHeat → s.mem.wf = true →
    let u := s.retry s.cur 0
    let bs := leBytes n (h.rd b).toNat
    let ps := List.replicate n (h.rdP b)
    let buffered := ((({ u with reqCtr := u.reqCtr + 1 } : State).modHart s.cur (fun k => { k with wbuf := k.wbuf ++ [
      { pa := pa, bytes := bs, poison := h.rdP b, fn := h.fn, die := dieOf h.core, served := false, since := s.reqCtr, gang := h.gang }] })).settle
        s.cur 0).skip
    let released := (((s1.commitWrite pa bs ps).counted h x (sectorCount pa n)).settle s.cur 0).skip
    (∀ y, buffered.mem.read1 y = s.mem.read1 y)
    ∧ (n = 8 → (h.rd a + (BitVec.ofNat 16 i).signExtend 64).toNat = va → exec (.stD b a i) s = .next buffered)
    ∧ (n = 2 ^ w → (h.rd a).toNat = va → exec (.stBHW a b w) s = .next buffered)
    ∧ (n = 2 ^ w → (h.rd a).toNat = va → h.wbuf = [] → s.snoop = [] → u.paid h pa (sectorCount pa n) s1 → s.unretired pa n →
      exec (.stRel a b sc w) s = .next released
      ∧ ∀ y, released.mem.read1 y = if pa ≤ y ∧ y < pa + n then BitVec.ofNat 8 ((h.rd b).toNat / 256 ^ (y - pa)) else s.mem.read1 y)

/-- A write that commits at its homes changes exactly its bytes, of memory in its canonical form; those of a retired row's line it discards, and they stay
as they were (R27, R40). -/
def Obligations.WriteCommits : Prop :=
  ∀ (s : State) (a : Nat) (bs : List Byte) (ps : List Bool) (alloc : Bool), s.mem.wf = true → ps.length = bs.length →
    let t := s.commitWrite a bs ps alloc
    t.mem.wf = true
    ∧ (∀ x, s.retiredLine (x / 64) = true → t.mem.read1 x = s.mem.read1 x)
    ∧ (∀ x, s.retiredLine (x / 64) = false → t.mem.read1 x = if a ≤ x ∧ x < a + bs.length then bs.getD (x - a) 0 else s.mem.read1 x)
    ∧ t.harts = s.harts ∧ t.fns = s.fns ∧ t.dev = s.dev ∧ t.gangs = s.gangs

/-- Atomics on device memory, without poison: performed once at the home, with the write buffer empty; s[d] takes the old value,
sign-extended, and exactly the bytes of the access take the new one (R76, R148, R280). That an atomic of any scope is performed for every scope at
once, at the home, is the model's choice (log 4, DESIGN CHOICE, unsafe). -/
def Obligations.MemoryAtomics : Prop :=
  ∀ (s s1 : State) (h : Hart) (d a b sc w o pa k : Nat) (x : Xl) (i : Instr) (new : Option Nat), s.curHart = some h → h.usable a = true →
    h.usable b = true → h.usable d = true → (w = 2 ∨ w = 3) →
    (s.retry s.cur 0).direct h (h.rd a).toNat (2 ^ w) pa true [0, 2] x → (s.retry s.cur 0).paid h pa 1 s1 → s.noHeat → h.wbuf = [] → h.acqFree = true → s.snoop = [] →
    s.mem.wf = true → s.unretired pa (2 ^ w) → (s.homeBytes pa (2 ^ w)).2.any id = false →
    let bits := 8 * 2 ^ w
    let old := leVal (s.homeBytes pa (2 ^ w)).1
    let s2 := s1.touchRead pa (2 ^ w) true
    (atomicWords d a b sc w o)[k]? = some i →
    (atomicRule bits old ((h.rd b).toNat % 2 ^ bits) ((h.rd d).toNat % 2 ^ bits))[k]? = some new →
    let t := ((match new with
      | some n => s2.commitWrite pa (leBytes (2 ^ w) n) (List.replicate (2 ^ w) false)
      | none => s2).counted h x (sectorCount pa (2 ^ w))).settle s.cur 0
    exec i s = .next (t.result d ((BitVec.ofNat bits old).signExtend 64))
    ∧ ∀ y, t.mem.read1 y = match new with
      | some n => if pa ≤ y ∧ y < pa + 2 ^ w then BitVec.ofNat 8 (n / 256 ^ (y - pa)) else s.mem.read1 y
      | none => s.mem.read1 y

/-! Control registers, traps, privilege, system words (R156, R170, R172, R215 to R221, R269, R270, R281, R282, R381 to R389). -/

/-- A read of a control register gives its value, and a write stores what its rule makes of the value written: the source, the old value
with the bits of the source set, or with them cleared; CSRRW also writes the old value to s[d] (R170, R281). With the vector queue empty
nothing has to be waited for (R282). Registers that a write of ones clears are cleared only by a source that is not 0. -/
def Obligations.CsrAccess : Prop :=
  ∀ (s : State) (h : Hart) (d a n : Nat), s.curHart = some h → h.usable a = true → h.owed d = false → h.queue = [] →
    csrListed n = true → (h.level ≠ 0 ∨ n < 0x100) →
    let old := (h.csr n).getD 0
    let x := h.rd a
    let clash (v : Word) : Prop := n = 0x00C ∧ (h.hcrOf v).getLsbD 2 = true ∧ (h.hcrOf v).getLsbD 0 = true
    let stored (v : Word) : State := s.modHart s.cur (fun k => (k.csrWrite n v).advance)
    exec (.csrr d n) s = .next (s.result d old)
    ∧ (csrReadOnly n = false → csrW1c n = false →
      (¬ clash x → exec (.csrw a n) s = .next (stored x)
        ∧ exec (.csrrw d a n) s = .next (s.modHart s.cur (fun k => ((k.csrWrite n x).wr d old).advance)))
      ∧ (¬ clash (old ||| x) → exec (.csrs a n) s = .next (stored (old ||| x)))
      ∧ (¬ clash (old &&& ~~~x) → exec (.csrc a n) s = .next (stored (old &&& ~~~x))))
    ∧ (csrW1c n = true → x ≠ 0 → exec (.csrw a n) s = .next (stored x) ∧ exec (.csrs a n) s = .next (stored x)
      ∧ exec (.csrc a n) s = .next s.skip
      ∧ exec (.csrrw d a n) s = .next (s.modHart s.cur (fun k => ((k.csrWrite n x).wr d old).advance)))

/-- What each control register holds and what a write of v stores in it, with every other field of the hart kept (R170, R172, R194, R215, R216). -/
def Obligations.CsrFields : Prop :=
  ∀ (h : Hart) (v : Word),
    [0x000, 0x001, 0x002, 0x003, 0x004, 0x007, 0x008, 0x009, 0x00A, 0x00B, 0x00C, 0x00F, 0x010, 0x011, 0x012].map h.csr
      = [some (h.home.vl.setWidth 64), some (h.vlmax.setWidth 64), some (h.vtype.setWidth 64), some (h.vmt.setWidth 64),
         some (BitVec.ofNat 64 (h.rows.filter (fun r => r.cluster.isSome)).length), some (h.vloopn.setWidth 64), some (h.vxsat.setWidth 64),
         some (h.vxrm.setWidth 64), some (h.frm.setWidth 64), some (h.fflags.setWidth 64), some (h.hcr.setWidth 64), some (h.apxq.setWidth 64),
         some (h.apxchk.setWidth 64), some (h.slip.setWidth 64), some (h.shufcnt.setWidth 64)]
    ∧ [0x005, 0x006, 0x00D, 0x00E].map h.csr
      = [some (h.home.vstart.setWidth 64), some (h.home.strip.setWidth 64), some (h.home.vdead.setWidth 64), some (h.home.mtrow.setWidth 64)]
    ∧ [0x100, 0x101, 0x102, 0x103, 0x104, 0x105, 0x106].map h.csr
      = [some h.tcause, some h.tval, some h.tpc, some h.tstatus, some h.tvec, some h.tprog, some h.tscratch]
    ∧ h.csrWrite 0x003 v = { h with vmt := v.setWidth 2 }
    ∧ h.csrWrite 0x005 v = { h with rows := h.rows.map (fun (r : Row) => { r with
        vstart := if h.vlmax.toNat ≤ v.toNat % 2048 then h.vlmax - 1 else v.setWidth 11 }) }
    ∧ h.csrWrite 0x008 v = { h with vxsat := v.setWidth 1 }
    ∧ h.csrWrite 0x009 v = { h with vxrm := v.setWidth 2 }
    ∧ h.csrWrite 0x00A v = { h with frm := if v.toNat % 8 < 5 then v.setWidth 3 else 0 }
    ∧ h.csrWrite 0x00B v = { h with fflags := v.setWidth 5 }
    ∧ (h.level = 0 → h.csrWrite 0x00C v = { h with hcr := (v.setWidth 5 &&& 0x16) ||| (h.hcr &&& 0x09) })
    ∧ (h.level ≠ 0 → h.csrWrite 0x00C v = { h with hcr := v.setWidth 5 })
    ∧ h.csrWrite 0x00E v = { h with rows := h.rows.map (fun (r : Row) => { r with mtrow := if v.toNat % 512 ≤ 256 then v.setWidth 9 else 256 }) }
    ∧ h.csrWrite 0x00F v = { h with
        apxq := (if v.toNat % 8 = 7 then 6 else v.setWidth 32 &&& 7) ||| (v.setWidth 32 &&& 0xFFFF_00F0), apxRow := 0 }
    ∧ h.csrWrite 0x010 v = { h with apxchk := 0 } ∧ h.csrWrite 0x011 v = { h with slip := 0 } ∧ h.csrWrite 0x012 v = { h with shufcnt := 0 }
    ∧ h.csrWrite 0x100 v = { h with tcause := v &&& 0x3F_F3FF }
    ∧ h.csrWrite 0x101 v = { h with tval := v }
    ∧ h.csrWrite 0x102 v = { h with tpc := v &&& ~~~(3 : Word) }
    ∧ h.csrWrite 0x103 v = { h with tstatus := (v &&& 0xC) ||| (if v &&& 3 = 3 then 0 else v &&& 3) }
    ∧ h.csrWrite 0x104 v = { h with tvec := v &&& 0x01FF_FFFF_FFFF_FFFD }
    ∧ h.csrWrite 0x105 v = { h with tprog := v } ∧ h.csrWrite 0x106 v = { h with tscratch := v }

/-- A control-register word is the illegal-instruction trap for a number that is not listed and for a write of a read-only register, and
the privilege trap for a register at 0x100 or above at user level; TVAL is the word (R220, R269, R270, R281). -/
def Obligations.CsrTraps : Prop :=
  ∀ (s : State) (h : Hart) (d a n w : Nat) (i : Instr), s.curHart = some h → encode i = some w →
    ((i = .csrr d n ∧ csrListed n = false) ∨ ((i = .csrw a n ∨ i = .csrs a n ∨ i = .csrc a n ∨ i = .csrrw d a n) ∧ csrWritable n = false) →
      exec i s = .next (s.trapTo 0x01 (BitVec.ofNat 64 w)))
    ∧ ((i = .csrr d n ∧ csrListed n = true) ∨ ((i = .csrw a n ∨ i = .csrs a n ∨ i = .csrc a n ∨ i = .csrrw d a n) ∧ csrWritable n = true) →
      h.level = 0 → 0x100 ≤ n → exec i s = .next (s.trapTo 0x02 (BitVec.ofNat 64 w)))
    ∧ (i = .csrw a 0x00C → h.usable a = true → (h.hcrOf (h.rd a)).getLsbD 2 = true → (h.hcrOf (h.rd a)).getLsbD 0 = true →
      exec i s = .next (s.trapTo 0x04 (BitVec.ofNat 64 w)))

/-- A trap that finds no handler, a handler already active, or whose code is a context error stops the gang: status 2 with the trap's
TCAUSE, unless an earlier stop ranks as high, and every hart of the gang ends (R69, R150, R218). Memory stays where no push is on its
way to a saved hart, whose image would take it (R227). A cause of an older entry or a lower row would go first (R221). That a hart that has
halted stops too, with what it left queued, is the model's choice (log 58, DEDUCED, unsafe). -/
def Obligations.TrapStopsGang : Prop :=
  ∀ (s : State) (h : Hart) (i : TrapInfo), s.curHart = some h → h.noHandler i.code = true → h.late = [] → h.stuckBefore i = false →
    let t := s.takeTrap i
    (∀ g, s.gang? h.gang = some g → ∃ g', t.gang? h.gang = some g' ∧
      g'.stop = (match g.stop with
        | some (o, c) => if o = 6 ∨ o = 2 then some (o, c) else some (2, i.tcause)
        | none => some (2, i.tcause)))
    ∧ (∀ x ∈ t.harts, x.gang = h.gang → x.stopped = true)
    ∧ ((∀ p ∈ s.pushes, ∀ x, s.hart? p.hart = some x → x.saved = false) → ∀ a, t.mem.read1 a = s.mem.read1 a)

/-- A trap whose hart has a handler and whose context is saved enters it: TCAUSE, TVAL and TPC take the trap's cause, value and the pc, and
TPROG the address of a trapping vector instruction; TSTATUS takes the old level, ACTIVE and IMAGE; user level becomes the handler level of
the function and a higher level stays; the queue and every row's progress are emptied and VSTART is 0; the pc is the handler's address
(R215 to R217). Every register that the trap does not name keeps its value. The other rows stand where they may stop (R227), no older entry or
lower row has a cause of its own, and no cause of a committed entry is left (R221). That a hart that had halted goes on in the handler (log 58,
DEDUCED), that a trap waits for the rows (log 77, DEDUCED, unsafe), and what becomes of a GBAR, an Agate command or a tree contribution that the
hart waited at (logs 46, 72) are the model's choice. -/
def Obligations.TrapEntersHandler : Prop :=
  ∀ (s s1 : State) (h : Hart) (i : TrapInfo), s.curHart = some h → h.noHandler i.code = false → h.late = [] → h.stuckBefore i = false →
    s.mayStop h (if i.vec && !i.committed then some i.row else none) i.vec = true → saveRegisterContext s = .ok none s1 →
    (∃ k, s1.curHart = some k ∧ k = { h with img := k.img })
    ∧ s.takeTrap i = (s1.modHart s1.cur (fun k => { k with
        tcause := BitVec.ofNat 64 (i.code + (if i.vec then 256 else 0) + (if i.mid then 512 else 0) + i.sub * 4096 + i.row * 65536)
        tval := i.val
        tpc := k.pc
        tprog := if i.vec then i.vpc else 0
        tstatus := BitVec.ofNat 64 (k.level + 12)
        level := if k.level = 0 then (if k.fn = 0 then 2 else 1) else k.level
        queue := []
        qbase := 0
        rows := k.rows.map (fun (r : Row) => { r with
          vstart := 0, qdone := 0, prog := none, run := none, park := none, stuck := false, fetchWait := none })
        park := none
        fetchWait := none
        attempts := 0
        halted := false
        late := []
        fredAt := none
        psyncAt := none
        agateAt := none
        pfreeAt := none
        gbarWait := false
        gbarAt := if k.gbarWait then some k.pc else none
        pc := BitVec.ofNat 64 (k.tvec.toNat / 4 % 2 ^ 55 * 4) })).settleHart s1.cur

/-- ERET returns from a handler that is active: the pc is TPC, the level the one TSTATUS kept, or the one that the handler wrote into the
image (R232; which of the two: log 46, DEDUCED, unsafe, the model's choice), ACTIVE is cleared; with IMAGE the context is read back and checked first,
without it the registers stay; a GBAR that the trap interrupted waits on where the return goes to it (log 58, the model's choice). It traps without an active handler, at user level, and as a context error when it would raise the level (R219, R388); of
two causes the lowest code is reported (R269). -/
def Obligations.EretReturns : Prop :=
  ∀ (s : State) (h : Hart) (w : Nat), s.curHart = some h → encode .eret = some w →
    let active := h.tstatus.getLsbD 2
    let image := h.tstatus.getLsbD 3
    let plev := h.tstatus.toNat % 4
    let pc := h.tpc &&& ~~~(3 : Word)
    (h.level ≠ 0 → active = true → h.queue = [] → plev ≤ h.level → image = false →
      exec .eret s = .next (s.modHart s.cur (fun k => { k with
        pc := pc, level := plev, tstatus := k.tstatus &&& ~~~(4 : Word), gbarWait := k.gbarAt == some pc, gbarAt := none })))
    ∧ (∀ img level s1, h.level ≠ 0 → active = true → h.queue = [] → plev ≤ h.level → image = true → h.img = some img →
      restoreContext img h.level s = .ok (.ok level) s1 →
      exec .eret s = .next (s1.modHart s1.cur (fun k => { k with
        pc := pc, level := if level = img.level then plev else level, tstatus := k.tstatus &&& ~~~(12 : Word)
        gbarWait := k.gbarAt == some pc, gbarAt := none, img := some { img with toks := k.tokenWords } })))
    ∧ (∀ img x s1, h.level ≠ 0 → active = true → h.queue = [] → plev ≤ h.level → image = true → h.img = some img →
      restoreContext img h.level s = .ok (.error x) s1 → exec .eret s = .next (s.trapFrom s1 0x13 (BitVec.ofNat 64 x)))
    ∧ (h.level = 0 → active = true → exec .eret s = .next (s.trapTo 0x02 (BitVec.ofNat 64 w)))
    ∧ (active = false → exec .eret s = .next (s.trapTo 0x01 (BitVec.ofNat 64 w)))
    ∧ (h.level ≠ 0 → active = true → h.queue = [] → h.level < plev → exec .eret s = .next (s.trapTo 0x13 0))

/-- The words of a level above the hart's own are the privilege trap, with TVAL the word, and nothing else happens (R270). ERET without an
active handler has a cause of a lower code, which goes first (R269). -/
def Obligations.PrivilegeTraps : Prop :=
  ∀ (s : State) (h : Hart) (i : Instr) (w d a b c : Nat), s.curHart = some h → encode i = some w →
    ((i ∈ [.eret, .glaunch d a, .hstop, .freplay a, .fconv a, .kvcow b c] → h.level = 0 → (i = .eret → h.tstatus.getLsbD 2 = true) → exec i s = .next (s.trapTo 0x02 (BitVec.ofNat 64 w)))
    ∧ (i ∈ [.heatage a b, .kvforkM b c] → h.level < 2 → exec i s = .next (s.trapTo 0x02 (BitVec.ofNat 64 w)))
    ∧ (∀ n, 0x100 ≤ n → ((i = .csrr d n ∧ csrListed n = true)
          ∨ ((i = .csrw a n ∨ i = .csrs a n ∨ i = .csrc a n ∨ i = .csrrw d a n) ∧ csrWritable n = true)) →
        h.level = 0 → exec i s = .next (s.trapTo 0x02 (BitVec.ofNat 64 w))))

/-- HALT, YIELD, TRAP and HSTOP. HALT waits for the queue and for every copy, then the hart has ended at its HALT; with CARRY and vector work still
queued the stream passes it (which HALT then ends the hart is the model's choice: log 58, DEDUCED, unsafe); YIELD makes the hart the most recently issued;
TRAP commits and then takes the software trap with its immediate; HSTOP ends the hart: its queue, copies, subscriptions, contributions and waits are
gone, and memory stays; that it waits until its rows may stop is the model's choice (log 77, DEDUCED, unsafe) (R156, R360, R386, R387, R389). -/
def Obligations.SystemWords : Prop :=
  ∀ (s : State) (h : Hart) (i : Nat), s.curHart = some h →
    (h.queue = [] → (∀ t ∈ h.tokens.toList, t.job = none) →
      exec .halt s = .next (s.modHart s.cur (fun k => { k with halted := true })))
    ∧ (h.carry = true → h.queue ≠ [] → exec .halt s = .next s.skip)
    ∧ (h.carry = false → h.queue ≠ [] → exec .halt s = .next s)
    ∧ exec .yield s = .next ({ s.modHart s.cur (fun k => { k with stamp := s.issueCtr + 1 }) with issueCtr := s.issueCtr + 1 }.skip)
    ∧ exec (.trap i) s = .next (s.trapFrom s.skip 0x10 (BitVec.ofNat 64 i))
    ∧ (h.level ≠ 0 → s.mayStop h none false = true → exec .hstop s = .next (s.stopHart s.cur) ∧ ∃ k, (s.stopHart s.cur).curHart = some k ∧ k.stopped = true ∧ k.queue = []
      ∧ (∀ t ∈ k.tokens.toList, t.job = none) ∧ k.park = none ∧ k.gbarWait = false ∧ k.freds = [] ∧ k.pc = h.pc ∧ (∀ n, k.rd n = h.rd n)
      ∧ (∀ u ∈ (s.stopHart s.cur).subs, u.hart ≠ s.cur) ∧ (h.saved = false → ∀ a, (s.stopHart s.cur).mem.read1 a = s.mem.read1 a))

/-- Fences and barriers. A fence whose earlier accesses are performed goes on at once, those that order vector work by an entry in the queue;
one that finds a scalar store pending waits and changes nothing. GBAR counts the arrival, and the hart passes when every other hart of its
gang has arrived or ended (R156, R202, R206, R208, R381, R382). That loads are performed as they issue, so that an acquire has nothing to wait for,
and that every scope is performed at once, is the model's choice (log 4, DESIGN CHOICE, unsafe). -/
def Obligations.FencesAndBarriers : Prop :=
  ∀ (s : State) (h : Hart) (sc : Nat), s.curHart = some h → h.queue.length < 64 →
    let entry (i : Instr) : State := s.queued h { op := h.captured i }
    exec (.fenceAcq sc) s = .next s.skip
    ∧ exec (.fenceRow sc) s = .next (entry (.fenceRow sc))
    ∧ exec (.vbar sc) s = .next (entry (.vbar sc))
    ∧ (h.wbuf = [] → exec (.fenceRel sc) s = .next s.skip ∧ exec (.fenceSv sc) s = .next (entry (.fenceSv sc)))
    ∧ (h.performed = true → exec (.fenceVs sc) s = .next (entry (.fenceVs sc)))
    ∧ (h.wbuf = [] → h.performed = true → exec (.fenceSvb sc) s = .next (entry (.fenceSvb sc)))
    ∧ (h.wbuf = [] → h.performed = true → h.hasRoom 3 → exec (.stepinv sc) s = .next ((s.stepInv h.fn).queued h { op := h.captured (.stepinv sc) }))
    ∧ (h.wbuf ≠ [] → exec (.fenceRel sc) s = .next s ∧ exec (.fenceSv sc) s = .next s ∧ exec (.fenceSvb sc) s = .next s)
    ∧ (h.gbarWait = true → exec (.gbar sc) s = .next (if s.allArrived h
        then s.modHart s.cur (fun k => { k with gbarWait := false, pc := k.pc + 4 }) else s))
    ∧ (h.gbarWait = false → h.carry = false → h.wbuf = [] → h.performed = true →
      let t := (s.placed h { op := h.captured (.gbar sc) }).modHart s.cur (fun k => { k with gbarCount := k.gbarCount + 1, gbarWait := true })
      ∀ k, t.curHart = some k → exec (.gbar sc) s = .next (if t.allArrived k
        then t.modHart t.cur (fun k => { k with gbarWait := false, pc := k.pc + 4 }) else t))

/-- FREPLAY and FCONV on an open fault of the function free its entry; the requests parked under it go back to translation, or are marked
converted (no marking of a pool page being due, which would be tried again with them, R136); FRSTAT records the fault. On a fault that is not open FRSTAT alone changes: it is stale and counted (R93, R96, R384). -/
def Obligations.FaultCommands : Prop :=
  ∀ (s : State) (h : Hart) (a : Nat), s.curHart = some h → h.level ≠ 0 → h.usable a = true → (h.rd a).toNat < 1024 → h.wbuf = [] →
    let fid := (h.rd a).toNat
    let isOpen := ∃ o ∈ s.faults, o.fid = fid ∧ o.fn = h.fn
    let done (s : State) (stale : Bool) : State :=
      (s.modFn h.fn (fun g => { g with frstat := BitVec.ofNat 64 (fid + (if stale then 65536 else 0)
        + (if stale then min 65535 (g.frstat.toNat / 2 ^ 32 % 2 ^ 16 + 1) else g.frstat.toNat / 2 ^ 32 % 2 ^ 16) * 2 ^ 32) })).skip
    (isOpen → exec (.freplay a) s = .next (done (s.freeFault fid false) false) ∧ exec (.fconv a) s = .next (done (s.freeFault fid true) false))
    ∧ (¬ isOpen → exec (.freplay a) s = .next (done s true) ∧ exec (.fconv a) s = .next (done s true))
    ∧ (∀ conv, s.kvMarks = [] → (∀ o ∈ (s.freeFault fid conv).faults, o.fid ≠ fid)
      ∧ ∀ n x p, s.hart? n = some x → x.park = some p → p.fid = fid → p.conv = false →
        ∃ y, (s.freeFault fid conv).hart? n = some y ∧ y.park = if conv then some { p with conv := true } else none)

/-- GLAUNCH submits the record at the address in s[a], decoded where a surface holds it (R33), and writes its admission to s[d]; without a live
window of a virtual function the answer is 8; a record in the register window is the access fault (R63). HEATAGE sends out the halvings of its
frames in order, once, and goes on when every one has been performed; one whose line the host holds waits (R103, R383, R385). -/
def Obligations.LaunchAndHeat : Prop :=
  ∀ (s : State) (h : Hart) (d a b : Nat), s.curHart = some h → h.usable a = true →
    (h.level ≠ 0 → h.owed d = false → (h.rd a).toNat % 64 < 2 → h.wbuf = [] → regWindow ≤ (h.rd a).toNat → (h.rd a).toNat < 2 ^ 57 →
      exec (.glaunch d a) s = .next (s.trapTo 0x07 (BitVec.ofNat 64 ((h.rd a).toNat / 64 * 64))))
    ∧ (∀ r s1, h.level ≠ 0 → h.owed d = false → (h.rd a).toNat < regWindow → (h.rd a).toNat % 64 < 2 → h.wbuf = [] →
      readAny (s.accOf h 0) ((h.rd a).toNat / 64 * 64) 64 [0, 1, 2, 3] (s.retry s.cur 0) = .ok r s1 → r.2.any id = false →
      let rec512 := BitVec.ofNat 512 (leVal r.1)
      (h.fn ≠ 0 → s1.windowLive h.fn = false → exec (.glaunch d a) s = .next ((s1.result d 8).settle s1.cur 0))
      ∧ (∀ y s2 k, (h.fn = 0 ∨ s1.windowLive h.fn = true) →
        submit h.fn none (BitVec.ofNat 64 ((h.rd a).toNat / 64 * 64)) rec512 (if (h.rd a).toNat % 2 = 1 then h.level else 0) s1 = .ok y s2 →
        s2.curHart = some k → k.owed d = false →
        exec (.glaunch d a) s = .next ((s2.result d (BitVec.ofNat 64 (y.1 + y.2 * 256))).settle s2.cur 0)))
    ∧ (h.level = 2 → h.usable b = true → (h.rd a).toNat < 2 ^ 35 →
      let first := (h.rd a).toNat
      let count := min (first + (h.rd b).toNat) 200441856 - first
      let busy (t : State) : Prop := ∃ f, first ≤ f ∧ f < first + count ∧ HomeOp.heat f true ∈ t.homeWait
      (h.pc ∉ h.ageAt → let t := s.ageFrames first count
        (¬ busy t → exec (.heatage a b) s = .next t.skip)
        ∧ (busy t → exec (.heatage a b) s = .next (t.modHart t.cur (fun k => { k with ageAt := k.pc :: k.ageAt }))))
      ∧ (h.pc ∈ h.ageAt → (busy s → exec (.heatage a b) s = .next s)
        ∧ (¬ busy s → exec (.heatage a b) s = .next (s.modHart s.cur (fun k => { k with ageAt := k.ageAt.erase k.pc, pc := k.pc + 4 })))))

/-! Vector configuration and the vector queue (R12, R157 to R163, R283 to R293). -/

/-- VSETL, VSETTL, VSETMT, VDEAD, VLOOP, VNEXT, ICPF, CWAIT. VSETL grants n, at most what the tile holds, and places its configuration
entry; VSETTL changes the grant, and rows that it adds take part from the next VSETL or VLOOP on; VLOOP places its checked body as one entry and goes on after its VNEXT; a VNEXT on its own is the
illegal-instruction trap; ICPF asks for a line that is absent, and its hint is kept until the line has come or the fill fails (log 9, DESIGN CHOICE, unsafe:
the model's choice where the queue is full); CWAIT waits for the copies of its tokens (R12, R162, R283 to R289). -/
def Obligations.VectorControl : Prop :=
  ∀ (s : State) (h : Hart) (d a v i : Nat), s.curHart = some h → h.queue.length < 64 →
    let x := (h.rd a).toNat
    let place (k : Hart) (e : Entry) : Hart := k.placed s.dev.devtime.toNat (h.qbase + h.queue.length) e
    (v % 8 < 4 → v / 8 < 4 → h.owed d = false → h.usable a = true →
      let vlmax := 1024 / (8 * 2 ^ (v % 8)) * 2 ^ (v / 8) * s.lanes / 16
      let n := min x (h.tl * vlmax)
      exec (.vsetl d a v) s = .next (s.modHart s.cur (fun k =>
        (({ place k { op := h.captured (.vsetl d a v), sub := 3, n := n, vlmax := vlmax } with
          vtype := BitVec.ofNat 6 v, vlmax := BitVec.ofNat 11 vlmax, vlSet := BitVec.ofNat 11 (min vlmax n), loopSince := false } : Hart).wr d
            (BitVec.ofNat 64 n)).advance)))
    ∧ (4 ≤ v % 8 ∨ 4 ≤ v / 8 → exec (.vsetl d a v) s = .next (s.trapTo 0x01 (iWord 0x10 d a v)))
    ∧ (∀ g, s.gang? h.gang = some g → h.carry = false → h.owed d = false → h.usable a = true → h.queue = [] →
      let target := min (min (max (if x = 0 then g.tlmax else x) g.tlmin) g.tlmax) (saveRows (s.fn h.fn).savecfg)
      let mine := h.rows.filterMap Row.cluster
      let spot := (s.growGrant g.cls false (target - (h.rows.length - mine.length)) s.occ { core := h.core, slot := h.slot, clusters := mine }).1
      let rows (old : List Row) : List Row := if target < h.tl then dropRows (max 1 target) old 0
        else old ++ (spot.clusters.drop mine.length).map (fun c =>
          { Row.fresh (some c) h.qbase 0xFFFF_FFFF s.dev.devtime.toNat with joined := false })
      let tl := ((rows h.rows).filter (fun r => r.cluster.isSome)).length
      exec (.vsettl d a) s = .next (s.modHart s.cur (fun k => (({ k with rows := rows k.rows } : Hart).wr d (BitVec.ofNat 64 tl)).advance))
      ∧ (target < h.tl → tl = max 1 target))
    ∧ exec (.vsetmt i) s = .next (s.modHart s.cur (fun k => ({ k with vmt := BitVec.ofNat 2 i } : Hart).advance))
    ∧ (h.usable a = true → exec (.vdead a) s = .next (s.queued h { op := h.captured (.vdead a) }))
    ∧ (∀ words body, h.carry = false → h.usable a = true → x < 2 ^ 40 →
      readBody (iWord 0x11 0 a 0) (h.pc + 4).toNat 256 [] s = .ok words s → words.mapM captureWord s = .ok body s →
      exec (.vloop a) s = .next (s.modHart s.cur (fun k =>
        { place k { op := h.captured (.vloop a), n := x, body := body } with
          loopSince := true, pc := k.pc + 4 * (BitVec.ofNat 64 body.length + 2) })))
    ∧ exec .vnext s = .next (s.trapTo 0x01 0x4800_0000)
    ∧ (h.owed a = false →
      let va := (h.rd a + (BitVec.ofNat 16 i).signExtend 64).toNat
      exec (.icpf a i) s = .next (if h.rdP a = false ∧ va < 2 ^ 57 ∧ s.iline h va = none
        then (s.icacheHint h va).skip else s.skip))
    ∧ exec (.cwait i) s = .next (if ∀ k, k < 8 → i / 2 ^ k % 2 = 1 → (h.tokens[k]?).bind Token.job = none then s.skip else s)

/-- The words whose issue only captures their scalar operands and enters the vector queue: vector arithmetic, cross-element, memory and
matrix words. -/
def queueWord : Instr → Bool
  | .vaddI _ _ _ _ _ => true
  | .vsubI _ _ _ _ _ => true
  | .vmulI _ _ _ _ _ => true
  | .vmulhI _ _ _ _ _ => true
  | .vminI _ _ _ _ _ => true
  | .vmaxI _ _ _ _ _ => true
  | .vmaccI _ _ _ _ _ => true
  | .vdivI _ _ _ _ _ => true
  | .vaddIS _ _ _ _ _ => true
  | .vsubIS _ _ _ _ _ => true
  | .vmulIS _ _ _ _ _ => true
  | .vmulhIS _ _ _ _ _ => true
  | .vminIS _ _ _ _ _ => true
  | .vmaxIS _ _ _ _ _ => true
  | .vmaccIS _ _ _ _ _ => true
  | .vdivIS _ _ _ _ _ => true
  | .vaddF _ _ _ _ _ => true
  | .vsubF _ _ _ _ _ => true
  | .vmulF _ _ _ _ _ => true
  | .vdivF _ _ _ _ _ => true
  | .vminF _ _ _ _ _ => true
  | .vmaxF _ _ _ _ _ => true
  | .vfmaF _ _ _ _ _ => true
  | .vsqrtF _ _ _ _ => true
  | .vaddFS _ _ _ _ _ => true
  | .vsubFS _ _ _ _ _ => true
  | .vmulFS _ _ _ _ _ => true
  | .vdivFS _ _ _ _ _ => true
  | .vminFS _ _ _ _ _ => true
  | .vmaxFS _ _ _ _ _ => true
  | .vfmaFS _ _ _ _ _ => true
  | .vand _ _ _ _ => true
  | .vor _ _ _ _ => true
  | .vxor _ _ _ _ => true
  | .vnot _ _ _ => true
  | .vsll _ _ _ _ => true
  | .vsrl _ _ _ _ => true
  | .vsra _ _ _ _ => true
  | .vandS _ _ _ _ => true
  | .vorS _ _ _ _ => true
  | .vxorS _ _ _ _ => true
  | .vsllS _ _ _ _ => true
  | .vsrlS _ _ _ _ => true
  | .vsraS _ _ _ _ => true
  | .vcmpeq _ _ _ _ _ => true
  | .vcmpne _ _ _ _ _ => true
  | .vcmplt _ _ _ _ _ => true
  | .vcmple _ _ _ _ _ => true
  | .vcmpgt _ _ _ _ _ => true
  | .vcmpge _ _ _ _ _ => true
  | .vcmpun _ _ _ _ _ => true
  | .vcmpeqS _ _ _ _ _ => true
  | .vcmpneS _ _ _ _ _ => true
  | .vcmpltS _ _ _ _ _ => true
  | .vcmpleS _ _ _ _ _ => true
  | .vcmpgtS _ _ _ _ _ => true
  | .vcmpgeS _ _ _ _ _ => true
  | .vcmpunS _ _ _ _ _ => true
  | .mand _ _ _ => true
  | .mor _ _ _ => true
  | .mxor _ _ _ => true
  | .mandn _ _ _ => true
  | .mnot _ _ => true
  | .vmerge _ _ _ _ => true
  | .vmv _ _ _ => true
  | .vbcast _ _ _ => true
  | .vcvt _ _ _ _ => true
  | .vclass _ _ _ _ => true
  | .vrecpe _ _ _ _ => true
  | .vexp2e _ _ _ _ => true
  | .vsadd _ _ _ _ _ => true
  | .vssub _ _ _ _ _ => true
  | .vsmul _ _ _ _ _ => true
  | .vsmacc _ _ _ _ _ => true
  | .vssra _ _ _ _ _ => true
  | .vssrl _ _ _ _ _ => true
  | .vnclip _ _ _ _ _ => true
  | .vavg _ _ _ _ _ => true
  | .vsaddS _ _ _ _ _ => true
  | .vssubS _ _ _ _ _ => true
  | .vsmulS _ _ _ _ _ => true
  | .vsmaccS _ _ _ _ _ => true
  | .vssraS _ _ _ _ _ => true
  | .vssrlS _ _ _ _ _ => true
  | .vnclipS _ _ _ _ _ => true
  | .vavgS _ _ _ _ _ => true
  | .vredsumO _ _ _ _ _ => true
  | .vredsumU _ _ _ _ _ => true
  | .vredmin _ _ _ _ _ => true
  | .vredmax _ _ _ _ _ => true
  | .vredand _ _ _ _ _ => true
  | .vredor _ _ _ _ _ => true
  | .vredxor _ _ _ _ _ => true
  | .vscanO _ _ _ _ => true
  | .vscanFast _ _ _ _ => true
  | .viota _ _ _ => true
  | .vid _ _ => true
  | .rnggen _ _ _ _ => true
  | .vcompress _ _ _ => true
  | .vexpand _ _ _ => true
  | .vslideup _ _ _ _ => true
  | .vslidedn _ _ _ _ => true
  | .vslide1up _ _ _ _ => true
  | .vslide1dn _ _ _ _ => true
  | .vperm _ _ _ _ => true
  | .xchg _ _ _ => true
  | .vld _ _ _ _ _ => true
  | .vldu _ _ _ _ _ => true
  | .vldf _ _ _ _ _ => true
  | .vst _ _ _ _ _ => true
  | .vstu _ _ _ _ _ => true
  | .vlds _ _ _ _ _ _ => true
  | .vldsu _ _ _ _ _ _ => true
  | .vldsf _ _ _ _ _ _ => true
  | .vsts _ _ _ _ _ _ => true
  | .vstsu _ _ _ _ _ _ => true
  | .vldx _ _ _ _ _ => true
  | .vldxu _ _ _ _ _ => true
  | .vstx _ _ _ _ _ => true
  | .vstxu _ _ _ _ _ => true
  | .vamoaddI _ _ _ _ _ => true
  | .vamoadduI _ _ _ _ _ => true
  | .vamoaddF _ _ _ _ _ => true
  | .vamoadduF _ _ _ _ _ => true
  | .vamoswap _ _ _ _ _ => true
  | .vamoswapu _ _ _ _ _ => true
  | .vamomin _ _ _ _ _ => true
  | .vamominu _ _ _ _ _ => true
  | .vamomax _ _ _ _ _ => true
  | .vamomaxu _ _ _ _ _ => true
  | .vamoand _ _ _ _ _ => true
  | .vamoandu _ _ _ _ _ => true
  | .vamoor _ _ _ _ _ => true
  | .vamooru _ _ _ _ _ => true
  | .vamoxor _ _ _ _ _ => true
  | .vamoxoru _ _ _ _ _ => true
  | .mrow _ _ _ _ => true
  | .mrowm _ _ _ _ => true
  | .mrowx _ _ _ _ => true
  | .mxrd _ _ _ => true
  | .mxclr _ => true
  | .mtload _ _ _ _ => true
  | .cbload _ => true
  | _ => false

/-- A vector word whose scalar operands no queued word still owes enters the queue with them and with the control state of its issue, and the
stream goes on: nothing else changes (R158, R282, R293). With the queue full it waits and changes nothing. -/
def Obligations.QueueWords : Prop :=
  ∀ (s : State) (h : Hart) (i : Instr), s.curHart = some h → queueWord i = true → h.capturable i = true →
    exec i s = .next (if h.queue.length < 64 then s.queued h { op := h.captured i } else s)

/-- The words that check something before they enter the queue: those that owe a scalar register, those of the engines, which wait for
the hart's earlier accesses and for room in their input FIFO, and those with checked operands. Which earlier accesses a push waits for (log 6, DEDUCED,
safe) and that a sampler word's operands are checked and a draw's record is read at issue (log 54, DEDUCED, unsafe) is the model's choice (R33, R158, R169, R209, R353, R355, R363 to R371, R373, R374, R377 to R379). -/
def Obligations.QueueWordsGuarded : Prop :=
  ∀ (s : State) (h : Hart) (a b c m : Nat), s.curHart = some h → h.queue.length < 64 →
    let goes (i : Instr) : Prop := exec i s = .next (s.queued h { op := h.captured i })
    let stops (i : Instr) (x : Nat) : Prop := exec i s = .next (s.trapTo 0x03 (h.rd x))
    (h.owed a = false → goes (.mpopc a b) ∧ goes (.mfirst a b) ∧ (h.owed c = false → goes (.vext a b c)))
    ∧ (h.wbuf = [] → h.hasRoom 3 → (h.owed b = false → goes (.vrecv a b))
      ∧ (h.owed b = false → h.owed c = false → goes (.fredw a b c) ∧ goes (.fred a b c)) ∧ goes (.vsend a b m))
    ∧ (¬ h.hasRoom 3 → exec (.vsend a b m) s = .next s)
    ∧ (h.wbuf = [] → h.performed = true → h.hasRoom 2 → h.owed a = false → goes (.smax a b))
    ∧ (h.usable c = true → h.owed a = false →
      let x := (h.rd c).toNat
      (1 ≤ x % 2048 → x % 2048 ≤ 1024 → x % 2 ^ 32 < 2048 → h.wbuf = [] → h.performed = true → h.hasRoom 2 → goes (.skth a b c))
      ∧ (x % 2048 = 0 ∨ 1024 < x % 2048 ∨ 2048 ≤ x % 2 ^ 32 → stops (.skth a b c) c)
      ∧ (x % 2 ^ 32 ≤ 2 ^ 31 → h.wbuf = [] → h.performed = true → h.hasRoom 2 → goes (.stopp a b c))
      ∧ (2 ^ 31 < x % 2 ^ 32 → stops (.stopp a b c) c)
      ∧ (x % 8 = 0 → regWindow < x + 64 → x < 2 ^ 57 → exec (.sdraw a b c) s = .next (s.trapTo 0x07 (h.rd c)))
      ∧ (∀ r s1, x % 8 = 0 → x + 64 ≤ regWindow → h.wbuf = [] → h.performed = true → h.hasRoom 2 →
        readAny (s.accOf h 5) x 64 [0] (s.retry s.cur 0) = .ok r s1 →
        r.2.any id = false → leVal r.1 < 2 ^ 321 →
        let entry (i : Instr) : Entry :=
          { op := h.captured i, carry := [{ pos := 0, next := 0, acc := [leVal r.1], poison := false }] }
        ∀ k, s1.curHart = some k → k.qbase = h.qbase → k.queue = h.queue → (∀ i, k.captured i = h.captured i) → k.owed c = false →
          exec (.sdraw a b c) s = .next ((s1.queued k (entry (.sdraw a b c))).settle s1.cur 0)
          ∧ exec (.sdrawHw a b c) s = .next ((s1.queued k (entry (.sdrawHw a b c))).settle s1.cur 0)))
    ∧ (h.usable c = true → h.wbuf = [] → h.performed = true → h.hasRoom 2 →
      let x := (h.rd c).toNat
      0 < x % 2 ^ 31 → x % 2 ^ 31 < 0x7F80_0000 → x / 2 ^ 31 % 2 = 0 → x / 2 ^ 32 % 2 ^ 31 < 0x7F80_0000 → goes (.swgt a b c))
    ∧ (h.usable a = true → h.owed c = false → h.wbuf = [] → h.hasRoom 1 → (h.rd a).toNat < 2 ^ 16 → goes (.papp a b c))
    ∧ (h.usable a = true → 2 ^ 16 ≤ (h.rd a).toNat → stops (.papp a b c) a)
    ∧ (h.usable b = true → h.owed c = false → h.wbuf = [] → h.hasRoom 1 → (h.rd b).toNat < 2 ^ 20 → goes (.pld a b c))
    ∧ (h.usable b = true → 2 ^ 20 ≤ (h.rd b).toNat → stops (.pld a b c) b)
    ∧ (h.usable b = true → h.usable c = true → (h.rd b).toNat < 2 ^ 24 → h.wbuf = [] →
      (((h.outq[1]?).getD []).length < 16 → h.hasRoom 1 → goes (.kvapp a b c))
      ∧ ((h.rd c).toNat / 2 ^ 40 % 256 = 0 → h.hasRoom 1 → goes (.kvld a b c))
      ∧ ((h.rd c).toNat / 2 ^ 40 % 256 ≠ 0 → stops (.kvld a b c) c))
    ∧ (h.usable b = true → 2 ^ 24 ≤ (h.rd b).toNat → stops (.kvapp a b c) b ∧ stops (.kvld a b c) b)
    ∧ (h.usable b = true → h.wbuf = [] → h.hasRoom 1 → (h.rd b).toNat % 64 = 0 → goes (.kvldB a b))
    ∧ (h.usable b = true → (h.rd b).toNat % 64 ≠ 0 → stops (.kvldB a b) b)

/-! Rows (R38, R158 to R166, R174, R182 to R189, R226, R290 to R311). -/

/-- Entries that set a row up. A VSETL's configuration entry gives row r STRIP = r × VLMAX and the elements of n that are its own, with
VSTART 0; VDEAD marks its registers, which hold zero; a word on elements passes where VL = 0; a barrier passes once every row has come to it;
a begun loop deals its next strip to an idle row; a row that VSETTL has added goes past every entry but a VSETL or a VLOOP, from which on it
takes part (R159 to R162, R166, R283, R284, R286, R287, R382). -/
def Obligations.RowEntries : Prop :=
  ∀ (s : State) (n r : Nat) (h : Hart) (row : Row) (e : Entry), s.rowHas n r h row e →
    (h.silent r e 0 → (h.lastAt r = true → e.count = 0) →
      (row.joined = false → e.sub ≠ 3 → e.isLoop = false → exec (.rowDispatch n r) s = .next (s.rowPassed n r id))
      ∧ (row.joined = true → e.sub = 0 → e.isLoop = false → row.vl = 0 → (elemOp r e.op none).isSome = true → h.allAt row.qdone = true →
        exec (.rowDispatch n r) s = .next (s.rowPassed n r id)))
    ∧ (e.sub = 3 → (row.joined = true ∨ h.allAt row.qdone = true) → exec (.rowDispatch n r) s = .next (s.rowPassed n r (fun x => { x with
      strip := BitVec.ofNat 40 (r * e.vlmax), vl := BitVec.ofNat 11 (min e.vlmax (e.n - r * e.vlmax)), vstart := 0, joined := true })))
    ∧ (∀ a, row.joined = true → e.sub = 0 → e.op.i = .vdead a → exec (.rowDispatch n r) s = .next (s.rowPassed n r (fun x => { x with
        vdead := x.vdead ||| e.op.sa.v.setWidth 32
        v := Vector.ofFn (fun k : Fin 32 => if e.op.sa.v.getLsbD k.val then 0 else (x.v[k.val]?).getD 0)
        vpoison := Vector.ofFn (fun k : Fin 32 => if e.op.sa.v.getLsbD k.val then 0 else (x.vpoison[k.val]?).getD 0) })))
    ∧ (∀ sc, row.joined = true → e.sub = 0 → e.op.i = .vbar sc →
      exec (.rowDispatch n r) s = .next (if h.allAt row.qdone then s.rowPassed n r id else s.rowTry n r))
    ∧ (e.sub = 0 → e.isLoop = true → (row.joined = true ∨ h.allAt row.qdone = true) → e.started = true → row.run = none → h.loopOver e = false → h.lowerIdle r row.qdone = false →
      h.orphan = none → h.vloopn ≠ 0 →
      let vlmax := 1024 / (8 * 2 ^ (e.op.vtype.toNat % 8)) * 2 ^ (e.op.vtype.toNat / 8) * s.lanes / 16
      let vl := min h.vloopn.toNat vlmax
      let first := e.n - h.vloopn.toNat
      exec (.vloopStripDeal n r) s = .next (s.modHart n (fun k => { k with
        rows := k.rows.modify r (fun x => { x with
          vl := BitVec.ofNat 11 vl, vstart := 0, strip := BitVec.ofNat 40 first, run := some { first := first, vl := vl, pos := 0 }
          joined := true })
        vloopn := BitVec.ofNat 40 (k.vloopn.toNat - vl)
        vlmax := if k.loopSince ∧ k.vtype = e.op.vtype then BitVec.ofNat 11 vlmax else k.vlmax })))

/-- What committed results leave in a row, in the unscaled form: each element written holds its result with its poison, every other element
of the destination keeps its own, registers that no element reaches keep their value, poison and tag, and a written register takes the
tag of the width and is dead no more. A result goes to its format: an integer wraps into the width or, under saturation, is clamped to the
range with VXSAT raised, and raises no flag; a value is rounded under the rounding mode, with the Opal word of its element under SR, and
one that saturates into an integer format raises VXSAT too; any other write is of the bits (R38, R164, R166, R174, R185 to R187, R291). -/
def Obligations.RowCommit : Prop :=
  ∀ (p : Put) (row : Row) (l : List (Nat × Ex × Bool)), p.g.scaled = false → 1 ≤ p.g.w → p.g.w ≤ 64 → (l.map Prod.fst).Nodup →
    let out := (p.commit row l).1
    let w := p.g.w
    let covers (e i : Nat) : Prop := p.g.base + w * e / 1024 ≤ i ∧ i ≤ p.g.base + (w * e + w - 1) / 1024
    (∀ e, p.g.base * 1024 + w * (e + 1) ≤ 32768 →
      (∀ x ∈ l, x.1 = e → out.elem p.g.base w e = (p.one e x.2.1).1 % 2 ^ w)
      ∧ ((∀ x ∈ l, x.1 ≠ e) → out.elem p.g.base w e = row.elem p.g.base w e)
      ∧ (w % 8 = 0 → (∀ x ∈ l, x.1 = e → out.elemPoison p.g.base w e = x.2.2)
        ∧ ((∀ x ∈ l, x.1 ≠ e) → out.elemPoison p.g.base w e = row.elemPoison p.g.base w e)))
    ∧ (∀ i, i < 32 → (∀ x ∈ l, ¬ covers x.1 i) → out.v[i]? = row.v[i]? ∧ out.vpoison[i]? = row.vpoison[i]? ∧ out.vtag[i]? = row.vtag[i]?
        ∧ out.vdead.getLsbD i = row.vdead.getLsbD i)
    ∧ (∀ i, i < 32 → (∃ x ∈ l, covers x.1 i) → out.vtag[i]? = some (BitVec.ofNat 7 w) ∧ out.vdead.getLsbD i = false)
    ∧ out = { row with v := out.v, vpoison := out.vpoison, vtag := out.vtag, vdead := out.vdead }
    ∧ (∀ e x f sg, fmtOf p.code = some (.int f sg) →
      let hi : Int := if sg then 2 ^ (f - 1) - 1 else 2 ^ f - 1
      let lo : Int := if sg then -(2 ^ (f - 1)) else 0
      let y := if p.sat then max lo (min hi x) else x
      p.one e (.int x) = ((y % 2 ^ f).toNat, 0, p.sat && (decide (x < lo) || decide (hi < x))))
    ∧ (∀ e v, p.one e (.val v) = ((roundFmt p.code p.mode p.sat (if p.mode = 4 then srWord p.pc (p.strip + e) else 0) v).1,
        (roundFmt p.code p.mode p.sat (if p.mode = 4 then srWord p.pc (p.strip + e) else 0) v).2,
        p.sat && fmtInt p.code && (roundFmt p.code p.mode p.sat (if p.mode = 4 then srWord p.pc (p.strip + e) else 0) v).2 == 16 && !v.isNan))
    ∧ (∀ e x, p.one e (.raw x) = (x, 0, false))

/-- The typed integer words in the order of `intRule`: with operand b a vector register, or a scalar register. -/
def intWords (vector : Bool) (d a b f m : Nat) : List Instr :=
  if vector then [.vaddI d a b f m, .vsubI d a b f m, .vmulI d a b f m, .vmulhI d a b f m, .vminI d a b f m, .vmaxI d a b f m,
    .vmaccI d a b f m, .vdivI d a b f m, .vsadd d a b f m, .vssub d a b f m, .vsmul d a b f m, .vsmacc d a b f m, .vssra d a b f m,
    .vssrl d a b f m, .vnclip d a b f m, .vavg d a b f m]
  else [.vaddIS d a b f m, .vsubIS d a b f m, .vmulIS d a b f m, .vmulhIS d a b f m, .vminIS d a b f m, .vmaxIS d a b f m,
    .vmaccIS d a b f m, .vdivIS d a b f m, .vsaddS d a b f m, .vssubS d a b f m, .vsmulS d a b f m, .vsmaccS d a b f m, .vssraS d a b f m,
    .vssrlS d a b f m, .vnclipS d a b f m, .vavgS d a b f m]

/-- Of each typed integer word: does it read vd, does it always saturate, the condition on its formats, and its exact result from the
elements x, y and z of the operands and of vd (R188, R294, R305). -/
def intRule (D : Desc) (rm : Nat) : List (Bool × Bool × Bool × (Int → Int → Int → Ex)) :=
  let w := fmtWidth D.fd
  let sg (c : Nat) : Bool := c % 2 == 0
  let fixed := fmtWidth D.fa == w && fmtWidth D.fb == w && sg D.fa && sg D.fb && sg D.fd
  let round (v : Int) (n : Nat) : Int := fixedRound v n rm
  [(false, false, true, fun x y _ => .int (x + y)),
   (false, false, true, fun x y _ => .int (x - y)),
   (false, false, true, fun x y _ => .int (x * y)),
   (false, false, fmtWidth D.fa == w && fmtWidth D.fb == w, fun x y _ => .raw ((x * y / 2 ^ w) % 2 ^ w).toNat),
   (false, false, true, fun x y _ => .int (min x y)),
   (false, false, true, fun x y _ => .int (max x y)),
   (true, false, true, fun x y z => .int (z + x * y)),
   (false, false, true, fun x y _ => if y = 0 then .raw (2 ^ w - 1) else .int (x.tdiv y)),
   (false, true, true, fun x y _ => .int (x + y)),
   (false, true, true, fun x y _ => .int (x - y)),
   (false, true, fixed, fun x y _ => .int (round (x * y) (w - 1))),
   (true, true, fixed, fun x y z => .int (z + round (x * y) (w - 1))),
   (false, true, sg D.fa && sg D.fd && fmtWidth D.fa == w, fun x y _ => .int (round x (y % w).toNat)),
   (false, true, !sg D.fa && !sg D.fd && fmtWidth D.fa == w, fun x y _ => .int (round x (y % w).toNat)),
   (false, true, fmtWidth D.fa == 2 * w && sg D.fa == sg D.fd, fun x y _ => .int (round x (y % (2 * w : Nat)).toNat)),
   (false, true, D.fa == D.fb && D.fa == D.fd, fun x y _ => .int (round (x + y) 1))]

/-- The typed integer words in a row: the active elements of the destination take the results of their rules, committed in the format of
the destination, no flag is raised, saturation is, and the row goes past its entry with everything else as it was (R290, R291, R294, R305). -/
def Obligations.RowInteger : Prop :=
  ∀ (s : State) (n r : Nat) (h : Hart) (row : Row) (e : Entry) (o : Op) (vector : Bool) (d a b f m k : Nat)
    (readD satAll ok : Bool) (rule : Int → Int → Int → Ex), s.rowAt n r h row e o → row.vl ≠ 0 →
    (intWords vector d a b f m)[k]? = some o.i → (intRule (Desc.of o.sf.v) o.vxrm.toNat)[k]? = some (readD, satAll, ok, rule) →
    let D := Desc.of o.sf.v
    let vb := if vector then some b else none
    let act := row.actives m row.vstart.toNat
    let reads := act.flatMap (fun j => (o.typed D a D.fa).reads j ++ (if vector then (o.typed D b D.fb).reads j else [])
      ++ (if readD then (o.typed D d D.fd).reads j else []))
    o.typedOk d a vb false readD (fun D => fmtInt D.fa && fmtInt D.fb && fmtInt D.fd && ok) = true → row.readable o reads →
    (vector = true ∨ o.sb.poison = false) →
    let x (j : Nat) : Int := intOf D.fa (row.elem a (fmtWidth D.fa) j)
    let y (j : Nat) : Int := intOf D.fb (if vector then row.elem b (fmtWidth D.fb) j else o.sb.v.toNat % 2 ^ fmtWidth D.fb)
    let z (j : Nat) : Int := intOf D.fd (row.elem d (fmtWidth D.fd) j)
    let out := (o.typedDest row d satAll).commit row (act.map (fun j => (j, rule (x j) (y j) (z j), false)))
    h.silent r e 0 → exec (.rowDispatch n r) s = .next (s.rowDone n r row out.1 e 0 out.2.2 (row.reshuffles reads))

/-- The logic words and shifts at SEW, in the order of `logicRule`. -/
def logicWords (vector : Bool) (d a b m : Nat) : List Instr :=
  if vector then [.vand d a b m, .vor d a b m, .vxor d a b m, .vsll d a b m, .vsrl d a b m, .vsra d a b m]
  else [.vandS d a b m, .vorS d a b m, .vxorS d a b m, .vsllS d a b m, .vsrlS d a b m, .vsraS d a b m]

/-- Their results on w-bit elements: a shift takes its amount modulo the width (R297). -/
def logicRule (w x y : Nat) : List Nat :=
  [x &&& y, x ||| y, x ^^^ y, (x * 2 ^ (y % w)) % 2 ^ w, x / 2 ^ (y % w), ((BitVec.ofNat w x).sshiftRight (y % w)).toNat]

/-- Logic, shifts, moves and merges at SEW in a row. Moves carry the poison of the element they take, VBCAST that of its scalar; VMERGE takes each
element from vb or, where its mask bit is set, from va (R297, R300). -/
def Obligations.RowLogic : Prop :=
  ∀ (s : State) (n r : Nat) (h : Hart) (row : Row) (e : Entry) (o : Op) (d a b m : Nat), s.rowAt n r h row e o → h.silent r e 0 → row.vl ≠ 0 →
    let w := o.sew
    let act (k : Nat) : List Nat := row.actives k row.vstart.toNat
    let result (reads : List Rd) (l : List (Nat × Ex × Bool)) : Prop :=
      let out := (o.plainDest row d).commit row l
      exec (.rowDispatch n r) s = .next (s.rowDone n r row out.1 e 0 false (row.reshuffles reads))
    let alive (reads : List Rd) : Prop := BB o.hcr 1 = false ∨ ∀ x ∈ readRegs reads, BB row.vdead x.1 = false
    let ra := (act m).flatMap (o.plain a).reads
    let rab := (act m).flatMap (fun j => (o.plain a).reads j ++ (o.plain b).reads j)
    (∀ k : Nat, (logicWords true d a b m)[k]? = some o.i → groupsOk (some (o.plain d)) [o.plain a, o.plain b] true = true → row.readable o rab →
      ∀ v : Nat → Nat, (∀ j ∈ act m, (logicRule w (row.elem a w j) (row.elem b w j))[k]? = some (v j)) →
      result rab ((act m).map (fun j => (j, .raw (v j), false))))
    ∧ (∀ k : Nat, (logicWords false d a b m)[k]? = some o.i → groupsOk (some (o.plain d)) [o.plain a] true = true → row.readable o ra →
      o.sb.poison = false → ∀ v : Nat → Nat, (∀ j ∈ act m, (logicRule w (row.elem a w j) (o.sb.v.toNat % 2 ^ w))[k]? = some (v j)) →
      result ra ((act m).map (fun j => (j, .raw (v j), false))))
    ∧ (o.i = .vnot d a m → groupsOk (some (o.plain d)) [o.plain a] true = true → row.readable o ra →
      result ra ((act m).map (fun j => (j, .raw (2 ^ w - 1 - row.elem a w j), false))))
    ∧ (o.i = .vmv d a m → groupsOk (some (o.plain d)) [o.plain a] true = true → alive ra →
      result ra ((act m).map (fun j => (j, .raw (row.elem a w j), row.elemPoison a w j))))
    ∧ (o.i = .vbcast d b m → groupsOk (some (o.plain d)) [] true = true →
      result [] ((act m).map (fun j => (j, .raw (o.sb.v.toNat % 2 ^ w), o.sb.poison))))
    ∧ (o.i = .vid d m → groupsOk (some (o.plain d)) [] true = true →
      result [] ((act m).map (fun j => (j, .raw ((row.strip.toNat + j) % 2 ^ w), false))))
    ∧ (o.i = .vmerge d a b m → groupsOk (some (o.plain d)) [o.plain a, o.plain b] true = true →
      let src (j : Nat) : Nat := if BB ((row.m[m]?).getD 0) j then a else b
      let reads := (act 0).flatMap (fun j => (o.plain (src j)).reads j)
      alive reads → result reads ((act 0).map (fun j => (j, .raw (row.elem (src j) w j), row.elemPoison (src j) w j))))

/-- The typed floating words of two or three operands, in the order of `fltRule`. -/
def fltWords (vector : Bool) (d a b f m : Nat) : List Instr :=
  if vector then [.vaddF d a b f m, .vsubF d a b f m, .vmulF d a b f m, .vdivF d a b f m, .vminF d a b f m, .vmaxF d a b f m,
    .vfmaF d a b f m]
  else [.vaddFS d a b f m, .vsubFS d a b f m, .vmulFS d a b f m, .vdivFS d a b f m, .vminFS d a b f m, .vmaxFS d a b f m, .vfmaFS d a b f m]

/-- Of each: does it read vd, and its exact result with the flags of forming it, from x, y and the element z of vd (R178, R189, R295, R296). -/
def fltRule (rdn : Bool) : List (Bool × (Val → Val → Val → Val × Nat)) :=
  [(false, fun x y _ => x.add y rdn), (false, fun x y _ => x.add y.neg rdn), (false, fun x y _ => x.mul y), (false, fun x y _ => x.div y),
   (false, fun x y _ => minmax false x y), (false, fun x y _ => minmax true x y), (true, fun x y z => x.fma y z rdn)]

/-- y is the reciprocal estimate of x, with its flags (R303). -/
def recipIs (x : Val) (y : Val × Nat) : Prop :=
  match x with
  | .nan sig => y = (.nan false, if sig then 16 else 0)
  | .inf neg => y = (.fin neg 0 0, 0)
  | .fin neg m e => (m = 0 → y = (.inf neg, 8)) ∧ (∀ l : Nat, 0 < m → m < 2 ^ l → 2 ^ l ≤ 2 * m →
      -- x is 1.f × 2^(e + l - 1), and i are the top 7 bits of f
      let i := m * 256 / 2 ^ l % 128
      y = (.fin neg (2 ^ 17 / (257 + 2 * i)) (-(e + (l : Int) - 1) - 9), 1))

/-- y is the power-of-two estimate of x, with its flags before it is put into its format (R304); t is x rounded to a multiple of 1/64, and an exponent
beyond ±4,096 stands for one that every format alike overflows or underflows. -/
def exp2Is (x : Val) (y : Val × Nat) : Prop :=
  match x with
  | .nan sig => y = (.nan false, if sig then 16 else 0)
  | .inf neg => y = (if neg then .fin false 0 0 else .inf false, 0)
  | .fin neg m e => ∀ (t : Int) (E : Nat),
      let v : Int := if neg then -(m : Int) else m
      let d : Int := 2 ^ (-(e + 6)).toNat
      let n : Int := v * 2 ^ (e + 6).toNat
      (2 * (n - t * d).natAbs < d.natAbs ∨ (2 * (n - t * d).natAbs = d.natAbs ∧ t % 2 = 0)) →
      (2 * E - 1) ^ 64 ≤ 2 ^ (64 * 32 + (t % 64).toNat) → 2 ^ (64 * 32 + (t % 64).toNat) < (2 * E + 1) ^ 64 →
      y = (.fin false E (max (-4096) (min 4096 (t / 64)) - 31), if n = t * d ∧ t % 64 = 0 then 0 else 1)

/-- The typed floating words in a row: each active element takes its exact result rounded once into the destination format, with block
scales where the descriptor has them; flags are raised, and where they are no cause to report the row goes past its entry. So do the square root, the
conversions, codebook weights among them, the class, and the estimates (R186, R187, R189, R290, R291, R295, R301 to R304). -/
def Obligations.RowFloat : Prop :=
  ∀ (s : State) (n r : Nat) (h : Hart) (row : Row) (e : Entry) (o : Op) (vector : Bool) (d a b f m : Nat), s.rowAt n r h row e o →
    row.vl ≠ 0 →
    let D := Desc.of o.sf.v
    let act := row.actives m row.vstart.toNat
    let p := o.typedDest row d false
    let result (reads : List Rd) (g : Nat → Ex × Nat) : Prop :=
      let out := p.commit row (act.map (fun j => (j, (g j).1, false)))
      let fl := (act.map (fun j => (g j).2)).foldr (· ||| ·) 0 ||| out.2.1
      h.silent r e fl → exec (.rowDispatch n r) s = .next (s.rowDone n r row out.1 e fl out.2.2 (row.reshuffles reads))
    (∀ (k : Nat) (readD : Bool) (rule : Val → Val → Val → Val × Nat), (fltWords vector d a b f m)[k]? = some o.i → (fltRule (decide (p.mode = 2)))[k]? = some (readD, rule) →
      o.typedOk d a (if vector then some b else none) false readD (fun D => fmtFlt D.fa && fmtFlt D.fb && fmtFlt D.fd) = true →
      let reads := act.flatMap (fun j => (o.typed D a D.fa).reads j ++ (if vector then (o.typed D b D.fb).reads j else [])
        ++ (if readD then (o.typed D d D.fd).reads j else []))
      row.readable o reads → (vector = true ∨ o.sb.poison = false) →
      result reads (fun j =>
        let v := rule (row.val (o.typed D a D.fa) D.fa j)
          (if vector then row.val (o.typed D b D.fb) D.fb j else decodeFmt D.fb (o.sb.v.toNat % 2 ^ fmtWidth D.fb))
          (row.val (o.typed D d D.fd) D.fd j)
        (.val v.1, v.2)))
    ∧ (let ga := o.typed D a D.fa
      let reads := act.flatMap ga.reads
      let single (ok : Desc → Bool) : Prop := o.typedOk d a none true false ok = true ∧ row.readable o reads
      let bits (j : Nat) : Nat := row.elem a (fmtWidth D.fa) j
      let x (j : Nat) : Val := row.val ga D.fa j
      (o.i = .vsqrtF d a f m → single (fun D => fmtFlt D.fa && fmtFlt D.fd) →
        result reads (fun j => (.val (x j).sqrt.1, (x j).sqrt.2)))
      ∧ (o.i = .vcvt d a f m → (single (fun D => fmtInt D.fa && (fmtInt D.fd || fmtFlt D.fd)) → result reads (fun j => (.int (intOf D.fa (bits j)), 0)))
        ∧ (single (fun D => fmtFlt D.fa && (fmtInt D.fd || fmtFlt D.fd)) → result reads (fun j => (.val (x j), if (x j).isSig then 16 else 0)))
        ∧ (∀ table, h.cbt = some table → D.fa = 0x18 → o.sf.poison = false → descBad o.sf.v true = false → (fmtInt D.fd || fmtFlt D.fd) = true →
          groupsOk (some (o.typed D d D.fd)) [ga] false = true →
          let at8 : List Rd := act.flatMap (fun j => ⟨a, 16, j / 8⟩ :: (if D.bse then [⟨a + ga.regs, 8, j / 32⟩] else []))
          row.readable o at8 → result at8 (fun j =>
            let scale := row.elem (a + ga.regs) 8 (j / 32)
            let v := cb2Weight table (row.elem a 16 (j / 8)) (j % 8)
            (.val (if D.bse = false then v else if scale = 255 then .nan false else v.scale ((scale : Int) - 127)), 0))))
      ∧ (o.i = .vclass d a f m → single (fun D => fmtFlt D.fa && fmtInt D.fd && decide (16 ≤ fmtWidth D.fd)) →
        result reads (fun j => (.raw (2 ^ classOf D.fa (bits j) (ga.scaled && row.elem (a + ga.regs) 8 (j / 32) == 255)), 0)))
      ∧ (∀ y : Nat → Val × Nat, single (fun D => fmtFlt D.fa && fmtFlt D.fd && !D.bse) →
        (o.i = .vrecpe d a f m → (∀ j ∈ act, recipIs (x j) (y j)) → result reads (fun j => (.val (y j).1, (y j).2)))
        ∧ (o.i = .vexp2e d a f m → (∀ j ∈ act, exp2Is (x j) (y j)) → result reads (fun j => (.val (y j).1, (y j).2)))))

/-- The compares in the order equal, not equal, less, less or equal, greater, greater or equal. -/
def compareWords (vector : Bool) (d a b f m : Nat) : List Instr :=
  if vector then [.vcmpeq d a b f m, .vcmpne d a b f m, .vcmplt d a b f m, .vcmple d a b f m, .vcmpgt d a b f m, .vcmpge d a b f m]
  else [.vcmpeqS d a b f m, .vcmpneS d a b f m, .vcmpltS d a b f m, .vcmpleS d a b f m, .vcmpgtS d a b f m, .vcmpgeS d a b f m]

/-- The truth of each compare of two values, in the order of `compareWords` and then unordered, and the flags it raises (R298). -/
def compareRule (x y : Val) : List (Bool × Nat) :=
  let nan := x.isNan || y.isNan
  let quiet := if x.isSig || y.isSig then 16 else 0
  let loud := if nan then 16 else 0
  let less := !nan && x.lt y
  let more := !nan && y.lt x
  let same := !nan && x.eq y
  [(same, quiet), (!same, quiet), (less, loud), (less || same, loud), (more, loud), (more || same, loud), (nan, quiet)]

/-- Mask results in a row: the compares of integers and of floating values, and the mask operations. Only the bits of the elements at work change, m0
never does, and VEXT, MPOPC and MFIRST write their scalar results in the home row. A compare that meets a poisoned element has written the bits of the
elements before it, keeps its place there, and raises the poison trap (R38, R159, R189, R223, R298 to R300). -/
def Obligations.RowMasks : Prop :=
  ∀ (s : State) (n r : Nat) (h : Hart) (row : Row) (e : Entry) (o : Op) (vector : Bool) (d a b f m : Nat), s.rowAt n r h row e o → h.silent r e 0 →
    let D := Desc.of o.sf.v
    let act := row.actives m row.vstart.toNat
    let below := row.actives 0 0
    let mk (i j : Nat) : Bool := ((row.m[i]?).getD 0).getLsbD j
    let ones (i : Nat) : List Nat := (List.range row.vl.toNat).filter (mk i)
    let x (j : Nat) : Int := intOf D.fa (row.elem a (fmtWidth D.fa) j)
    let y (j : Nat) : Int := intOf D.fb (if vector then row.elem b (fmtWidth D.fb) j else o.sb.v.toNat % 2 ^ fmtWidth D.fb)
    let reads := act.flatMap (fun j => (o.typed D a D.fa).reads j ++ (if vector then (o.typed D b D.fb).reads j else []))
    let result (reads : List Rd) (l : List (Nat × Bool)) : Prop :=
      exec (.rowDispatch n r) s = .next (s.rowDone n r row (row.setMaskBits d l) e 0 false (row.reshuffles reads))
    let scalar (v : Word) (p : Bool) (reads : List Rd) : Prop :=
      exec (.rowDispatch n 0) s = .next ((s.rowDone n 0 row row e 0 false (row.reshuffles reads)).modHart n (fun k => k.wr d v p))
    (∀ k : Nat, (compareWords vector d a b f m)[k]? = some o.i → row.vl ≠ 0 → o.sf.poison = false → descBad o.sf.v false = false →
      fmtInt D.fa = true → fmtInt D.fb = true → D.fd = 0 →
      groupsOk none ([o.typed D a D.fa] ++ (if vector then [o.typed D b D.fb] else [])) true = true → row.readable o reads →
      (vector = true ∨ o.sb.poison = false) →
      ∀ v : Nat → Bool, (∀ j ∈ act, [decide (x j = y j), decide (x j ≠ y j), decide (x j < y j), decide (x j ≤ y j), decide (y j < x j),
        decide (y j ≤ x j)][k]? = some (v j)) → result reads (act.map (fun j => (j, v j))))
    ∧ (∀ (k : Nat) (v : Nat → Bool × Nat),
      (compareWords vector d a b f m ++ [if vector then .vcmpun d a b f m else .vcmpunS d a b f m])[k]? = some o.i → row.vl ≠ 0 →
      o.sf.poison = false → descBad o.sf.v false = false → fmtFlt D.fa = true → fmtFlt D.fb = true → D.fd = 0 →
      groupsOk none ([o.typed D a D.fa] ++ (if vector then [o.typed D b D.fb] else [])) true = true →
      (∀ j ∈ act, (compareRule (row.val (o.typed D a D.fa) D.fa j)
        (if vector then row.val (o.typed D b D.fb) D.fb j else decodeFmt D.fb (o.sb.v.toNat % 2 ^ fmtWidth D.fb)))[k]? = some (v j)) →
      (vector = true ∨ o.sb.poison = false) →
      let flags (l : List Nat) : Nat := (l.map (fun j => (v j).2)).foldr (· ||| ·) 0
      (row.readable o reads → h.silent r e (flags act) →
        exec (.rowDispatch n r) s = .next (s.rowDone n r row (row.setMaskBits d (act.map (fun j => (j, (v j).1)))) e (flags act) false (row.reshuffles reads)))
      ∧ (∀ (j : Nat) (x : M Nat), j ∈ act → elemOp r o none = some x →
        let rds (i : Nat) : List Rd := (o.typed D a D.fa).reads i ++ (if vector then (o.typed D b D.fb).reads i else [])
        let done := act.filter (fun i => decide (i < j))
        (∃ z ∈ rds j, row.rdPoison z = true) → (∀ i ∈ done, ∀ z ∈ rds i, row.rdPoison z = false) →
        (BB o.hcr 1 = false ∨ ∀ z ∈ readRegs reads, BB row.vdead z.1 = false) →
        let t0 : State := { s.rowTry n r with cur := n }
        x t0 = .error (.trap { code := 0x0D, vec := true, mid := true, row := r, val := BitVec.ofNat 64 j, vpc := o.pc }) (t0.modHart n (fun k => { k with
          rows := k.rows.modify r (fun y =>
            { y.setMaskBits d (done.map (fun i => (i, (v i).1))) with prog := some { k := j, mask := 0, acc := [flags done] } })
          fflags := k.fflags ||| BitVec.ofNat 5 (flags done)
          shufcnt := BitVec.ofNat 32 (min (2 ^ 32 - 1) (k.shufcnt.toNat + row.reshuffles reads)) }))))
    ∧ (row.vl ≠ 0 → (o.i = .mand d a b → result [] (below.map (fun j => (j, mk a j && mk b j))))
      ∧ (o.i = .mor d a b → result [] (below.map (fun j => (j, mk a j || mk b j))))
      ∧ (o.i = .mxor d a b → result [] (below.map (fun j => (j, mk a j != mk b j))))
      ∧ (o.i = .mandn d a b → result [] (below.map (fun j => (j, mk a j && !mk b j))))
      ∧ (o.i = .mnot d a → result [] (below.map (fun j => (j, !mk a j)))))
    ∧ (r = 0 → (o.i = .mpopc d a → scalar (BitVec.ofNat 64 (ones a).length) false [])
      ∧ (o.i = .mfirst d a → scalar (match (ones a).head? with
        | some j => BitVec.ofNat 64 j
        | none => BitVec.allOnes 64) false [])
      ∧ (∀ i, o.i = .vext d a i → groupsOk none [o.plain a] true = true → o.sb.poison = false →
        (o.groupElems ≤ o.sb.v.toNat → scalar 0 false [])
        ∧ (o.sb.v.toNat < o.groupElems → (BB o.hcr 1 = false ∨ ∀ x ∈ readRegs ((o.plain a).reads o.sb.v.toNat), BB row.vdead x.1 = false) →
          scalar (BitVec.ofNat 64 (row.elem a o.sew o.sb.v.toNat)) (row.elemPoison a o.sew o.sb.v.toNat) ((o.plain a).reads o.sb.v.toNat))))
    ∧ (∀ i l j, i < 8 → j < 1024 → (∀ x ∈ l, x.1 < 1024) → (l.map Prod.fst).Nodup →
      let t := row.setMaskBits d l
      (t.m[i]?).map (fun (b : BitVec 1024) => b.getLsbD j) = some (match l.find? (fun x => decide (i = d) && decide (d ≠ 0) && x.1 == j) with
        | some x => x.2
        | none => mk i j)
      ∧ t = { row with m := t.m })

/-- The reductions of integers in the order of `reduceStep`. -/
def reduceWords (d a b f m : Nat) : List Instr :=
  [.vredsumO d a b f m, .vredsumU d a b f m, .vredmin d a b f m, .vredmax d a b f m, .vredand d a b f m, .vredor d a b f m,
   .vredxor d a b f m]

/-- What each reduction makes of the value so far and an element (R306). -/
def reduceStep (x y : Int) : List Int :=
  [x + y, x + y, min x y, max x y, (BitVec.ofInt 128 x &&& BitVec.ofInt 128 y).toInt, (BitVec.ofInt 128 x ||| BitVec.ofInt 128 y).toInt,
   (BitVec.ofInt 128 x ^^^ BitVec.ofInt 128 y).toInt]

/-- One step of an ordered reduction of floating values: the sum, rounded into the destination, or the smaller or larger one, and the flags so far. -/
def floatStep (p : Put) (k e : Nat) (acc : Val × Nat) (x : Val) : Val × Nat :=
  if k = 0 then
    let sum := acc.1.add x (decide (p.mode = 2))
    ((p.partialVal e sum.1).1, acc.2 ||| sum.2 ||| (p.partialVal e sum.1).2)
  else ((minmax (decide (k = 3)) acc.1 x).1, acc.2 ||| (minmax (decide (k = 3)) acc.1 x).2)

/-- The words that combine or move the elements of a row. A reduction puts into element 0 of vd the value that starts at element 0 of vb and takes in
the active elements of va in ascending order, where none is active that element itself: of integers exactly, of floating values with a rounding a
step, but for the free order of VREDSUM.U. A scan writes at each active element the sum of the active ones up to it, the first addition exact, but for
the free order of VSCAN.FAST on floating values. VIOTA counts mask bits, RNGGEN draws the Opal words of its coordinates, VCOMPRESS and VEXPAND close and open up
the active elements, the slides and VPERM move elements with their poison (R38, R190, R197, R306, R308 to R311). That a scan's two formats need not be of
one kind, and which of its additions is exact, is the model's reading (log 33, DEDUCED, unsafe). -/
def Obligations.RowCross : Prop :=
  ∀ (s : State) (n r : Nat) (h : Hart) (row : Row) (e : Entry) (o : Op) (d a b f m : Nat), s.rowAt n r h row e o → row.vl ≠ 0 →
    let D := Desc.of o.sf.v
    let act := row.actives m row.vstart.toNat
    let ga := o.typed D a D.fa
    let gb := o.typed D b D.fd
    let gd := o.typed D d D.fd
    let p := o.typedDest row d false
    let int (j : Nat) : Int := intOf D.fa (row.elem a (fmtWidth D.fa) j)
    let ends (out : Row) (fl : Nat) (sat : Bool) (reads : List Rd) : Prop :=
      h.silent r e fl → exec (.rowDispatch n r) s = .next (s.rowDone n r row out e fl sat (row.reshuffles reads))
    let puts (l : List (Nat × Ex × Bool)) (fl : Nat) (reads : List Rd) : Prop :=
      ends (p.commit row l).1 (fl ||| (p.commit row l).2.1) (p.commit row l).2.2 reads
    (descBad o.sf.v true = false →
      (let reads := act.flatMap ga.reads ++ gb.reads 0
      groupsOk (some gd) [ga, gb] false = true → row.readable o reads →
        (∀ k : Nat, (reduceWords d a b f m)[k]? = some o.i → fmtInt D.fa = true → fmtInt D.fd = true →
          let init := intOf D.fd (row.elem b (fmtWidth D.fd) 0)
          let total := act.foldl (fun (acc : Int) j => ((reduceStep acc (int j))[k]?).getD 0) init
          puts [(0, if act = [] then .raw (row.elem b (fmtWidth D.fd) 0) else .int total, false)] 0 reads)
        ∧ (∀ k : Nat, (reduceWords d a b f m)[k]? = some o.i → (k = 0 ∨ k = 2 ∨ k = 3) → fmtFlt D.fa = true → fmtFlt D.fd = true →
          (act = [] → gd.scaled = false → puts [(0, .raw (row.elem b (fmtWidth D.fd) 0), false)] 0 reads)
          ∧ (act ≠ [] → let total := act.foldl (fun acc j => floatStep p k j acc (row.val ga D.fa j)) (row.val gb D.fd 0, 0)
            puts [(0, .val total.1, false)] total.2 reads)))
      ∧ (let reads := act.flatMap ga.reads
      groupsOk (some gd) [ga] false = true → row.readable o reads → (fmtInt D.fd || fmtFlt D.fd) = true →
        (fmtInt D.fa = true → (o.i = .vscanO d a f m ∨ (o.i = .vscanFast d a f m ∧ h.hcr.getLsbD 0 = false)) →
          puts (act.map (fun j => (j, .int ((act.filter (fun i => decide (i ≤ j))).map int).sum, false))) 0 reads)
        ∧ (fmtFlt D.fa = true → o.i = .vscanO d a f m →
          let sums := act.foldl (fun (acc : List (Nat × Val) × Nat) j =>
            let x := row.val ga D.fa j
            let y := match acc.1.getLast? with
              | none => ((Val.fin false 0 0).add x (decide (p.mode = 2)))
              | some z => floatStep p 0 j (z.2, 0) x
            (acc.1 ++ [(j, y.1)], acc.2 ||| y.2)) ([], 0)
          puts (sums.1.map (fun x => (x.1, .val x.2, false))) sums.2 reads)))
    ∧ (let w := o.sew
      let moved (reads : List Rd) (l : List (Nat × Nat × Bool)) : Prop :=
        (BB o.hcr 1 = false ∨ ∀ x ∈ readRegs reads, BB row.vdead x.1 = false) →
        ends ((o.plainDest row d).commit row (l.map (fun x => (x.1, .raw (x.2.1 % 2 ^ w), x.2.2)))).1 0 false reads
      let pairs (l : List (Nat × Nat)) : Prop := groupsOk (some (o.plain d)) [o.plain a] false = true →
        moved (l.map (fun x => ⟨a, w, x.2⟩)) (l.map (fun x => (x.1, row.elem a w x.2, row.elemPoison a w x.2)))
      let slides (amount : Bool) (src : Nat → Option (Option Nat × Nat)) : Prop :=
        groupsOk (some (o.plain d)) [o.plain a] false = true → (amount = true → o.sb.poison = false) →
        let l := act.filterMap (fun j => (src j).map (fun x => (j, x)))
        moved (l.filterMap (fun x => x.2.1.map (fun i => ⟨a, w, i⟩))) (l.map (fun x => match x.2.1 with
          | some i => (x.1, row.elem a w i, row.elemPoison a w i)
          | none => (x.1, x.2.2, !amount && o.sb.poison)))
      let x := o.sb.v.toNat
      (o.i = .viota d a m → groupsOk (some (o.plain d)) [] true = true → moved [] (act.map (fun j =>
        (j, ((row.actives m 0).filter (fun i => decide (i < j) && ((row.m[a]?).getD 0).getLsbD i)).length, false))))
      ∧ (o.i = .rnggen d a b m → groupsOk (some (o.plain d)) [] true = true → o.sa.poison = false → o.sb.poison = false →
        let word (i : Nat) : Nat := opal (i / 4 % 2 ^ 32) (i / 4 / 2 ^ 32 % 2 ^ 32) (x % 2 ^ 32) 0 (o.sa.v.toNat % 2 ^ 32) (o.sa.v.toNat / 2 ^ 32) (i % 4)
        moved [] (act.map (fun j =>
          let i := x / 2 ^ 32 + row.strip.toNat + j
          (j, if w = 64 then word (2 * i) + word (2 * i + 1) * 2 ^ 32 else word i, false))))
      ∧ (o.i = .vcompress d a m → pairs ((List.range (row.actives m 0).length).zip (row.actives m 0)))
      ∧ (o.i = .vexpand d a m → pairs ((row.actives m 0).zip (List.range (row.actives m 0).length)))
      ∧ (o.i = .vslideup d a b m → slides true (fun j => if x ≤ j then some (some (j - x), 0) else none))
      ∧ (o.i = .vslidedn d a b m → slides true (fun j => if j + x < o.groupElems then some (some (j + x), 0) else some (none, 0)))
      ∧ (o.i = .vslide1up d a b m → slides false (fun j => if j = 0 then some (none, x) else some (some (j - 1), 0)))
      ∧ (o.i = .vslide1dn d a b m → slides false (fun j => if j + 1 = row.vl.toNat then some (none, x) else some (some (j + 1), 0)))
      ∧ (o.i = .vperm d a b m → groupsOk (some (o.plain d)) [o.plain a, o.plain b] false = true →
        let idx (j : Nat) : Nat := row.elem b w j
        (∀ j ∈ act, row.elemPoison b w j = false) →
        moved (act.flatMap (o.plain b).reads ++ (act.filter (fun j => decide (idx j < o.groupElems))).map (fun j => ⟨a, w, idx j⟩))
          (act.map (fun j => if idx j < o.groupElems then (j, row.elem a w (idx j), row.elemPoison a w (idx j)) else (j, 0, false)))))

/-- Every word on the elements of a row, of whatever class: when what it does in the row ends without a trap and raises no flag that traps, the
row goes past its entry, with VSTART 0; when it traps, the trap of that row is taken, or the row stands stopped there until that may be;
when it has to wait, or parks, it stays at its entry with its progress (R89, R158, R160, R221, R223, R227). -/
def Obligations.RowCompletes : Prop :=
  ∀ (s : State) (n r : Nat) (h : Hart) (row : Row) (e : Entry) (x : M Nat), s.rowHas n r h row e → row.joined = true → row.vl ≠ 0 →
    e.sub = 0 → e.isLoop = false → elemOp r e.op none = some x → h.allAt row.qdone = true →
    let now := s.dev.devtime.toNat
    let t0 : State := { s.rowTry n r with cur := n }
    (∀ fl s1 k row1, x t0 = .ok fl s1 → s1.cur = n → s1.hart? n = some k → k.rows[r]? = some row1 → row1.qdone = row.qdone →
      k.late = [] → (∀ y, k.entryOf r = some y →
        let past (l : List TrapInfo) : State := { (s1.modHart n (fun k => ({ k.wordPast r row.qdone y fl with
          rows := k.rows.modify r (fun z => { z with vstart := 0, prog := none, qdone := z.qdone + 1, readySince := now, promoted := false })
          late := l } : Hart).pop)).settle n (1 + r) with cur := s.cur }
        (k.silent r y fl → exec (.rowDispatch n r) s = .next (past []))
        ∧ (k.lastAt r = true → y.sub = 0 → y.isLoop = false → y.n = 0 → BB y.op.hcr 4 = true → y.flags ||| fl ≠ 0 →
          let cause : TrapInfo := { code := 0x11, vec := true, row := (y.after r fl).flagRow, val := BitVec.ofNat 64 (y.flags ||| fl), vpc := y.op.pc }
          exec (.rowDispatch n r) s = .next (((past [cause]).takeLate? n).getD (past [cause])))))
    ∧ (let afresh (t : State) : State := t.modRow n r (fun y => { y with readySince := now, promoted := false })
      let ends (t : State) : Prop := exec (.rowDispatch n r) s = .next { t with cur := s.cur }
        ∨ exec (.rowDispatch n r) s = .next { afresh t with cur := s.cur }
      (∀ i s1, x t0 = .error (.trap i) s1 → ends (t0.rowTraps s1 n r i))
      ∧ (∀ p s1, x t0 = .error (.park p) s1 → p.conv = false → ends (s1.modRow n r (fun y => { y with park := some p })))
      ∧ (∀ s1, x t0 = .error .wait s1 → ends s1))
/-! Vector memory, matrix and tile words (R163, R164, R191, R192, R312 to R341, R363 to R371). -/

/-- A vector load or store as its row sees it: kind 0 load or 1 store, fields, width, ordering (0 ordered, 1 unordered, 2 fault-only-first), registers,
stride, mask (R314 to R316, R321 to R325). -/
def memMode : Instr → Option VMode
  | .vld d _ g m w => some ⟨0, g + 1, eewBits w, 0, d, none, false, m⟩
  | .vldu d _ g m w => some ⟨0, g + 1, eewBits w, 1, d, none, false, m⟩
  | .vldf d _ g m w => some ⟨0, g + 1, eewBits w, 2, d, none, false, m⟩
  | .vst d _ g m w => some ⟨1, g + 1, eewBits w, 0, d, none, false, m⟩
  | .vstu d _ g m w => some ⟨1, g + 1, eewBits w, 1, d, none, false, m⟩
  | .vlds d _ _ g m w => some ⟨0, g + 1, eewBits w, 0, d, none, true, m⟩
  | .vldsu d _ _ g m w => some ⟨0, g + 1, eewBits w, 1, d, none, true, m⟩
  | .vldsf d _ _ g m w => some ⟨0, g + 1, eewBits w, 2, d, none, true, m⟩
  | .vsts d _ _ g m w => some ⟨1, g + 1, eewBits w, 0, d, none, true, m⟩
  | .vstsu d _ _ g m w => some ⟨1, g + 1, eewBits w, 1, d, none, true, m⟩
  | .vldx d _ b m w => some ⟨0, 1, eewBits w, 0, d, some b, false, m⟩
  | .vldxu d _ b m w => some ⟨0, 1, eewBits w, 1, d, some b, false, m⟩
  | .vstx d _ b m w => some ⟨1, 1, eewBits w, 0, d, some b, false, m⟩
  | .vstxu d _ b m w => some ⟨1, 1, eewBits w, 1, d, some b, false, m⟩
  | _ => none

/-- The words of a vector atomic, ordered and unordered, in the order of `vamoRule`. -/
def vamoWords (ordered : Bool) (d a b m w : Nat) : List Instr :=
  if ordered then [.vamoaddI d a b m w, .vamoaddF d a b m w, .vamoswap d a b m w, .vamomin d a b m w, .vamomax d a b m w, .vamoand d a b m w,
    .vamoor d a b m w, .vamoxor d a b m w]
  else [.vamoadduI d a b m w, .vamoadduF d a b m w, .vamoswapu d a b m w, .vamominu d a b m w, .vamomaxu d a b m w, .vamoandu d a b m w,
    .vamooru d a b m w, .vamoxoru d a b m w]

/-- What each of them stores, of the old value x and the element y on w bits; the floating sum is of BF16 or FP32 (R326). -/
def vamoRule (w x y : Nat) : List Nat :=
  let code := if w = 16 then 0x11 else 0x10
  [(x + y) % 2 ^ w, (roundFmt code 0 false 0 ((decodeFmt code x).add (decodeFmt code y) false).1).1, y,
   if (BitVec.ofNat w y).toInt < (BitVec.ofNat w x).toInt then y else x, if (BitVec.ofNat w x).toInt < (BitVec.ofNat w y).toInt then y else x,
   x &&& y, x ||| y, x ^^^ y]

/-- Vector memory. In the scratchpad a load gives each active element of each field the bytes at its address, resized to SEW, with their poison, and
leaves the other elements, the other registers and all of memory alone; a store lays its elements, the higher over the lower, over the bytes at their
addresses, and leaves every other byte alone, with a poisoned element poisoning its sectors; an atomic takes its elements one after another in ascending
order, each reading what the one before left. In device memory a request reads its bytes at the home and leaves memory alone, or lays its elements over
its bytes, and a word of one request does what that request does (R38, R163, R315 to R319, R321 to R327). -/
def Obligations.VectorMemory : Prop :=
  (∀ (s : State) (n r : Nat) (h : Hart) (row : Row) (e : Entry) (o : Op), s.rowAt n r h row e o → h.silent r e 31 → row.vl ≠ 0 →
    row.vl.toNat * o.sew ≤ o.lmul * 1024 →
    let w := o.sew
    (∀ v, memMode o.i = some v → v.placed o → v.addressable o row →
      let act := row.actives v.mask 0
      let reg (i : Nat) : Nat := v.vd + i * o.lmul
      let bits (j i : Nat) : Nat := row.elem (reg i) w j % 2 ^ v.eew
      let bad (j i : Nat) : Bool := row.elemPoison (reg i) w j
      let loaded (out : Row) (got : Nat → Nat → Nat × Bool) : Prop :=
        (∀ i j, i < v.nf → (j + 1) * w ≤ o.lmul * 1024 →
          (j ∈ act → out.elem (reg i) w j = (got j i).1 % 2 ^ w ∧ out.elemPoison (reg i) w j = (got j i).2)
          ∧ (j ∉ act → out.elem (reg i) w j = row.elem (reg i) w j ∧ out.elemPoison (reg i) w j = row.elemPoison (reg i) w j))
        ∧ out.keepsOutside row v.vd (v.nf * o.lmul)
      (o.vmt = 1 → v.kind = 0 → v.inPad o h row 0x8_0000 → ∃ t out, exec (.rowDispatch n r) s = .next t ∧ s.rowTo t n r out ∧ s.padKept t n
        ∧ loaded out (fun j i =>
          let x := h.padRead (v.addr o row j i) (max 1 (v.eew / 8))
          (if v.eew = 4 then leVal x.1 / 16 ^ ((row.strip.toNat + j) % 2) % 16 else leVal x.1, x.2.any id)))
      ∧ (o.vmt = 1 → v.kind = 1 → v.inPad o h row 0x7_F000 → h.scratch.wf = true → ∃ t k, exec (.rowDispatch n r) s = .next t ∧ s.rowTo t n r row
        ∧ t.hart? n = some k
        ∧ (∀ x, k.scratch.read1 x = (act.flatMap (v.accs o row)).foldl (fun old a => a.over (bits a.e a.i) x old) (h.scratch.read1 x))
        ∧ (∀ x, k.scratchPoison.contains x = (h.scratchPoison.contains x
          || (act.flatMap (v.accs o row)).any (fun a => bad a.e a.i && a.va / 16 == x))))
      ∧ (let acc : Acc := { s.accOf h 0 with agent := 1 + r }
        let l := act.flatMap (v.accs o row)
        let t0 : State := { s.rowTry n r with cur := n }
        let entered := t0.modHart n (fun k => { k with
          rows := k.rows.modify r (fun y => { y with prog := some { k := row.vstart.toNat, mask := 0, acc := [0] } })
          shufcnt := BitVec.ofNat 32 (min (2 ^ 32 - 1) (k.shufcnt.toNat + row.reshuffles (v.reads o act))) })
        v.ord ≠ 2 → act ≠ [] → (misaligned v l = [] ∧ ∀ a ∈ l, badPlace v o h.level a = none) → probeSpace r o v acc l t0 = .ok () t0 →
        formReqs (v.ord == 1) l = [l] →
        (∀ got t1, v.kind = 0 → readReq o acc l entered = .ok got t1 → t1.harts = entered.harts → t1.cur = n →
          (∀ a ∈ l, ∃ y p, (a.e, a.i, y, p) ∈ got) → (got.map (fun g => (g.1, g.2.1))).Nodup → (∀ g ∈ got, ∃ a ∈ l, a.e = g.1 ∧ a.i = g.2.1) →
          ∃ t out k, exec (.rowDispatch n r) s = .next t ∧ t.mem = t1.mem ∧ t.hart? n = some k ∧ k.rows[r]? = some (out.passed row.qdone s.dev.devtime.toNat)
            ∧ loaded out (fun j i => ((got.find? (fun g => g.1 == j && g.2.1 == i)).map (fun g => (g.2.2.1, g.2.2.2))).getD (0, false)))
        ∧ (∀ t1, v.kind = 1 → writeReq o acc (fun _ _ => pure ()) (l.map (fun a => (a, bits a.e a.i, bad a.e a.i))) entered = .ok () t1 →
          t1.harts = entered.harts → t1.cur = n → (∀ a ∈ l, (inRegWindow a.va).isNone) →
          ∃ t k, exec (.rowDispatch n r) s = .next t ∧ t.mem = t1.mem ∧ t.hart? n = some k ∧ k.rows[r]? = some (row.passed row.qdone s.dev.devtime.toNat))))
    ∧ (∀ (ordered : Bool) (d a b m c k : Nat), (vamoWords ordered d a b m c)[k]? = some o.i →
      let v : VMode := ⟨2, 1, eewBits c, if ordered then 0 else 1, d, some b, false, m⟩
      let act := row.actives m 0
      let bytes := w / 8
      let at_ (j : Nat) : Nat := v.addr o row j 0
      v.placed o → v.addressable o row → o.vmt = 1 → v.inPad o h row 0x7_F000 → (k = 1 → (w = 16 ∨ w = 32) ∧ h.hcr.getLsbD 0 = false) →
      (∀ j ∈ act, row.elemPoison d w j = false ∧ h.scratchPoison.contains (at_ j / 16) = false) →
      let run := act.foldl (fun (x : Memory × List (Nat × Nat)) j =>
        let old := leVal ((List.range bytes).map (fun i => x.1.read1 (at_ j + i)))
        (x.1.write (at_ j) (leBytes bytes (((vamoRule w old (row.elem d w j))[k]?).getD 0)), x.2 ++ [(j, old)])) (h.scratch, [])
      ∃ t out x, exec (.rowDispatch n r) s = .next t ∧ s.rowTo t n r out ∧ t.hart? n = some x ∧ x.scratch = run.1 ∧ x.scratchPoison = h.scratchPoison
        ∧ (∀ y ∈ run.2, out.elem d w y.1 = y.2)
        ∧ (∀ j, j ∉ act → (j + 1) * w ≤ o.lmul * 1024 → out.elem d w j = row.elem d w j)
        ∧ out.keepsOutside row d o.lmul))
  ∧ (∀ (s s1 : State) (acc : Acc) (o : Op) (q : List VAcc) (lo pa : Nat) (x : Xl) (wr : Bool), (o.vmt = 0 ∨ o.vmt = 3) → s.noHeat →
    acc.engine ≠ 3 → acc.engine ≠ 4 → acc.base = false → (∃ a ∈ q, a.va = lo) → (∀ a ∈ q, lo ≤ a.va ∧ a.va + a.n ≤ lo / 64 * 64 + 64 ∧ 0 < a.n) →
    lo < regWindow → (∀ a ∈ q, apertureOf acc a.va s = .ok none s) → xlate acc lo wr [0, 1, 2, 3] false s = .ok x s → x.dest = .localM pa →
    pa % 64 = lo % 64 → pa + 64 ≤ paLimit → s.serve (l2Port acc.die (pa / 64)) acc.fn acc.cls acc.hart acc.agent (popcount 4 (reqGranules q)) = some s1 →
    (wr = false → ∃ t, readReq o acc q s = .ok (q.map (fun a =>
        let y := s.homeBytes (pa + (a.va - lo)) a.n
        (a.e, a.i, a.value y.1, y.2.any id))) t
      ∧ t.harts = s.harts ∧ t.cur = s.cur ∧ ∀ y, t.mem.read1 y = s.mem.read1 y)
    ∧ (∀ (value : VAcc → Nat) (bad : VAcc → Bool), wr = true → s.snoop = [] → s.retiredLine (pa / 64) = false → s.mem.wf = true → (∀ a ∈ q, a.nib = none ∨ a.n = 1) →
      ∃ t, writeReq o acc (fun _ _ => pure ()) (q.map (fun a => (a, value a, bad a))) s = .ok () t
      ∧ t.harts = s.harts ∧ t.cur = s.cur
      ∧ (∀ y, pa ≤ y → t.mem.read1 y = q.foldl (fun old a => a.over (value a) (lo + (y - pa)) old) (s.mem.read1 y))
      ∧ (∀ y, y < pa → t.mem.read1 y = s.mem.read1 y)))

/-- The matrix words in a row. MTLOAD fills a buffer row by row from the scratchpad: its state is LOADED in the format of FMTB, each tile row is the bytes
at its address, each block of 32 rows has the scales that follow its first row, and MTROW is 0. MROW and MROWM, exactly, add to each accumulator
element the products of a row of A, from a register or from memory, with its column of the tile, 32 at a time: each chunk exact and rounded once to FP32,
and each addition of a chunk rounded once; the row is counted for approximate mode. MROWX adds every product exactly to its FX64 element. MXRD puts the
elements into the destination format, with VXSAT the sticky bit of the group, and MXCLR clears a group and its bit (R191, R192, R194, R329 to R340). -/
def Obligations.MatrixWords : Prop :=
  ∀ (s : State) (n r : Nat) (h : Hart) (row : Row) (e : Entry) (o : Op) (d a f buf : Nat), s.rowAt n r h row e o → h.silent r e 31 →
    let D := Desc.of o.sf.v
    let t0 := row.tile buf
    let side := ownSide t0.fmt
    let alive (reads : List Rd) : Prop := BB o.hcr 1 = false ∨ ∀ x ∈ readRegs reads, BB row.vdead x.1 = false
    let clear (base w count : Nat) : Prop := ∀ k, k < count → row.elemPoison base w k = false
    let raws (base w count : Nat) (x : Nat → Nat) : Row :=
      ((⟨⟨base, count * w / 1024, w, false⟩, 0, 0, false, o.pc, 0⟩ : Put).commit row ((List.range count).map (fun k => (k, .raw (x k), false)))).1
    (∀ b, o.i = .mtload buf a b f → o.vmt = 1 → row.mtrow = 0 → descBad o.sf.v false = false → D.fd = 0 → tilePaired D.fa D.fb D.bse = true →
      o.sa.poison = false → o.sb.poison = false → (D.fb = 0x18 → h.cbt.isSome = true) →
      let base := o.sa.v.toNat
      let pitch := o.sb.v.toNat
      let wide := tileRowBytes D.fb + (if D.bse then ownSide D.fb else 0)
      base % 8 = 0 → pitch % 8 = 0 → base + pitch * ownSide D.fb + wide ≤ 0x7_F000 → h.clear (padWindow + base) (pitch * ownSide D.fb + wide) false →
      (∀ k, k < pitch * ownSide D.fb + wide → h.scratchPoison.contains ((base + k) / 16) = false) →
      let bytes (at_ count : Nat) : Nat := leVal ((List.range count).map (fun k => h.scratch.read1 (at_ + k)))
      ∃ t out, exec (.rowDispatch n r) s = .next t ∧ s.rowTo t n r out ∧ s.padKept t n
        ∧ out = { row.setTile buf (out.tile buf) with mtrow := 0 } ∧ (out.tile buf).state = 2 ∧ (out.tile buf).fmt = D.fb ∧ (out.tile buf).scaled = D.bse
        ∧ (∀ k, k < ownSide D.fb → keyed (out.tile buf).rows k 0 = bytes (base + k * pitch) (tileRowBytes D.fb))
        ∧ (D.bse = true → ∀ k, k < ownSide D.fb / 32 →
          keyed (out.tile buf).scales k 0 = bytes (base + 32 * k * pitch + tileRowBytes D.fb) (ownSide D.fb)))
    ∧ (∀ A : ARow, row.vl ≠ 0 → BB o.hcr 2 = false → descBad o.sf.v true = false → D.fd = 0x10 → (D.bse = true → fmtMX D.fa = true) →
      t0.state = 2 → tilePaired D.fa t0.fmt t0.scaled = true →
      d % (side / 32) = 0 → d + side / 32 ≤ 32 → clear d 32 side → A.clean D.fa D.bse side →
      let scales := if D.bse then 1 else 0
      let base := o.sa.v.toNat + r * (if D.bse then 192 else 128)
      let pad (at_ count : Nat) : Nat := leVal ((List.range count).map (fun k => h.scratch.read1 (at_ + k)))
      (o.i = .mrow d a buf f ∧ A = row.aRow a ∧ a + 1 + scales ≤ 32 ∧ (a + 1 + scales ≤ d ∨ d + side / 32 ≤ a)
          ∧ alive (mrowReads d side 32 (some (a, fmtWidth D.fa, D.bse)))
        ∨ o.i = .mrowm d a buf f ∧ o.vmt = 1 ∧ o.sa.poison = false ∧ o.sa.v.toNat % 8 = 0 ∧ base + 192 ≤ 0x7_F000
          ∧ h.clear (padWindow + base) 192 false ∧ (∀ k, k < 192 → h.scratchPoison.contains ((base + k) / 16) = false)
          ∧ A = ⟨pad base (side * fmtWidth D.fa / 8), if D.bse then pad (base + 128) (side / 32) else 0,
              List.replicate (side * fmtWidth D.fa / 8) false, List.replicate (if D.bse then side / 32 else 0) false⟩
          ∧ alive (mrowReads d side 32 none)) →
      let product (j k : Nat) : Val := ((A.val D.fa D.bse k).mul (t0.weight (h.cbt.getD []) k j)).1
      let chunk (j c : Nat) : Nat := (roundFmt 0x10 0 false 0 (chunkSum ((List.range 32).map (fun i => product j (32 * c + i)))).1).1
      let sum (j : Nat) : Nat := (List.range (side / 32)).foldl (fun x c =>
        (roundFmt 0x10 0 false 0 ((decodeFmt 0x10 x).add (decodeFmt 0x10 (chunk j c)) false).1).1) (row.elem d 32 j)
      ∃ t k, exec (.rowDispatch n r) s = .next t ∧ s.rowTo t n r (raws d 32 side sum) ∧ s.padKept t n ∧ t.hart? n = some k
        ∧ k.apxRow = if h.lastAt r then h.apxRow + e.count + 1 else h.apxRow)
    ∧ (o.i = .mrowx d a buf f → row.vl ≠ 0 → descBad o.sf.v true = false → D.fa = 0x13 → D.fd = 0x1F → D.bse = false → t0.state = 2 → t0.fmt = 0x13 →
      t0.scaled = false → d % 8 = 0 → d + 8 ≤ 32 → (a < d ∨ d + 8 ≤ a) → a < 32 → clear d 64 128 → (row.aRow a).clean 0x13 false 128 →
      alive (mrowReads d 128 64 (some (a, 8, false))) → ∀ term : Nat → Nat → Int,
      -- every product is finite, in units of 2^-20, and no sum reaches the bound
      (∀ j k, j < 128 → k < 128 → ∃ x m p y q z, (row.aRow a).val 0x13 false k = .fin x m p ∧ t0.weight [] k j = .fin y q z
        ∧ term j k = (if x = y then 1 else -1) * (m * q : Nat) * 2 ^ (p + z + 20).toNat) →
      let old (j : Nat) : Int := max (-(2 ^ 63 - 1)) (BitVec.ofNat 64 (row.elem d 64 j)).toInt
      (∀ j k, j < 128 → k ≤ 128 → (old j + ((List.range k).map (term j)).sum).natAbs < 2 ^ 63 - 1) →
      exec (.rowDispatch n r) s = .next (s.rowDone n r row
        (raws d 64 128 (fun j => (BitVec.ofInt 64 (old j + ((List.range 128).map (term j)).sum)).toNat)) e 0 false
        (row.reshuffles (mrowReads d 128 64 (some (a, 8, false))))))
    ∧ (o.i = .mxrd d a f → row.vl ≠ 0 → descBad o.sf.v true = false → D.fa = 0x1F → D.bse = false → D.fd ∈ [0x10, 0x11, 0x12] →
      a % 8 = 0 → a + 8 ≤ 32 → let regs := 128 * fmtWidth D.fd / 1024
      d % regs = 0 → d + regs ≤ 32 → (d + regs ≤ a ∨ a + 8 ≤ d) → clear a 64 128 → alive (mrowReads a 128 64 none) →
      let out := (⟨⟨d, regs, fmtWidth D.fd, false⟩, D.fd, o.mode D, D.sat, o.pc, 0⟩ : Put).commit row
        ((List.range 128).map (fun k => (k, .val (decodeFmt 0x1F (row.elem a 64 k)), false)))
      exec (.rowDispatch n r) s = .next (s.rowDone n r row out.1 e out.2.1 (row.ovf.getLsbD (a / 8)) (row.reshuffles (mrowReads a 128 64 none))))
    ∧ (o.i = .mxclr a → row.vl ≠ 0 → a % 8 = 0 → a + 8 ≤ 32 →
      exec (.rowDispatch n r) s = .next (s.rowDone n r row
        { raws a 64 128 (fun _ => 0) with ovf := row.ovf &&& ~~~(BitVec.ofNat 4 (2 ^ (a / 8))) } e 0 false 0))

/-- The words that the rows of a tile execute together, once each row stands there: the sampler's over the active elements of every row with VL above 0,
with their indices, XCHG, and CBLOAD, and SWGT in each row. SMAX writes the largest key and its bits; SKTH the k-th largest candidate; STOPP the candidate
at which the weights from the largest down reach the threshold; SDRAW the first index whose running sum passes the threshold, or the total; SDRAW.HW
draws freely (its word: log 14, DESIGN CHOICE, safe). A NaN raises invalid where the word says so. XCHG gives each row the group of its source row;
CBLOAD fills the codebook table and empties the buffers that hold CB2 tiles (R163, R312, R334, R363 to R372). -/
def Obligations.TileWords : Prop :=
  ∀ (s : State) (n r : Nat) (h : Hart) (row : Row) (e : Entry) (o : Op) (a b c : Nat), s.rowAt n r h row e o →
    (h.together row → BB o.hcr 4 = false → BB o.hcr 1 = false → h.img = none →
      let w := o.sew
      let live := h.rows.filter (fun x => x.vl != 0)
      let list (ibase : Nat) : List (Nat × Nat) := live.flatMap (fun x => (x.actives 0 0).map (fun j =>
        (x.elem b w j, (ibase + x.strip.toNat + j) % 2 ^ 32)))
      let nan (x : Nat) : Bool := decide (0x7F80_0000 < x % 2 ^ 31)
      let scalar (v fl : Nat) : Prop := (o.plain b).ok = true → (∀ x ∈ live, ∀ j ∈ x.actives 0 0, x.elemPoison b w j = false) →
        ∃ t k, exec (.rowDispatch n r) s = .next t ∧ s.tileTo t n (fun _ x => { x with vstart := if x.vl = 0 then x.vstart else 0 })
          ∧ t.hart? n = some k ∧ (∀ i, i < 32 → k.rd i = (if i = a ∧ a ≠ 0 then BitVec.ofNat 64 v else h.rd i)
            ∧ k.rdP i = (if i = a ∧ a ≠ 0 then false else h.rdP i))
          ∧ k.fflags = h.fflags ||| BitVec.ofNat 5 fl
      let total (l : List (Nat × Nat)) : Nat := (l.map Prod.fst).sum
      let invalid := if (list 0).any (fun x => nan x.1) then 16 else 0
      (o.i = .smax a b → w = 32 → ((∀ x ∈ list 0, nan x.1 = true) → scalar 0x007F_FFFF_FF80_0000 invalid)
        ∧ (∀ m ∈ (list 0).map Prod.fst, nan m = false → (∀ x ∈ list 0, nan x.1 = false → sampleKey x.1 ≤ sampleKey m) →
          scalar (sampleKey m * 2 ^ 32 + m) invalid))
      ∧ (o.i = .skth a b c → (w = 32 ∨ w = 64) →
        let k := o.sc.v.toNat % 2 ^ 11
        let words := if w = 64 then (list 0).map Prod.fst
          else ((list (o.sc.v.toNat / 2 ^ 32)).filter (fun x => !nan x.1)).map (fun x => cand (sampleKey x.1) x.2)
        0 < k → (words.length < k → scalar 0 0)
          ∧ (∀ v ∈ words, (words.filter (fun x => decide (v < x))).length < k → k ≤ (words.filter (fun x => decide (v ≤ x))).length → scalar v 0))
      ∧ (o.i = .stopp a b c → w = 32 →
        let l := (list (o.sc.v.toNat / 2 ^ 32)).filter (fun x => x.1 != 0)
        let goal := o.sc.v.toNat % 2 ^ 32 * total l / 2 ^ 31
        (l.map Prod.snd).Nodup → (total l < goal ∨ l = [] → scalar 0 0)
          ∧ (∀ x ∈ l, let above (y : Nat × Nat) : Bool := decide (cand x.1 x.2 < cand y.1 y.2)
            (l.filter above = [] ∨ total (l.filter above) < goal) → goal ≤ total (l.filter above) + x.1 → scalar (cand x.1 x.2) 0))
      ∧ (o.i = .sdraw a b c ∨ (o.i = .sdrawHw a b c ∧ h.hcr.getLsbD 0 = false) → w = 32 →
        let rec_ := (e.carry.head?.map (fun x => x.acc.headD 0)).getD 0
        let l := list (rec_ / 2 ^ 160 % 2 ^ 32)
        let u := if o.i = .sdraw a b c then drawWord rec_ else (Config.free s.freeCtr).toNat
        let goal := u * (rec_ / 2 ^ 192 % 2 ^ 64) / 2 ^ 64
        let base := rec_ / 2 ^ 256 % 2 ^ 64
        (rec_ / 2 ^ 320 % 2 = 1 → scalar (total l) 0)
        ∧ (rec_ / 2 ^ 320 % 2 = 0 → (goal < base ∨ base + total l ≤ goal → scalar (2 ^ 64 - 1) 0)
          ∧ ((l.map Prod.snd).Nodup → base ≤ goal → ∀ x ∈ l, let under := l.filter (fun y => decide (y.2 < x.2))
            base + total under ≤ goal → goal < base + total under + x.1 → scalar x.2 0)))
      ∧ (o.i = .xchg a b c → groupsOk (some (o.plain a)) [o.plain b] false = true → o.sb.poison = false →
        let x := o.sb.v.toNat
        let count := h.rows.length
        x / 2 ^ 16 = 0 → x / 4 % 2 ^ 6 = 0 → x % 4 ≠ 3 → (x % 4 = 2 → x / 2 ^ 8 < count) →
        let D := x / 2 ^ 8
        let source (i : Nat) : Nat := if x % 4 = 0 then (i + D) % count else if x % 4 = 1 then (if i ^^^ D < count then i ^^^ D else i) else D
        ∃ t, exec (.rowDispatch n r) s = .next t ∧ s.tileTo t n (fun i y => match h.rows[source i]? with
          | none => y
          | some z =>
            let in_ (q : Nat) : Bool := decide (a ≤ q) && decide (q < a + o.lmul)
            { y with
              vstart := 0
              v := Vector.ofFn (fun q : Fin 32 => if in_ q then (z.v[b + (q - a)]?).getD 0 else (y.v[q.val]?).getD 0)
              vpoison := Vector.ofFn (fun q : Fin 32 => if in_ q then (z.vpoison[b + (q - a)]?).getD 0 else (y.vpoison[q.val]?).getD 0)
              vtag := Vector.ofFn (fun q : Fin 32 => if in_ q then (z.vtag[b + (q - a)]?).getD 0 else (y.vtag[q.val]?).getD 0)
              vdead := y.vdead &&& ~~~(BitVec.ofNat 32 ((2 ^ o.lmul - 1) * 2 ^ a)) })
          ∧ ∃ k, t.hart? n = some k ∧ k.s = h.s ∧ k.fflags = h.fflags)
      ∧ (o.i = .cbload a → o.vmt = 1 → o.sa.poison = false →
        let base := o.sa.v.toNat
        let word (i : Nat) : Nat := leVal ((List.range 8).map (fun k => h.scratch.read1 (base + 8 * i + k)))
        base % 8 = 0 → base + 2048 ≤ 0x7_F000 → h.clear (padWindow + base) 2048 false → (∀ k, k < 2048 → h.scratchPoison.contains ((base + k) / 16) = false) →
        (∀ i, i < 256 → word i < 2 ^ 33) →
        let drop (x : Tile) : Tile := if x.fmt = 0x18 then { x with state := 0 } else x
        ∃ t k, exec (.rowDispatch n r) s = .next t ∧ s.tileTo t n (fun _ x => { x with vstart := 0, mt0 := drop x.mt0, mt1 := drop x.mt1 })
          ∧ t.hart? n = some k ∧ k.cbt = some ((List.range 256).map word) ∧ k.s = h.s ∧ k.fflags = h.fflags))
    ∧ (o.i = .swgt a b c → row.vl ≠ 0 → o.sew = 32 → h.allAt row.qdone = true → groupsOk (some (o.plain a)) [o.plain b] true = true →
      let act := row.actives 0 row.vstart.toNat
      let reads := act.flatMap (o.plain b).reads
      row.readable o reads →
      let g (j : Nat) : Nat × Nat × Bool := swgtElement o.sc.v.toNat (row.elem b 32 j)
      let out := (⟨o.plain a, 0x05, 0, false, o.pc, row.strip.toNat⟩ : Put).commit row (act.map (fun j => (j, .raw (g j).1, false)))
      let fl := (act.map (fun j => (g j).2.1)).foldr (· ||| ·) 0
      h.silent r e fl → exec (.rowDispatch n r) s = .next (s.rowDone n r row out.1 e fl (act.any (fun j => (g j).2.2)) (row.reshuffles reads)))

/-! Engines: copies, queue words, standing loads, Agate, Garnet (R104 to R135, R209, R210, R343 to R361, R373 to R379). -/

/-- The copy words, in the order of their modes. -/
def copyWords (a b c k : Nat) : List Instr := [.copy a b c k, .copyrO a b c k, .copyrU a b c k, .copyZ a b c k, .copyMig a b c k]

/-- A copy word whose shape record is well formed and aligned is pushed, once the hart's earlier accesses are performed, q0 has room, its token
is free and the core has a copy to spare: the token takes the copy with its addresses, shape, shortened VL and place in the order of copies; a shortened VL and a mask register each
enter the queue; the token's status is cleared, and the stream goes on. Under HCR.DET the unordered fold is the determinism trap, and bad words
trap before anything is pushed, a pitch that is not 0 in a record of one dimension among them (R209, R344 to R346). -/
def Obligations.Copies : Prop :=
  ∀ (s : State) (h : Hart) (a b c k mode : Nat) (i : Instr) (w : Nat), s.curHart = some h → (copyWords a b c k)[mode]? = some i →
    encode i = some w → (∀ n, n < 4 → h.usable (c + n) = true) → h.usable a = true → h.usable b = true →
    let ws := (List.range 4).map (fun n => h.rd (c + n))
    let det := decide (mode = 2) && h.hcr.getLsbD 0
    (∀ x, shapeBad mode ws = some x → exec i s = .next (s.trapTo 0x03 x))
    ∧ ((h.rd c).toNat / 4 % 4 = 0 → h.rd (c + 3) ≠ 0 → ∃ x, shapeBad mode ws = some x)
    ∧ (shapeBad mode ws = none → det = true → exec i s = .next (s.trapTo 0x04 (BitVec.ofNat 64 w)))
    ∧ (shapeBad mode ws = none → det = false → ∀ x, shapeMisaligned (h.rd b) (h.rd a) ws = some x → exec i s = .next (s.trapTo 0x06 x))
    ∧ (shapeBad mode ws = none → det = false → shapeMisaligned (h.rd b) (h.rd a) ws = none → h.wbuf = [] → h.performed = true →
      h.hasRoom 0 → (h.loopSince = true → ∀ e ∈ h.queue, e.isLoop = false) → (h.tokens[k]?).bind Token.job = none → s.coreCopies h.core < 64 →
      let shape : BitVec 256 := BitVec.ofNat 256 ((h.rd c).toNat + (h.rd (c + 1)).toNat * 2 ^ 64 + (h.rd (c + 2)).toNat * 2 ^ 128
        + (h.rd (c + 3)).toNat * 2 ^ 192)
      let vl := if h.loopSince then h.home.vl.toNat else h.vlSet.toNat
      let room : Int := ((h.rd (c + 2)).toNat % 65536 : Nat) - ((h.rd (c + 1)).setWidth 16).toInt
      let short := decide (room < vl)
      let n := if short then room.toNat else vl
      let mreg := (h.rd c).toNat / 16 % 8
      let j0 := CopyJob.start mode (h.rd a) (h.rd b) shape n h.level s.reqCtr
      let job := { j0 with lo := j0.srcRange, hi := j0.dstRange }
      let now := s.dev.devtime.toNat
      let end0 := h.qbase + h.queue.length
      h.queue.length + b2n short + (if mreg = 0 then 0 else 1) ≤ 64 →
      exec i s = .next (({ s with reqCtr := s.reqCtr + 1 } : State).modHart s.cur (fun x =>
        let x := if short then x.placed now end0 { op := h.captured i, sub := 1, n := n } else x
        let x := if mreg = 0 then x else x.placed now (end0 + b2n short) { op := h.captured i, sub := 2, n := k, vlmax := mreg }
        ({ x with tokens := x.tokens.setIfInBounds k { job := some job, status := 0 } } : Hart).advance)))

/-- PUSHQ puts a word into an input FIFO, once the hart's earlier accesses are performed and the FIFO has room: a plain word comes back as it is,
from q0 after the copies in flight; a token query in q0 comes back with that token's status, after its copy. Other types are the
illegal-format trap. POPQ takes the oldest word of an output FIFO, with its poison, and waits while there is none (R352). -/
def Obligations.QueuePorts : Prop :=
  ∀ (s : State) (h : Hart) (a b d : Nat), s.curHart = some h →
    let w := h.rd b
    let type := w.toNat / 2 ^ 56
    let push (c : RawCmd) : State := s.modHart s.cur (fun k =>
      ({ k with inq := k.inq.setIfInBounds a (((k.inq[a]?).getD []) ++ [c]) } : Hart).advance)
    let k := w.toNat % 8
    (h.usable b = true →
      (1 < type ∨ (type = 1 ∧ (a ≠ 0 ∨ w.toNat / 8 % 2 ^ 53 ≠ 0)) → exec (.pushq a b) s = .next (s.trapTo 0x03 w))
      ∧ (h.wbuf = [] → h.performed = true → ((h.inq[a]?).getD []).length < 16 →
        (type = 0 → exec (.pushq a b) s = .next (push { w := w, query := false, after := if a = 0 then h.copying else [], res := some w }))
        ∧ (type = 1 → a = 0 → w.toNat / 8 % 2 ^ 53 = 0 → exec (.pushq a b) s = .next (push
          { w := w, query := true, after := if k ∈ h.copying then [k] else [],
            res := if k ∈ h.copying then none else (h.tokens[k]?).map Token.status })))
      ∧ (h.wbuf ≠ [] → type = 0 → exec (.pushq a b) s = .next s))
    ∧ (h.owed d = false →
      (∀ x rest, (h.outq[b - 4]?).getD [] = x :: rest → exec (.popq d b) s = .next (s.modHart s.cur (fun k =>
        (({ k with outq := k.outq.setIfInBounds (b - 4) rest } : Hart).wr d x.v x.poison).advance)))
      ∧ ((h.outq[b - 4]?).getD [] = [] → exec (.popq d b) s = .next s))

/-- Standing loads, once the earlier accesses are performed and q3 has room (R169). A subscription to device memory installs its slot with the value it reads and answers 0; a slot in use answers 1 and a full
quota, of this device's entries of the function (R64), 2, and a home slice whose 4,096 entries are in use 3. A subscription to memory of another device asks that device's home with a request of kind 6
(whose payload is the model's choice: log 11, DESIGN CHOICE, unsafe) and waits: a fabric status is the fabric fault at the address, a full table answers 3, and else the slot is installed with the value that came, and
pushes that came before it are delivered. SLOTRD takes what the slot gives, or waits; a LATEST slot with a fresh value gives it once, with its sequence number and the count
of missed pushes; a QUEUE pair gives its oldest entry, with DROPPED once, and then the next; an empty one waits, or says NONE with NOWAIT. UNSUB removes the subscription, at its home on another device first, whose answer it waits for: a
status other than OK is the fabric fault; pushes on their way are delivered, and the slot frees; without one it answers 1 (R51, R357 to R360). That the words wait for every earlier
access is the model's reading of R209 (log 6, DEDUCED, safe). -/
def Obligations.StandingLoads : Prop :=
  ∀ (s : State) (h : Hart) (a b c : Nat) (queue : Bool), s.curHart = some h → h.usable b = true → h.owed a = false →
    let u := s.retry s.cur 0
    let done (t : State) : State := t.settle t.cur 0
    let sub (queue : Bool) : Instr := if queue then .ldstandQueue a b c else .ldstandLatest a b c
    (h.usable c = true → (h.rd c).toNat < 64 → (queue = true → (h.rd c).toNat % 2 = 0) → h.wbuf = [] → h.performed = true → h.hasRoom 3 →
      let va := (h.rd b).toNat
      let n := (h.rd c).toNat
      let acc := s.accOf h 0
      let free := h.slotFree n && (!queue || h.slotFree (n + 1))
      let full := match s.subQuota h.fn with
        | some q => decide (q ≤ (s.subs.filter (fun (u : Sub) => u.fn == h.fn && decide (u.hart < 2 ^ 40))).length)
        | none => false
      ∀ t pa, va % 8 = 0 → va < padWindow → apertureOf acc va u = .ok none u → xlate acc va false [0, 2] false u = .ok t u →
        (free = false → exec (sub queue) s = .next (done (u.result a 1)))
        ∧ (free = true → full = true → exec (sub queue) s = .next (done (u.result a 2)))
        ∧ (free = true → full = false → s.hereDest t.dest = .localM pa → pa + 8 ≤ paLimit →
          4096 ≤ (s.subs.filter (fun (u : Sub) => u.dev.isNone && s.homeSlice (u.addr / 64) == s.homeSlice (pa / 64))).length →
          exec (sub queue) s = .next (done (u.result a 3)))
        ∧ (∀ fa ro, free = true → full = false → s.hereDest t.dest = .remote fa ro →
          let ask : ExtAsk := { host := false, kind := 6, addr := fa, len := 8, write := true, data := subTag h.id * 64 + n }
          (∀ st s1, extAccess acc ask u = .ok (.error st) s1 → exec (sub queue) s = .next (s.trapFrom s1 0x0B (h.rd b) st))
          ∧ (∀ v p keep s1 k, extAccess acc ask u = .ok (.ok (v, p, keep)) s1 → s1.curHart = some k → k.owed a = false →
            (2 ^ 64 ≤ v → exec (sub queue) s = .next (done (s1.result a 3)))
            ∧ (v < 2 ^ 64 →
              let s2 := ({ s1.modHart s1.cur (fun x => x.installSlot queue n va v ((bytePoison fa 8 p).any id)) with
                subs := s1.subs ++ [({ addr := fa, fn := h.fn, hart := h.id, slot := n, seq := 0, dev := some (fa / 2 ^ 47 % 2 ^ 10) } : Sub)] } : State).earlyArrive
              let s3 := (s2.countBytes acc.gang (sectorCount fa 8)).numberAccess acc.die t
              (∃ k, s3.curHart = some k ∧ k.owed a = false) → exec (sub queue) s = .next (done (s3.result a 0)))))
        ∧ (∀ r s1 k, free = true → full = false → s.hereDest t.dest = .localM pa → pa + 8 ≤ paLimit →
          (s.subs.filter (fun (u : Sub) => u.dev.isNone && s.homeSlice (u.addr / 64) == s.homeSlice (pa / 64))).length < 4096 →
          readPiece acc va t 8 true none u = .ok r s1 → s1.curHart = some k → k.owed a = false →
          exec (sub queue) s = .next (done (({ s1 with subs := s1.subs ++ [
            ({ addr := pa, fn := h.fn, hart := h.id, slot := n, seq := 0, dev := none } : Sub)] }.modHart s1.cur
              (fun x => x.installSlot queue n va (leVal r.1) (r.2.any id))).result a 0))))
    ∧ ((h.rd b).toNat < 512 → (h.rd b).toNat / 64 % 4 = 0 → h.owed c = false → h.wbuf = [] → h.performed = true → h.hasRoom 3 →
      let n := (h.rd b).toNat % 64
      let nowait := (h.rd b).getLsbD 8
      (∀ v p w x, h.slotRead n nowait = some (v, p, w, x) → exec (.slotrd a b c) s = .next (s.modHart s.cur (fun k =>
        ((({ k with slots := k.slots.setIfInBounds n x } : Hart).wr a v p).wr c w).advance)))
      ∧ (h.slotRead n nowait = none → exec (.slotrd a b c) s = .next s)
      ∧ (∀ x : BitVec 512, h.slots[n]? = some x → x.toNat / 2 ^ 120 % 8 = 1 → h.secondOf n = false → h.slotPairs.getLsbD n = false →
        (x.getLsbD 123 = true → ∃ y, h.slotRead n nowait = some (x.setWidth 64, h.slotPoison.getLsbD (8 * n),
          BitVec.ofNat 64 (x.toNat / 2 ^ 64 % 2 ^ 48 + x.toNat / 2 ^ 112 % 256 * 2 ^ 48), y)
          ∧ y.getLsbD 123 = false ∧ y.toNat / 2 ^ 112 % 256 = 0 ∧ y.setWidth 112 = x.setWidth 112)
        ∧ (x.getLsbD 123 = false → nowait = false → h.slotRead n nowait = none))
      ∧ (∀ x y : BitVec 512, h.slots[n]? = some x → h.slots[n + 1]? = some y → n % 2 = 0 → h.slotPairs.getLsbD n = true → x.toNat / 2 ^ 120 % 8 = 2 →
        let head := x.toNat / 2 ^ 125 % 8
        let count := x.toNat / 2 ^ 112 % 256
        (count ≠ 0 → ∃ z, h.slotRead n nowait = some (BitVec.ofNat 64 (y.toNat / 2 ^ (64 * head) % 2 ^ 64), h.slotPoison.getLsbD (8 * (n + 1) + head),
          BitVec.ofNat 64 (x.toNat / 2 ^ 64 % 2 ^ 48 + x.toNat / 2 ^ 124 % 2 * 2 ^ 56), z)
          ∧ z.toNat / 2 ^ 112 % 256 = count - 1 ∧ z.toNat / 2 ^ 125 % 8 = (head + 1) % 8 ∧ z.getLsbD 124 = false
          ∧ z.toNat / 2 ^ 64 % 2 ^ 48 = (x.toNat / 2 ^ 64 % 2 ^ 48 + 1) % 2 ^ 48 ∧ z.toNat / 2 ^ 120 % 8 = 2 ∧ z.setWidth 64 = x.setWidth 64)
        ∧ (count = 0 → nowait = false → h.slotRead n nowait = none)
        ∧ (count = 0 → nowait = true → h.slotRead n nowait = some (0, false, BitVec.ofNat 64 (2 ^ 58), x))))
    ∧ ((h.rd b).toNat < 64 → h.wbuf = [] → h.performed = true → h.hasRoom 3 →
      let n := (h.rd b).toNat
      (h.slotFree n = true ∨ h.secondOf n = true → exec (.unsub a b) s = .next (done (u.result a 1)))
      ∧ (∀ p st s0, h.slotFree n = false → h.secondOf n = false →
        s.subs.filter (fun u => u.hart == h.id && u.slot == n) = [p] → p.dev.isSome = true → extAccess (s.accOf h 0) p.endAsk u = .ok (.error st) s0 →
        exec (.unsub a b) s = .next (s.trapFrom s0 0x0B (BitVec.ofNat 64 (((h.slots[n]?).getD 0).toNat / 2 ^ 128 % 2 ^ 64)) st))
      ∧ (∀ s0, h.slotFree n = false → h.secondOf n = false →
        (s.subs.filter (fun u => u.hart == h.id && u.slot == n)).forM (farUnsub (s.accOf h 0) h) u = .ok () s0 →
        let s1 := (s0.pushes.filter (fun p => p.hart == h.id && p.slot == n)).foldl State.deliverPush
          { s0 with pushes := s0.pushes.filter (fun p => !(p.hart == h.id && p.slot == n)) }
        ∀ k, s1.curHart = some k → k.owed a = false →
        exec (.unsub a b) s = .next (done (({ s1 with subs := s1.subs.filter (fun u => !(u.hart == h.id && u.slot == n)) }.modHart s1.cur
          (fun k => k.freeSlot n)).result a 0))))

/-- Agate, once the earlier accesses are performed and q1 has room (R169). PBIND reads its record and combiner, neither of which may lie in the
register window (R63), decoded where they lie in an aperture (R33), and binds the lowest free handle, or answers status 1 for a malformed record, 2 for a bad
combiner, 3 for no room; PFREE, accepted, waits for what Agate accepted before it for the stream from other harts, and then unbinds; what reaches
Agate after it finds the handle unbound; PSYNC goes on once the merges of the appends it saw have run, and traps on a handle that is not bound
or broken; PSTAT answers the stream's flags, state, pending merges and appends (R105 to R107, R111, R115, R375). The model's choice: what a combiner
block may hold, and when PFREE and PSYNC meet (log 55, DEDUCED, unsafe), that the engine takes a word at once (log 72, DEDUCED, safe), and QUOTA where all handles
of a function without a quota are taken (log 82, DESIGN CHOICE, unsafe). -/
def Obligations.AgateWords : Prop :=
  ∀ (s : State) (h : Hart) (a b : Nat), s.curHart = some h → h.usable b = true → h.wbuf = [] → h.performed = true → h.hasRoom 1 →
    let free (t : State) : Prop := ∃ k, t.curHart = some k ∧ k.owed a = false
    let done (t : State) : State := t.settle t.cur 0
    let x := (h.rd b).toNat
    let acc : Acc := { s.accOf h 3 with uncounted := true }
    (h.owed a = false → x % 64 = 0 → regWindow ≤ x → x < 2 ^ 57 → exec (.pbind a b) s = .next (s.trapTo 0x07 (h.rd b)))
    ∧ (∀ rb s1, h.owed a = false → x % 64 = 0 → x < regWindow → readAny acc x 64 [0] (s.retry s.cur 0) = .ok rb s1 → rb.2.any id = false → free s1 →
      let r := leVal rb.1
      (streamMalformed r = true → exec (.pbind a b) s = .next (done (s1.result a 0x1_0000)))
      ∧ (∀ cb s2, streamMalformed r = false → stComb r + 4 * stWords r ≤ regWindow → readAny acc (stComb r) (4 * stWords r) [0] s1 = .ok cb s2 → cb.2.any id = false → free s2 →
        let words := (List.range (stWords r)).map (fun i => leVal ((cb.1.drop (4 * i)).take 4))
        (s2.badComb r words = true → exec (.pbind a b) s = .next (done (s2.result a 0x2_0000)))
        ∧ (s2.badComb r words = false → (s2.streamFull h.fn = true ∨ s2.freeHandle h.fn = none) → exec (.pbind a b) s = .next (done (s2.result a 0x3_0000)))
        ∧ (∀ n s3 s4, s2.badComb r words = false → s2.streamFull h.fn = false → s2.freeHandle h.fn = some n →
          probePages acc true [0] ((List.range (storeBytes r / 4096)).map (fun i => stStore r + 4096 * i)) s2 = .ok () s3 →
          writeMem acc (stStore r) (List.replicate 64 0) (List.replicate 64 false) [0] true s3 = .ok () s4 → free s4 →
          exec (.pbind a b) s = .next (done ({ s4 with streams := s4.streams ++ [
            Stream.empty h.fn n (BitVec.ofNat 512 r) words] }.result a (BitVec.ofNat 64 n))))))
    ∧ (x < 2 ^ 16 →
      let taken := ∃ g ∈ s.harts, g.fn = h.fn ∧ g.id ≠ h.id ∧ g.pfreeAt = some x
      let unbound := s.stream? h.fn x = none ∨ (taken ∧ h.agateBusy x = false)
      let bound (st : Stream) : Prop := s.stream? h.fn x = some st ∧ (taken → h.agateBusy x = true)
      (unbound → exec (.pfree b) s = .next (s.modHart s.cur (fun k => ({ k with pfreeAt := none } : Hart).advance)))
      ∧ (∀ st, bound st → (∀ g ∈ s.harts, g.fn = h.fn → g.id ≠ h.id → g.agateBusy x = false) → exec (.pfree b) s = .next
        ({ s with streams := s.streams.filter (fun st => !(st.fn == h.fn && st.handle == x)) }.modHart s.cur
          (fun k => ({ k with pfreeAt := none } : Hart).advance)))
      ∧ (∀ st, bound st → (∃ g ∈ s.harts, g.fn = h.fn ∧ g.id ≠ h.id ∧ g.agateBusy x = true) → exec (.pfree b) s = .next
        (s.modHart s.cur (fun k => { k with pfreeAt := some x })))
      ∧ (unbound → exec (.psync b) s = .next
          (s.trapFrom (s.modHart s.cur (fun k => { k with psyncAt := none })) 0x0E (h.rd b) 2)
        ∧ (h.owed a = false → exec (.pstat a b) s = .next (s.result a 0)))
      ∧ (∀ st, bound st → st.broken = true → exec (.psync b) s = .next
          (s.trapFrom (s.modHart s.cur (fun k => { k with psyncAt := none })) 0x0E (h.rd b) 3))
      ∧ (∀ st, bound st → st.broken = false →
        let m := match h.psyncAt with
          | some (y, m) => if y = x then m else st.appends
          | none => st.appends
        exec (.psync b) s = .next (if st.synced m then s.modHart s.cur (fun k => ({ k with psyncAt := none } : Hart).advance)
          else s.modHart s.cur (fun k => { k with psyncAt := some (x, m) })))
      ∧ (∀ st, bound st → h.owed a = false → exec (.pstat a b) s = .next (s.result a
          (BitVec.ofNat 64 (st.flags.toNat + b2n st.sat * 32 + (if st.broken then 512 else 256) + min 65535 st.pending * 65536
            + st.appends % 2 ^ 32 * 2 ^ 32)))))
    ∧ (2 ^ 16 ≤ x → exec (.pfree b) s = .next (s.trapTo 0x03 (h.rd b)) ∧ exec (.psync b) s = .next (s.trapTo 0x03 (h.rd b))
      ∧ (h.owed a = false → exec (.pstat a b) s = .next (s.trapTo 0x03 (h.rd b))))

/-- Garnet commands. KVMAP answers the address of a row, or its status with bit 63 set; KVFORK, KVREL, KVCOW and, at manager level, KVFORK.M are performed
at issue, with room in q1 and q5, and their status word enters q1. Each waits while the pool of its function initialises, KVFORK.M while its destination's does too, KVREL while a parked KVLD names its sequence,
and a sequence operand, the first or the second, with bits above its fields is the illegal-format trap, as is a KVFORK.M destination that names no
function of 1 to 64 (R122, R132, R377, R378). That bound, the level of the metadata accesses and the pages of a pool are the model's choice (log 56, DEDUCED, unsafe), as is
what Garnet makes of poison and of a fault in its metadata (log 83, DESIGN CHOICE, unsafe). -/
def Obligations.KvCommands : Prop :=
  ∀ (s : State) (h : Hart) (a b c : Nat), s.curHart = some h → h.usable b = true → h.usable c = true → h.wbuf = [] → h.performed = true →
    let acc := s.accOf h 4
    let x := (h.rd b).toNat
    let y := (h.rd c).toNat
    let free (t : State) : Prop := ∃ k, t.curHart = some k ∧ k.owed a = false
    let room (t : State) : Prop := ∃ k, t.curHart = some k ∧ ((k.inq[1]?).getD []).length < 16
    let answer (t : State) (st : Nat) : State := t.modHart t.cur (fun k => ({ k with
      inq := k.inq.setIfInBounds 1 (((k.inq[1]?).getD []) ++ [
        { w := BitVec.ofNat 64 st, query := false, after := [], res := some (BitVec.ofNat 64 st) }]) } : Hart).advance)
    let ready := ((h.outq[1]?).getD []).length < 16 ∧ ((h.inq[1]?).getD []).length < 16
    ((s.fn h.fn).kvBusy = false →
      (∀ s1, h.owed a = false → h.hasRoom 1 → x < 2 ^ 24 → free s1 →
        (∀ va, kvRun acc (kvMap acc (x % 2 ^ 20) (x / 2 ^ 20) y) s = .ok (.ok va) s1 → exec (.kvmap a b c) s = .next (s1.result a (BitVec.ofNat 64 va)))
        ∧ (∀ st, kvRun acc (kvMap acc (x % 2 ^ 20) (x / 2 ^ 20) y) s = .ok (.error st) s1 →
          exec (.kvmap a b c) s = .next (s1.result a (BitVec.ofNat 64 (2 ^ 63 + st)))))
      ∧ (∀ st s1, ready → room s1 →
        (x < 2 ^ 24 → y < 2 ^ 24 → kvStatus acc (kvFork acc (x % 2 ^ 20) (y % 2 ^ 20)) s = .ok st s1 → exec (.kvfork b c) s = .next (answer s1 st))
        ∧ (x < 2 ^ 24 → s.kvldOpen h.fn (x % 2 ^ 20) = false → kvStatus acc (kvRelease acc h.fn (x % 2 ^ 20)) s = .ok st s1 →
          exec (.kvrel b) s = .next (answer s1 st))
        ∧ (h.level ≠ 0 → x < 2 ^ 24 →
          (kvRun acc (kvCow acc (x % 2 ^ 20) y) s = .ok (.error st) s1 → exec (.kvcow b c) s = .next (answer s1 st))
          ∧ (∀ bad s0, kvRun acc (kvCow acc (x % 2 ^ 20) y) s = .ok (.ok bad) s0 →
            s1 = bad.foldl (fun (t : State) z => t.kvNotify z.1 z.2.1 z.2.2) s0 →
            exec (.kvcow b c) s = .next (answer s1 0)))
        ∧ (2 ≤ h.level → x < 2 ^ 27 → 1 ≤ x / 2 ^ 20 → x / 2 ^ 20 ≤ 64 → y < 2 ^ 24 → (s.fn (x / 2 ^ 20)).kvBusy = false →
          kvStatus acc (kvForkM acc (x / 2 ^ 20) (x % 2 ^ 20) (y % 2 ^ 20)) s = .ok st s1 → exec (.kvforkM b c) s = .next (answer s1 st))))
    ∧ (2 ^ 24 ≤ x → exec (.kvfork b c) s = .next (s.trapTo 0x03 (h.rd b)) ∧ exec (.kvrel b) s = .next (s.trapTo 0x03 (h.rd b))
      ∧ (h.owed a = false → exec (.kvmap a b c) s = .next (s.trapTo 0x03 (h.rd b)))
      ∧ (h.level ≠ 0 → exec (.kvcow b c) s = .next (s.trapTo 0x03 (h.rd b))))
    ∧ (x < 2 ^ 24 → 2 ^ 24 ≤ y → exec (.kvfork b c) s = .next (s.trapTo 0x03 (h.rd c)))
    ∧ (2 ≤ h.level → 2 ^ 27 ≤ x ∨ x / 2 ^ 20 = 0 ∨ 64 < x / 2 ^ 20 % 128 ∨ x / 2 ^ 20 % 128 = 0 → exec (.kvforkM b c) s = .next (s.trapTo 0x03 (h.rd b)))
    ∧ (2 ≤ h.level → x < 2 ^ 27 → 1 ≤ x / 2 ^ 20 → x / 2 ^ 20 ≤ 64 → 2 ^ 24 ≤ y → exec (.kvforkM b c) s = .next (s.trapTo 0x03 (h.rd c)))
    ∧ ((s.fn h.fn).kvBusy = true →
      (h.owed a = false → h.hasRoom 1 → x < 2 ^ 24 → exec (.kvmap a b c) s = .next s)
      ∧ (ready → x < 2 ^ 24 → exec (.kvrel b) s = .next s ∧ (y < 2 ^ 24 → exec (.kvfork b c) s = .next s)
        ∧ (h.level ≠ 0 → exec (.kvcow b c) s = .next s)))
    ∧ (2 ≤ h.level → ready → x < 2 ^ 27 → 1 ≤ x / 2 ^ 20 → x / 2 ^ 20 ≤ 64 → y < 2 ^ 24 →
      ((s.fn h.fn).kvBusy = true ∨ (s.fn (x / 2 ^ 20)).kvBusy = true) → exec (.kvforkM b c) s = .next s)
    ∧ (ready → x < 2 ^ 24 → (s.fn h.fn).kvBusy = false → s.kvldOpen h.fn (x % 2 ^ 20) = true → exec (.kvrel b) s = .next s)

/-! Events: power, registers, the host, the fabric, the scheduler, engines. -/

/-- Power, bring-up, sensors, current, device reset, repair, machine checks. POWER_ON starts stage 1 with every register at its reset
value; a stage completes or fails, stage 2 loads the repair state into RASCAP, and stage 3 clears the LLC, the subscriptions, Garnet and Agate; a device
reset begins again at stage 3, or at the stage before it that is not complete, and keeps memory, repair, DEVTIME and RASCAP; the sensors set TMAX, WARN, the
cap of 8 lanes and the trip; every reading of the average reaches AVGW and LANES moves by 4; DEVTIME counts nanoseconds; a row is repaired by the first stage
that can; a machine check of a base die stops every gang, ends those that wait, and resets the device once all have completed (R7 to R18, R39, R42, R72, R195,
R234). The model's choice: what STAGE reads between stages and which threshold sends again (log 16, DEDUCED, unsafe), what a device reset keeps (log 59, DEDUCED, unsafe) and
where it begins (log 74, DESIGN CHOICE, unsafe), the repair state that power removal leaves (log 73, DEDUCED, unsafe), 18 fifths of a cycle a nanosecond (log 28, DESIGN CHOICE, unsafe), which product a
timing error meets (log 25, DESIGN CHOICE, safe), a replaced remap entry (log 80, DESIGN CHOICE, unsafe), and a reset's waiting for the records of its gangs (log 60, DEDUCED, unsafe). -/
def Obligations.PowerEvents : Prop :=
  ∀ (s : State), let d := s.dev; let st := BF d.idstat 0 4; let L := BF d.pwrstat 3 5; let P := BF d.pwrctl 0 13
    ((s.powered = false ∨ (st = 0 ∧ d.devtime = 0)) → ∃ t, exec .powerOn s = .next t ∧ t.powered = true
      ∧ t.dev = { DevRegs.reset with idstat := 1 } ∧ t.fns = Vector.replicate 65 FnRegs.reset ∧ t.harts = [] ∧ t.gangs = []
      ∧ t.mem = s.mem ∧ t.poison = s.poison ∧ t.repair = s.repair)
    ∧ (s.powered = true →
      (∀ ok, 1 ≤ st → st < 7 → BB d.idstat 4 = false → ∃ t, exec (.bringupStage ok) s = .next t
        ∧ t.dev = { d with idstat := BitVec.ofNat 64 (if ok then st + 1 else st + 16), rascap := t.dev.rascap }
        ∧ (st ≠ 2 ∨ ok = false → t.dev.rascap = d.rascap)
        ∧ (st = 2 → ok = true → (∀ k, k < 16 → BF t.dev.rascap 16 16 ≤ 4096 - s.repair.remapped k)
            ∧ BF t.dev.rascap 0 16 = s.repair.freeSpares.length)
        ∧ (st ≠ 3 ∨ ok = false → t = { s with dev := t.dev })
        ∧ (st = 3 → ok = true → t.llc = [] ∧ t.subs = [] ∧ t.pushes = [] ∧ t.streams = [] ∧ t.harts = s.harts))
      ∧ (st ≠ 0 → ∃ t, exec .deviceReset s = .next t ∧ t.dev.idstat = BitVec.ofNat 64 (min 3 st) ∧ t.dev.devtime = d.devtime ∧ t.dev.rascap = d.rascap
        ∧ BF t.dev.thermstat 2 1 = BF d.thermstat 2 1 ∧ t.dev.pwrctl = 4500 ∧ t.fns = Vector.replicate 65 FnRegs.reset
        ∧ t.harts = [] ∧ t.gangs = [] ∧ t.mem = s.mem ∧ t.poison = s.poison ∧ t.repair = { s.repair with errs := [] })
      ∧ (∃ t, exec .powerRemoval s = .next t ∧ t.powered = false ∧ t.dev = DevRegs.reset ∧ t.harts = [] ∧ t.gangs = [] ∧ t.mem = []
        ∧ t.repair = { s.repair with errs := [] })
      ∧ (∀ tmax i, (i = .thermalWarning tmax ∧ 95 ≤ tmax) ∨ (i = .thermalCap tmax ∧ 105 ≤ tmax)
          ∨ (i = .thermalCapClear tmax ∧ tmax < 100) ∨ (i = .thermalTrip tmax ∧ 115 ≤ tmax) →
        ∃ t, exec i s = .next t ∧ BF t.dev.thermstat 32 8 = min 255 tmax ∧ t.mem = s.mem
          ∧ (tmax < 115 → t.harts = s.harts ∧ t.dev.idstat = d.idstat ∧ BB t.dev.thermstat 2 = BB d.thermstat 2)
          ∧ (95 ≤ tmax → tmax < 115 → BB t.dev.thermstat 1 = true ∧ (BB (s.fn 0).msixMask 2 = false →
              (BF d.thermstat 32 8 < 95 ∨ BB d.thermstat 1 = false) → t.outbox = s.outbox ++ [.msix 0 2]))
          ∧ (105 ≤ tmax → tmax < 115 → BB t.dev.pwrstat 2 = true ∧ BF t.dev.pwrstat 3 5 = min 8 L ∧ BB t.dev.pwrstat 1 = true)
          ∧ (tmax < 100 → BB t.dev.pwrstat 2 = false ∧ BF t.dev.pwrstat 3 5 = L)
          ∧ (115 ≤ tmax → t.dev.idstat = BitVec.ofNat 64 (min 3 st) ∧ BB t.dev.thermstat 2 = true ∧ t.harts = [] ∧ t.gangs = []))
      ∧ (∀ amps, 9000 < amps → exec (.peakCurrentGuard amps) s = .next (s.modDev (fun d => { d with
          pwrstat := WS d.pwrstat 16 16 (min 65535 (BF d.pwrstat 16 16 + 1)) })))
      ∧ (∀ avgw, ∃ v, exec (.lanesDecrease avgw) s = .next (s.modDev (fun d => { d with pwrstat := v }))
          ∧ BF v 32 16 = min 65535 avgw ∧ BF v 16 16 = BF d.pwrstat 16 16 ∧ BB v 2 = BB d.pwrstat 2
          ∧ (P < avgw → 4 < L → BF v 3 5 = L - 4 ∧ BB v 1 = decide (L - 4 < 16))
          ∧ ((avgw ≤ P ∨ L ≤ 4) → BF v 3 5 = L ∧ BB v 1 = BB d.pwrstat 1))
      ∧ (∀ avgw, let cap := if BB d.pwrstat 2 then 8 else 16
          ∃ v, exec (.lanesIncrease avgw) s = .next (s.modDev (fun d => { d with pwrstat := v }))
          ∧ BF v 32 16 = min 65535 avgw ∧ BF v 16 16 = BF d.pwrstat 16 16 ∧ BB v 2 = BB d.pwrstat 2
          ∧ (100 * avgw < 95 * P → L < cap → BF v 3 5 = min cap (L + 4) ∧ BB v 1 = decide (min cap (L + 4) < 16))
          ∧ ((95 * P ≤ 100 * avgw ∨ cap ≤ L) → BF v 3 5 = L ∧ BB v 1 = BB d.pwrstat 1))
      ∧ (st ≠ 0 → exec .devtimeAdvance s = .next { s with
          dev := { d with devtime := d.devtime + 1 }
          harts := s.harts.map (fun (h : Hart) => if h.saved then h else { h with placedCyc := h.placedCyc + 18 })
          gangs := s.gangs.map (fun (g : Gang) =>
            { g with cyc := g.cyc + 18 * (s.harts.filter (fun h => h.gang == g.id && !h.saved)).length }) })
      ∧ (∀ stack subch bank row b, stack < 16 → subch < 128 → bank < 16 → row < 12288 → s.bankAt stack subch = some b →
          let r := s.repair
          let loc := (stack, subch, bank, row)
          let bk := (stack, subch, bank)
          loc ∉ r.retired →
          let go : Instr := .rowRepair stack subch bank row
          let place := if r.remapped stack < 4096 then r.nextReserved else none
          let first := r.pprUsed bk < 4 ∧ (r.remapped stack < 4096 ∨ r.nextReserved.isSome = true)
          (first → ∃ p, exec go s = .next { s with repair := { r with ppr := p } }
            ∧ ∀ bk', { r with ppr := p }.pprUsed bk' = if bk' = bk then r.pprUsed bk + 1 else r.pprUsed bk')
          ∧ (∀ n, ¬ first → place = some n → n ∉ r.reserved ∧ exec go s = .next { s with repair := { r with
              remaps := r.remaps.filter (fun (x : (Nat × Nat × Nat × Nat) × Nat) => x.1 != loc) ++ [(loc, n)], reserved := r.reserved ++ [n] } }.setRascap)
          ∧ (¬ first → place = none → (∃ x ∈ r.copying, x.1 = b) → exec go s = .next s)
          ∧ (¬ first → place = none → (∀ x ∈ r.copying, x.1 ≠ b) →
              (∀ k rest, r.freeSpares = k :: rest → exec go s = .next { s with
                repair := { r with copying := r.copying ++ [(b, k)], sparesUsed := r.sparesUsed ++ [k] } }.setRascap)
              ∧ (r.freeSpares = [] → exec go s = .next (s.retireRow loc b))))
      ∧ (∀ bank x, s.repair.copying.find? (fun y => y.1 == bank) = some x → ∃ t, exec (.spareCopyComplete bank) s = .next (t.kvRasLine bank)
          ∧ t.bankLoc bank = (7 + x.2, 127) ∧ (∀ y ∈ t.repair.copying, y.1 ≠ bank) ∧ t.harts = s.harts
          ∧ (∀ y ∈ t.repair.remaps, (y.1.1, y.1.2.1) ≠ s.bankLoc bank)
          ∧ (∀ y ∈ s.repair.remaps, (y.1.1, y.1.2.1) = s.bankLoc bank → y.2 ∉ t.repair.reserved)
          ∧ ((∀ f, BB (s.fn f).kvpool 0 = false) → exec (.spareCopyComplete bank) s = .next t))
      ∧ (∀ scope index unit, scope ≤ 2 → index < (if scope = 0 then 192 else 4) → ∃ t, exec (.machineCheck scope index unit) s = .next t
          ∧ (scope = 2 → (s.gangs.all (fun g => g.phase == .queued && (g.line.isSome || g.cpladdr != 0)) = true → s.cpls = [] → t.dev.idstat = BitVec.ofNat 64 (min 3 st) ∧ t.harts = [] ∧ t.gangs = [])
              ∧ (s.gangs.all (fun g => g.phase == .queued) = false → t.resetDue = true
                ∧ ∀ g ∈ t.gangs, g.phase ≠ .queued ∧ ∃ c, g.stop = some (6, c)))
          ∧ (scope < 2 → ∀ g, s.gang? g.id = some g → s.gangOn g.id (fun c => if scope = 0 then c == index else c / 48 == index) = true →
              ∃ g' c, t.gang? g.id = some g' ∧ g'.stop = some (6, c) ∧ ∀ h ∈ t.harts, h.gang = g.id → h.stopped = true))
      ∧ exec (.timingErrorReplay false) s = .next (s.modDev (fun d => { d with
          oscnt := WS d.oscnt 0 32 (min (2 ^ 32 - 1) (BF d.oscnt 0 32 + 1)) }))
      ∧ ((∃ h ∈ s.harts, BB h.hcr 2 = true) → exec (.timingErrorReplay true) s = .next { s.modDev (fun d => { d with
          oscnt := WS d.oscnt 32 32 (min (2 ^ 32 - 1) (BF d.oscnt 32 32 + 1)) }) with leftErr := s.leftErr + 1 }))

/-- What a write stores in each register of BAR0 and what it starts: a field keeps the bits of the value written, clamped where its rule
clamps, a field that ones clear is cleared by any of them, and the rest of the register and of the device stays (R10, R13, R16, R21, R28, R36,
R48, R54, R63 to R67, R71, R77, R82, R85, R87, R91, R92, R99, R100, R121, R122, R141, R195, R215, R228, R384). The model's choice: that a write which its condition
forbids stores nothing (log 21, DESIGN CHOICE, safe), the mask bits (log 17, PRESUMED, unsafe), LWIN written in two parts (log 53, DEDUCED, unsafe), a SUBQ above its range (log 81,
DESIGN CHOICE, unsafe), far ranges that together pass the far tier (log 79, DESIGN CHOICE, unsafe), which checks of TREESET go first (log 51, DEDUCED, unsafe), TREESTAT.TREE while busy (log 75,
DESIGN CHOICE, unsafe), when an invalidation and a flush are over (log 52, DEDUCED, unsafe), and TIME in records (log 60, DEDUCED, unsafe). -/
def Obligations.RegisterWrites : Prop :=
  ∀ (s : State) (v : Nat), s.powered = true →
    let d := s.dev
    let dev (g : DevRegs → DevRegs) : Out State := .next (s.modDev g)
    let w (x : Nat) : Word := BitVec.ofNat 64 x
    let f := bits v
    exec (.pwrctlWrite v) s = dev (fun d => { d with pwrctl := w (max 1800 (min 4500 (f 0 13))) })
    ∧ exec (.pwrstatWrite v) s = dev (fun d => { d with pwrstat := if f 16 16 = 0 then d.pwrstat else WS d.pwrstat 16 16 0 })
    ∧ exec (.thermstatWrite v) s = dev (fun d => { d with thermstat :=
        (let x := if f 2 1 = 0 then d.thermstat else WS d.thermstat 2 1 0;
         if f 1 1 = 0 then x else WS x 1 1 0) })
    ∧ exec (.memerrWrite v) s = dev (fun d => { d with memerr := if f 0 32 = 0 then d.memerr else WS d.memerr 0 32 0 })
    ∧ exec (.oscntWrite v) s = dev (fun d => { d with oscnt :=
        (let x := if f 32 32 = 0 then d.oscnt else WS d.oscnt 32 32 0;
         if f 0 32 = 0 then x else WS x 0 32 0) })
    ∧ exec (.heatcfgWrite v) s = dev (fun d => { d with heatcfg :=
        (let n := max 4 (min 16 (f 16 5));
         w (f 32 1 * 2 ^ 32 + n * 2 ^ 16 + f 0 16 % 2 ^ n)) })
    ∧ exec (.schedcfgWrite v) s = dev (fun d => { d with schedcfg :=
        (w (max 1 (f 8 16) * 2 ^ 8 + (if ∃ g ∈ s.gangs, g.cls = 0 then f 0 8 ||| BF d.schedcfg 0 8 else f 0 8))) })
    ∧ exec (.schedstatWrite v) s = dev (fun d => { d with preempt := if f 48 16 = 0 then d.preempt else 0 })
    ∧ exec (.fabcfgWrite v) s = dev (fun d => { d with fabcfg := w (max 1 (f 32 16) * 2 ^ 32 + f 16 10 * 2 ^ 16) })
    ∧ exec (.launchwinWrite v) s = dev (fun d => { d with launchwin := w (f 10 37 * 1024) })
    ∧ (∀ p, p < 20 → ∃ x, exec (.fabpstatWrite p v) s = .next (s.modPort p (fun _ => x))
        ∧ BF x 32 16 = (if f 32 16 = 0 then BF ((d.fabpstat[p]?).getD 0) 32 16 else 0)
        ∧ BF x 16 16 = (if f 16 16 = 0 then BF ((d.fabpstat[p]?).getD 0) 16 16 else 0) ∧ BF x 0 16 = BF ((d.fabpstat[p]?).getD 0) 0 16)
    ∧ (∀ fn, fn < 65 →
      let g := s.fn fn
      let put (x : FnRegs) : Out State := .next (s.modFn fn (fun _ => x))
      exec (.surftabWrite fn v) s = put { g with surftab := w (f 16 41 * 2 ^ 16 + min 1024 (f 0 11)) }
      ∧ exec (.surfflushWrite fn v) s = put { g with
          surfBusy := true, surfPending := g.surfPending ++ [if f 11 1 = 1 then 2048 else f 0 11] }
      ∧ exec (.fabpartWrite fn v) s = put { g with fabpart := w (min 256 (f 16 9) * 2 ^ 16 + f 0 16) }
      ∧ exec (.launchstatWrite fn v) s = put { g with partial16 := if f 32 16 = 0 then g.partial16 else 0 }
      ∧ exec (.frstatWrite fn v) s = put { g with frstat := if f 32 16 = 0 then g.frstat else WS g.frstat 32 16 0 }
      ∧ exec (.xlinvWrite fn v) s = put (if g.xlBusy then { g with xlWaiting := g.xlWaiting ++ [w v] }
          else { g with xlBusy := true, xlVA := f 12 45, xlLog2n := f 0 6 })
      ∧ exec (.savecfgWrite fn v) s = (if ∃ x ∈ s.gangs, x.fn = fn then .next s
          else put { g with savecfg := w (f 21 36 * 2 ^ 21 + max 1 (min 64 (f 7 7)) * 2 ^ 7 + min 16 (f 0 5)) })
      ∧ exec (.kvpoolWrite fn v) s = (
          let x := w (f 21 36 * 2 ^ 21 + max 4 (min 24 (f 8 5)) * 2 ^ 8 + min 5 (f 1 3) * 2 + f 0 1)
          if BB g.kvpool 0 = false then put { g with kvpool := x, kvBusy := decide (f 0 1 = 1) }
          else if f 0 1 = 0 ∧ g.kvAlloc = 0 then put { g with kvpool := x, kvBusy := false, kvPark := none } else .next s)
      ∧ exec (.kvmetaWrite fn v) s = (if BB g.kvpool 0 then .next s
          else put { g with kvmeta := w (f 12 45 * 2 ^ 12 + max 10 (min 20 (f 0 5))) })
      ∧ (g.fqWaiting = [] → exec (.fqptrWrite fn v) s = put { g with fqHead := BitVec.ofNat 16 (f 0 16 % g.fqSize) }
        ∧ exec (.fqcfgWrite fn v) s = (
          let n := min 9 (f 8 4)
          let bad := !s.ownsRange fn (f 12 35 * 4096) (4096 * 2 ^ n)
          put { g with fqcfg := w (f 12 35 * 2 ^ 12 + n * 2 ^ 8 + (if bad then 2 else f 0 1)) }))
      ∧ (∀ c, c < 4 → exec (.qosctxWrite fn c v) s = (
          let want := min 4096 (f 0 16)
          let old := BF (s.qosctx fn c) 0 16
          let others := (((List.range 65).filter (fun x => x != fn)).map (fun x => BF (s.qosctx x 0) 0 16)).sum
          let rate := if c ≠ 0 ∨ want ≤ old ∨ others + want ≤ 2048 then want else max old (2048 - others)
          put { g with qos := g.qos.setIfInBounds c (w (f 32 1 * 2 ^ 32 + max 1 (f 16 16) * 2 ^ 16 + rate)) }))
      ∧ (∀ i, i < 4 →
          let old := ((g.hrange[i]?).getD 0).toNat
          let store (x : Nat) : State := s.modFn fn (fun g => { g with hrange := g.hrange.setIfInBounds i (BitVec.ofNat 128 x) })
          let far (t : State) : Nat := ((t.fn fn).hrange.toList.map (fun r =>
            if BB r 0 && BF r 1 1 == 0 then (BF r 76 40 - BF r 12 40) * 4096 else 0)).sum
          let kept (x : Nat) : Out State := .next (
            if fn ≠ 0 ∧ bits x 0 2 = 1 ∧ BF g.vfcfg 21 21 * 2 ^ 21 < far (store x) then store (x - 1) else store x)
          exec (.hrangeWrite fn i 0 v) s = kept (old / 2 ^ 64 * 2 ^ 64 + f 12 40 * 2 ^ 12 + f 0 2)
          ∧ exec (.hrangeWrite fn i 1 v) s = kept (f 12 40 * 2 ^ 76 + old % 2 ^ 64))
      ∧ (∀ i, (i = .treeInstall fn v ∨ i = .treeTeardownCommand fn v) → g.treeWaiting = [] →
          let va := f 6 51 * 64
          let who := 2 ^ 33 + fn
          let s0 := (s.modFn fn (fun g => { g with treeWaiting := [va] })).retry who 0
          let quit (t : State) : Out State := .next ((t.settle who 0).modFn fn (fun g => { g with treeWaiting := [] }))
          let ended (t : State) (tree st : Nat) : Out State := quit (t.treestat fn tree st)
          (∀ s1, treeRead fn va 64 s0 = .ok none s1 → exec i s = ended s1 0 5)
          ∧ (∀ r s1, treeRead fn va 64 s0 = .ok (some r) s1 → bit r 8 = true →
              let list (x : Option Nat) (s2 : State) : Prop := treeRead fn (bits r 69 52 * 32) (32 * treeNodes r) s1 = .ok x s2
              (∀ s2, list none s2 → exec i s = ended s2 (bits r 0 8) 5)
              ∧ (∀ x s2, list (some x) s2 → treeMalformed r = true → exec i s = ended s2 (bits r 0 8) 3))
          ∧ (∀ r s1, treeRead fn va 64 s0 = .ok (some r) s1 → bit r 8 = false → s1.trees.find? (fun t => t.id == bits r 0 8) = none →
              exec i s = ended s1 (bits r 0 8) 0)
          ∧ (∀ r s1 t, treeRead fn va 64 s0 = .ok (some r) s1 → bit r 8 = false →
              s1.trees.find? (fun t => t.id == bits r 0 8) = some t →
              exec i s = if t.owner = fn then
                  ended { s1.teardown t.id with trees := (s1.teardown t.id).trees.filter (fun x => x.id != t.id) } (bits r 0 8) 0
                else ended s1 (bits r 0 8) 2)
          ∧ (∀ s1, treeCommand fn va s0 = .ok () s1 → exec i s = quit s1)
          ∧ (∀ s1, treeCommand fn va s0 = .error .wait s1 → exec i s = .next ((s0.waited s1).treestat fn 0 1)))
      ∧ exec (.registerWrite fn 0x0180 v) s = put { g with ptroot := w (f 21 26 * 2 ^ 21 + f 0 1) }
      ∧ exec (.registerWrite fn 0x0118 v) s = put { g with trapentry := w (f 2 55 * 4 + (if fn = 0 then f 1 1 * 2 else 0) + f 0 1) }
      ∧ exec (.registerWrite fn 0x0068 v) s = (if fn = 0 then dev (fun d => { d with frametab := w (f 21 26 * 2 ^ 21) }) else .next s)
      ∧ (∀ off, off < 0x1_0000 → off % 8 = 0 → exec (.registerWrite fn off v) s = .next (s.barWrite fn off (w v)))
      ∧ (g.surfBusy = true → ∃ t, exec (.surfflushComplete fn) s = .next t
          ∧ (t.fn fn).surfBusy = false ∧ (t.fn fn).surfPending = []
          ∧ (∀ r, r ∈ t.surfRecs ↔ r ∈ s.surfRecs ∧ ¬ (r.fn = fn ∧ (2048 ∈ g.surfPending ∨ r.index ∈ g.surfPending)))
          ∧ (∀ r, r ∈ t.apCopies ↔ r ∈ s.apCopies ∧ ¬ (r.fn = fn ∧ (2048 ∈ g.surfPending ∨ r.index ∈ g.surfPending))))
      ∧ (g.xlBusy = true → s.xlQuiet fn = true → g.xlWaiting = [] →
          let n := 2 ^ g.xlLog2n
          let lo := if 45 ≤ g.xlLog2n then 0 else g.xlVA / n * n * 4096
          let hi := if 45 ≤ g.xlLog2n then 2 ^ 57 else (g.xlVA / n * n + n) * 4096
          ∃ t, exec (.xlinvComplete fn) s = .next t ∧ (t.fn fn).xlBusy = false
          ∧ (∀ x, x ∈ t.tlb ↔ x ∈ s.tlb ∧ ¬ (x.fn = fn ∧ x.page * 2 ^ x.shift < hi ∧ lo < (x.page + 1) * 2 ^ x.shift))
          ∧ (∀ x, x ∈ t.icache ↔ x ∈ s.icache ∧ ¬ (x.fn = fn ∧ x.va < hi ∧ lo < x.va + 64)))
      ∧ (∀ r rest, g.fqWaiting = r :: rest →
          let a := BF g.fqcfg 12 35 * 4096 + 32 * g.fqTail.toNat
          (g.fqRoom = false → exec (.faultRecordWrite fn) s = .next s)
          ∧ (g.fqRoom = true → s.heldLines a 32 ≠ [] → exec (.faultRecordWrite fn) s = .next (s.askHost (s.heldLines a 32)))
          ∧ (g.fqRoom = true → s.heldLines a 32 = [] →
            ∃ t, exec (.faultRecordWrite fn) s = .next t ∧ (t.fn fn).fqWaiting = rest
            ∧ (t.fn fn).fqTail = BitVec.ofNat 16 ((g.fqTail.toNat + 1) % g.fqSize)
            ∧ (s.unretired a 32 → t.mem.readN a 32 = leBytes 32 (s.stamped r.toNat).toNat)
            ∧ (∀ x, x < a ∨ a + 32 ≤ x → t.mem.read1 x = s.mem.read1 x)
            ∧ (BB g.msixMask 0 = false → t.outbox = if fn ∈ s.vfResetting then s.outbox else s.outbox ++ [.msix fn 0])))
      ∧ (∀ k, k < 16 → BB g.msixMask k = true → ∃ t, exec (.msixUnmask fn k) s = .next t
          ∧ t.outbox = (if BB g.msixPend k = true ∧ fn ∉ s.vfResetting then s.outbox ++ [.msix fn k] else s.outbox)
          ∧ BB (t.fn fn).msixMask k = false ∧ BB (t.fn fn).msixPend k = false
          ∧ ∀ j, j ≠ k → BB (t.fn fn).msixMask j = BB g.msixMask j ∧ BB (t.fn fn).msixPend j = BB g.msixPend j)
      ∧ (∀ line, line < 16 → v % 16 = line → ∀ x, s.gangs.find? (fun x => x.fn == fn && x.line == some line) = some x →
          (x.phase = .queued → exec (.gangReset fn v) s = .next { s.complete x 7 0 0 with gangs := s.gangs.filter (fun y => y.id != x.id) }.noteHeads)
          ∧ (x.phase ≠ .queued → (s.gangHalted x.id = false ∨ x.stop.isSome = true) →
              exec (.gangReset fn v) s = .next ((s.stopGang x.id 7 0).setGangBusy fn))
          ∧ (x.phase ≠ .queued → s.gangHalted x.id = true → x.stop = none → exec (.gangReset fn v) s = .next s)))
    ∧ (∀ vf, vf < 64 →
      let old := (s.fn (vf + 1)).vfcfg.toNat
      let put (x : Nat) : State := s.modFn (vf + 1) (fun g => { g with vfcfg := BitVec.ofNat 256 x })
      exec (.vfcfgWrite vf 0 v) s = .next (put (setBits old 0 42 (f 0 42)))
      ∧ exec (.vfcfgWrite vf 1 v) s = .next (put (setBits (setBits old 64 32 (f 0 32)) 96 17 (min 65536 (f 32 17))))
      ∧ exec (.vfcfgWrite vf 2 v) s = .next (put (setBits (setBits old 128 21 (min 1048576 (f 0 21))) 160 32 (f 32 32)))
      ∧ (let t := put (setBits (setBits (setBits old 192 5 (f 0 5)) 224 1 (f 32 1)) 227 1 (f 35 1))
        exec (.vfcfgWrite vf 3 v) s = .next (if f 33 1 = 1 then t.vfResetStart (vf + 1) else t)))

/-- The host side. A memory request brings its sectors to the home, where errors of their codes are counted or poison them, and the oldest served write of its
hart commits; a granule field of 0 is counted: a store is gone, a load is a machine check; an address beyond the limit faults; the host reads and writes device
memory, whole lines of a live window go to the scheduler and parts are counted; when the host gives a line up what waited for it goes on; cache responses are
taken; a port serves the first class, then the oldest, of what holds tokens; buckets fill up to DEPTH; pools lend, stop, and lend again after 1,024 quiet mesh
cycles; a function under reset loses its gangs and its harts stop at once, and its state goes at the end, once its writes and subscriptions are through, the host has given its
lines up and Garnet's releases are done (R20, R21, R24 to R26, R33, R37, R39, R60 to R62, R65 to R67, R75 to R78). The model's choice: the fields of a machine check's record and the unit of a zero granule (log 60, DEDUCED, unsafe), the words
of a register file (log 86, DESIGN CHOICE, unsafe), one port a die and what is paid (log 19, DESIGN CHOICE, safe), how buckets and pools start and borrow (log 18, DESIGN CHOICE, unsafe), when a write commits (log 4,
DESIGN CHOICE, unsafe), the moments of a function's reset (log 63, DEDUCED, unsafe), what the events bring (log 69, DESIGN CHOICE, safe), and an event out of place (log 21, DESIGN CHOICE, safe). -/
def Obligations.HostEvents : Prop :=
  ∀ (s : State), s.powered = true →
    let answered (t : State) (req : Nat) (host : Bool) (ans : Nat × Nat × BitVec 4) : Prop := t = { s with ext := t.ext }
      ∧ ∀ e ∈ s.ext,
        (e.id = req → e.host = host → e.reply = none → (2 ^ 32 ≤ e.hart ∨ (s.hart? e.hart).isSome = true) → { e with reply := some ans } ∈ t.ext)
        ∧ ((e.id ≠ req ∨ e.host ≠ host ∨ e.reply.isSome = true) → e ∈ t.ext)
    (∀ die gran addr hart err write array, array ≠ 0 → let go : Instr := .memoryRequest die gran addr hart err write array
      (err ≠ 2 → exec go s = .next s)
      ∧ (err = 2 →
        (array = 1 → ∃ t, exec go s = .next t ∧ t = { s with poison := t.poison } ∧ ∀ i, i < 4 → bit gran i = true → t.poison.contains (addr / 64 * 4 + i) = true)
        ∧ (array = 3 → exec go s = .next (s.modHart hart (fun h => h.wr (addr % 32) (h.rd (addr % 32)) true)))
        ∧ (array = 4 → exec go s = .next (s.modRow hart (addr / 32) (fun row => { row with
            vpoison := row.vpoison.setIfInBounds (addr % 32) (((row.vpoison[addr % 32]?).getD 0) ||| BitVec.ofNat 128 (15 * 2 ^ (4 * (gran % 32)))) })))
        ∧ (array = 2 → ∀ h, s.hart? hart = some h → ∃ t k, exec go s = .next t ∧ t.hart? hart = some k ∧ k = { h with scratchPoison := k.scratchPoison }
            ∧ t = { s with harts := t.harts } ∧ ∀ i, i < 4 → bit gran i = true → k.scratchPoison.contains (addr % 0x7_F000 / 64 * 4 + i) = true)))
    ∧ (∀ die gran addr hart err write, let go : Instr := .memoryRequest die gran addr hart err write
      (gran % 16 = 0 →
        let s1 := s.modDev (fun d => { d with
          memerr := WS (WS d.memerr 0 32 (min (2 ^ 32 - 1) (BF d.memerr 0 32 + 1))) 32 3 die })
        exec go s = .next (
          if write then s1.modHart hart (fun h => { h with wbuf := match h.wbuf with
            | w :: rest => if w.served then rest else w :: rest
            | [] => [] })
          else if 4 ≤ die % 8 then s1.machineCheck 2 (die % 8 - 4) 1
          else match s.hart? hart with
            | some h => s1.machineCheck 0 h.core 1
            | none => s1.machineCheck 1 (die % 8) 1))
      ∧ (gran % 16 ≠ 0 → paLimit ≤ addr → ∀ h, s.hart? hart = some h → h.stopped = false → h.saved = false →
        exec go s = .next { ({ s with cur := hart } : State).takeTrap { code := 0x09, val := BitVec.ofNat 64 addr } with cur := s.cur })
      ∧ (gran % 16 ≠ 0 → addr < paLimit →
        let s1 := s.memoryError err (addr / 64) (gran % 16)
        (err ≠ 1 → err ≠ 2 → s1 = s)
        ∧ (∀ n, err = 1 → s.retiredLine (addr / 64) = false → (∀ l ∈ s.llc, l.line ≠ addr / 64) →
            s.repair.errs.find? (fun x => x.1 == s.lineLoc (addr / 64)) = some (s.lineLoc (addr / 64), n) → n < 15 →
            (s.lineLoc (addr / 64), n + 1) ∈ s1.repair.errs)
        ∧ (err = 2 → s.retiredLine (addr / 64) = false → BB (s.fn 0).fqcfg 0 = false → (∀ f, BB (s.fn f).kvpool 0 = false) →
            ∀ i, i < 4 → bit gran i = true → s1.poison.contains (4 * (addr / 64) + i) = true)
        ∧ ((write = false ∨ ∀ h w rest, s1.hart? hart = some h → h.wbuf = w :: rest → w.served = true → w.pa / 64 ≠ addr / 64) →
          ∃ t l, exec go s = .next t ∧ l ∈ t.llc ∧ l.line = addr / 64
            ∧ (∀ i, i < 4 → bit gran i = true → BB l.valid i = true) ∧ t.mem = s1.mem ∧ t.poison = s1.poison ∧ t.harts = s1.harts)
        ∧ (∀ h w rest, write = true → s1.hart? hart = some h → h.wbuf = w :: rest → w.served = true → w.pa / 64 = addr / 64 →
          w.pa + w.bytes.length ≤ paLimit → s1.heldLines w.pa w.bytes.length = [] →
          exec go s = .next ((((s1.commitWrite w.pa w.bytes (List.replicate w.bytes.length w.poison)).countBytes w.gang
            (sectorCount w.pa w.bytes.length)).numberAccess w.die { dest := .localM w.pa, pteAddr := 0, user := false }).modHart hart
              (fun k => { k with wbuf := rest })))))
    ∧ (∀ line, exec (.lineWriteback line) s = .next { s with llc := s.llc.filter (fun l => !(l.line == line && l.dirty != 0)) })
    ∧ (∀ hart, exec (.decompressRetry hart) s = .next (s.modHart hart (fun h => { h with attempts := min 4 (h.attempts + 1) })))
    ∧ (∀ addr cacheable, let a := addr / 64 * 64; a + 64 ≤ paLimit → ∃ t p, exec (.hostMemRead addr cacheable) s = .next t
      ∧ Msg.hostData a (s.mem.readN a 64) p ∈ t.outbox ∧ t.mem = s.mem ∧ (cacheable = true → a / 64 ∈ t.snoop)
      ∧ (s.unretired a 64 → ∀ i, i < 4 → BB p i = (s.frameResetting a || s.poison.contains (a / 16 + i))))
    ∧ (∀ addr len data, addr + len ≤ paLimit → s.vfResetting = [] →
      let bs := leBytes len data
      let s1 := s.commitWrite addr bs (List.replicate len false)
      ((∀ i, i < len → s.windowsAt ((addr + i) / 64 * 64) = []) → exec (.hostMemWrite addr len data) s = .next s1)
      ∧ (∀ f l, 0 < len → addr / 64 = (addr + len - 1) / 64 → s.windowsAt (addr / 64 * 64) = [(f, l)] →
        (len = 64 → exec (.hostMemWrite addr len data) s = .next { s1 with launchQ := s1.launchQ ++ [(f, l, BitVec.ofNat 512 data)] })
        ∧ (len < 64 → exec (.hostMemWrite addr len data) s = .next (s1.modFn f (fun g => { g with
            partial16 := BitVec.ofNat 16 (min 65535 (g.partial16.toNat + 1)) })))))
    ∧ (∀ line, line ∈ s.snoopWait → let u := { s with
        snoop := s.snoop.filter (fun l => l != line), snoopWait := s.snoopWait.filter (fun l => l != line) }
      exec (.bisnpResponse line) s = .next u.hostYields
      ∧ (s.homeWait = [] → s.kvMarks = [] → s.cpls = [] → s.remWait = [] → (∀ f, (s.fn f).fqWaiting = []) → u.hostYields = u))
    ∧ (∀ req data poison, ∃ t, exec (.cxlCacheResponse req data poison) s = .next t ∧ answered t req true (0, data, BitVec.ofNat 4 poison))
    ∧ (∀ p, p < 4 → (∃ t, exec (.cxlPortDown p) s = .next t ∧ t = { s with cxlUp := t.cxlUp } ∧ BB t.cxlUp p = false
        ∧ ∀ q, q ≠ p → BB t.cxlUp q = BB s.cxlUp q)
      ∧ (∀ io, ∃ t, exec (.cxlPortUp p io) s = .next t ∧ t = { s with cxlUp := t.cxlUp } ∧ BB t.cxlUp p = !io ∧ ∀ q, q ≠ p → BB t.cxlUp q = BB s.cxlUp q))
    ∧ (∀ port r s1, r ∈ s.portWaiting port → s.pay port r.fn r.cls r.need = some s1 →
      (∀ y ∈ s.portWaiting port, y ≠ r → (s.pay port y.fn y.cls y.need).isSome = true →
        r.cls < y.cls ∨ (r.cls = y.cls ∧ r.order < y.order)) →
      exec (.l2PortServe port) s = .next (if r.agent = 1000 then (s1.lenderActive port r.fn r.cls).modHart r.hart Hart.serve else s))
    ∧ (∀ port, port < 4 → ∃ t, exec (.bucketAccrue port) s = .next t ∧ t.harts = s.harts ∧ t.mem = s.mem
      ∧ (∀ fn cls, fn < 65 → cls < 4 → t.bucketFill port fn cls
        = min (BF (s.qosctx fn cls) 16 16 * 1024) (s.bucketFill port fn cls + BF (s.qosctx fn cls) 0 16))
      ∧ ∀ q fn cls, q ≠ port → t.bucketFill q fn cls = s.bucketFill q fn cls)
    ∧ (∀ port fn cls, let waits := ∃ r ∈ s.portWaiting port, r.fn = fn ∧ r.cls = cls
      (waits → exec (.lenderActive port fn cls) s = .next { s with pools := s.pools.map (fun (p : Pool) =>
        if p.port == port && p.cls == cls && p.feeders.contains fn
        then { p with lending := false, fill := 0, lastBusy := 12 * s.dev.devtime.toNat / 5 } else p) })
      ∧ (¬ waits → exec (.lenderActive port fn cls) s = .next s))
    ∧ (∀ port cls, exec (.spillPoolRelend port cls) s = .next { s with pools := s.pools.map (fun (p : Pool) =>
        if p.port = port ∧ p.cls = cls ∧ p.lending = false ∧ (∀ r ∈ s.portWaiting port, r.cls = cls → p.feeders.contains r.fn = false)
            ∧ p.lastBusy + 1024 ≤ 12 * s.dev.devtime.toNat / 5
        then { p with lending := true } else p) })
    ∧ (∀ vf, vf < 64 → vf + 1 ∉ s.vfResetting → ∃ t, exec (.vfReset vf) s = .next t ∧ t.vfResetting = s.vfResetting ++ [vf + 1]
      ∧ (∀ h ∈ t.harts, h.fn = vf + 1 → h.stopped = true ∧ h.queue = [] ∧ h.park = none ∧ (∀ r ∈ h.rows, r.cluster = none ∧ r.park = none)
        ∧ (∀ k ∈ h.tokens.toList, k.job = none))
      ∧ (∀ g ∈ t.gangs, g.fn ≠ vf + 1) ∧ (∀ g ∈ s.gangs, g.fn ≠ vf + 1 → ∃ g' ∈ t.gangs, g' = { g with headSince := g'.headSince })
      ∧ (∀ x ∈ t.launchQ, x.1 ≠ vf + 1) ∧ (∀ c ∈ t.cpls, c.fn ≠ vf + 1) ∧ t.mem = s.mem)
    ∧ (∀ vf, vf < 64 → vf + 1 ∈ s.vfResetting → let go : Instr := .vfResetComplete vf
      (s.fnWrites (vf + 1) false = true → exec go s = .next s)
      ∧ (s.fnWrites (vf + 1) false = false →
        let s1 := s.vfUnsub (vf + 1)
        let frames := s1.framesOf (vf + 1)
        let held := s1.snoop.filter (fun l => frames.contains (l / 64) || frames.any (fun fr => (s1.frameEntry fr + 1) / 64 == l))
        let owners := ∃ fr ∈ frames, s1.homeBusy (s1.frameEntry fr + 1) 1 = true
        let r := (s1.vfSubs (vf + 1) frames).kvDetach (vf + 1)
        (s1.fnWrites (vf + 1) true = true → exec go s = .next s1)
        ∧ (s1.fnWrites (vf + 1) true = false →
          (held ≠ [] → let new := held.filter (fun l => !s1.snoopWait.contains l)
            exec go s = .next { s1 with snoopWait := s1.snoopWait ++ new, outbox := s1.outbox ++ new.map Msg.biSnp })
          ∧ (held = [] → owners → exec go s = .next s1)
          ∧ (held = [] → ¬ owners → r.2 = false → exec go s = .next r.1)
          ∧ (BB (s1.fn (vf + 1)).kvpool 0 = false → r.2 = true)
          ∧ (held = [] → ¬ owners → r.2 = true → ∃ t, exec go s = .next t ∧ vf + 1 ∉ t.vfResetting ∧ (∀ h ∈ t.harts, h.fn ≠ vf + 1)
            ∧ (∀ x ∈ t.tlb, x.fn ≠ vf + 1) ∧ (∀ x ∈ t.icache, x.fn ≠ vf + 1) ∧ (∀ x ∈ t.streams, x.fn ≠ vf + 1) ∧ (∀ x ∈ t.faults, x.fn ≠ vf + 1)
            ∧ (∀ x ∈ t.trees, x.owner ≠ vf + 1)
            ∧ (BB (s1.fn (vf + 1)).kvpool 0 = false → let g := s1.fn (vf + 1)
                (∀ x ∈ t.subs, (x.fn = vf + 1 → 2 ^ 40 ≤ x.hart) ∧ (x.dev = none → x.addr / 64 / 64 ∉ frames))
                ∧ t.fn (vf + 1) = { FnRegs.reset with vfcfg := g.vfcfg, qos := g.qos, fabpart := g.fabpart, msixMask := g.msixMask })))))

/-- The fabric. A link comes up on 8 or 4 lanes, a frame that fails is replayed from the buffer and counted, the failure of the 16th replay in a row takes the link down to retrain, and
what waits on a port that stays down ends with LINK; a request of another device is served for its partition with its poison, waits while the host may cache the
line it writes, or is refused with ADDR or DENIED; a push that comes before the answer to its subscription is taken up is kept; responses and timeouts reach their requests; an operand of a child here or on another device is held at its node
until all its children's are there, combined in child order and sent up, a result goes down to the leaves, a timer that runs out and a teardown end the tree
(R38, R43 to R51, R57 to R59, R62, R200, R355). The model's choice: the layout of payloads (log 11, DESIGN CHOICE, unsafe), what ends a run of failed replays, what a request of another form meets and how a
teardown spreads (log 62, DEDUCED, unsafe), where a discarded operand is counted (log 75, DESIGN CHOICE, unsafe), that an answer belongs to an open request (log 7, DESIGN CHOICE, safe). -/
def Obligations.FabricEvents : Prop :=
  ∀ (s : State), s.powered = true →
    let status (t : State) (p : Nat) : Word := (t.dev.fabpstat[p]?).getD 0
    let up (p : Nat) : Prop := BB (status s p) 0 = true
    let fails (t : State) (p : Nat) : Nat := (t.portFails[p]?).getD 0
    let reqto := BF s.dev.fabcfg 32 16 * 1000
    let answered (t : State) (req : Nat) (host : Bool) (ans : Nat × Nat × BitVec 4) : Prop := t = { s with ext := t.ext } ∧ ∀ e ∈ s.ext,
      (e.id = req → e.host = host → e.reply = none → (2 ^ 32 ≤ e.hart ∨ (s.hart? e.hart).isSome = true) → { e with reply := some ans } ∈ t.ext)
      ∧ ((e.id ≠ req ∨ e.host ≠ host ∨ e.reply.isSome = true) → e ∈ t.ext)
    (∀ p lanes, p < 20 → lanes = 8 ∨ lanes = 4 →
      let trained (i : Instr) : Prop := ∃ t, exec i s = .next t ∧ BB (status t p) 0 = true ∧ (BB (status t p) 1 = decide (lanes = 4))
        ∧ BF (status t p) 4 4 = lanes ∧ BF (status t p) 16 32 = BF (status s p) 16 32 ∧ fails t p = 0 ∧ t.portDown[p]? = some none
        ∧ (∀ q, q ≠ p → status t q = status s q)
      (¬ up p → trained (.linkTrained p lanes)) ∧ (16 ≤ fails s p → trained (.portRetrain p lanes)))
    ∧ (∀ p kind, p < 20 → up p →
      (kind % 16 < 12 → exec (.flitReceive p kind) s = .next { s with portFails := s.portFails.setIfInBounds p 0 })
      ∧ (12 ≤ kind % 16 → exec (.flitReceive p kind) s = .next (s.modPort p (fun v => WS v 16 16 (min 65535 (BF v 16 16 + 1)))))
      ∧ (∀ idx f, ((s.replay[p]?).getD [])[idx]? = some f → s.devId < 640 → ∃ t, exec (.frameReplay p idx) s = .next t ∧ t.replay = s.replay
        ∧ BF (status t p) 16 16 = min 65535 (BF (status s p) 16 16 + 1)
        ∧ (fails s p < 16 → fails t p = fails s p + 1 ∧ t.outbox = s.outbox ++ [.flit p f.1 f.2] ∧ BB (status t p) 0 = true ∧ t.portDown = s.portDown
          ∧ BF (status t p) 32 16 = min 65535 (BF (status s p) 32 16 + 1))
        ∧ (16 ≤ fails s p → t.outbox = s.outbox ∧ BB (status t p) 0 = false ∧ t.portDown[p]? = some (some s.dev.devtime.toNat)
          ∧ BF (status t p) 32 16 = BF (status s p) 32 16))
      ∧ (∀ idx, (640 ≤ s.devId ∨ ((s.replay[p]?).getD [])[idx]? = none) → exec (.frameReplay p idx) s = .next s))
    ∧ (∀ p since, (s.portDown[p]?).getD none = some since → ¬ up p → reqto < s.dev.devtime.toNat - since →
      exec (.portDownTimeout p) s = .next { s with ext := s.ext.map (fun (e : ExtReq) =>
        if !e.host && e.port == p && e.reply.isNone then { e with reply := some (4, 0, 0) } else e) })
    ∧ (∀ kind src part fn addr n data poison half tag, s.devId < 640 → src < 640 → n ≠ 0 → addr % 64 + n ≤ 64 → (half = 0 ∨ n = 1) →
      let go : Instr := .remoteRequest kind src part fn addr n data poison half tag
      let pz := BitVec.ofNat 4 poison
      let q : RemReq := { kind := kind, src := src, part := part, fn := fn, addr := addr, len := n, data := data, poison := pz, half := half, tag := tag }
      let owner := s.frameOwner (addr / 4096)
      let mine := BF (s.fn owner).fabpart 0 16
      ((kind = 0 ∨ kind = 2 ∨ (kind = 4 ∧ (n = 2 ∨ n = 4 ∨ n = 8)) ∨ (kind = 6 ∧ addr % 8 = 0)) →
        (paLimit < addr + n → exec go s = .next (s.respond q 1 0 0))
        ∧ (addr + n ≤ paLimit → (part = 0 ∨ mine = 0 ∨ part ≠ mine ∨ owner ∈ s.vfResetting) → exec go s = .next (s.respond q 2 0 0))
        ∧ (addr + n ≤ paLimit → part ≠ 0 → part = mine → owner ∉ s.vfResetting →
          let r := s.homeBytes addr n
          let old := leVal r.1
          let held := s.snoop.contains (addr / 64) || s.remWait.any (fun x => x.addr / 64 == addr / 64)
          let swap := bits data 0 8 = 3 ∨ bits data 0 8 = 66
          let carry := swap ∨ (11 < bits data 0 8 ∧ bits data 0 8 < 64)
          (kind = 0 → exec go s = .next ((s.touchRead addr n true).respond q 0 (sectorPoison addr r.2) old))
          ∧ (∀ v, (kind = 2 ∨ (kind = 4 ∧ (r.2.any id = false ∨ swap) ∧ q.atomicValue old = some v)) → held = true →
              exec go s = .next (s.remHold q))
          ∧ (kind = 2 → held = false → half = 0 → exec go s = .next
              ((s.commitWrite addr (leBytes n data) (bytePoison addr n pz)).respond q 0 0 0))
          ∧ (kind = 2 → held = false → (half = 1 ∨ half = 2) → exec go s = .next
              ((s.commitWrite addr [BitVec.ofNat 8 (if half = 1 then old / 16 * 16 + data % 16 else data % 256 / 16 * 16 + old % 16)]
                [BB pz (addr % 64 / 16) || r.2.any id]).respond q 0 0 0))
          ∧ (∀ v, kind = 4 → held = false → (r.2.any id = false ∨ swap) →
              (if bits data 0 8 < 64 then amoValue (bits data 0 8) (8 * n) old (bits data 8 64 % 2 ^ (8 * n)) (bits data 72 64)
                else some (vamoValue (bits data 0 8 - 64) (8 * n) old (bits data 8 64 % 2 ^ (8 * n))).1) = some v → exec go s = .next
              ((s.commitWrite addr (leBytes n v) (List.replicate n (decide carry && BB pz 0))).respond q 0 (sectorPoison addr r.2) old))
          ∧ (kind = 4 → r.2.any id = true → ¬ swap → exec go s = .next
              ((s.touchRead addr n true).respond q 0 (sectorPoison addr r.2) old))
          ∧ (kind = 6 →
            let who := farHart src (bits data 6 26)
            let slot := bits data 0 6
            let slice := (s.subs.filter (fun (u : Sub) => u.dev.isNone && s.homeSlice (u.addr / 64) == s.homeSlice (addr / 64))).length
            (bit data 32 = false → slice < 4096 → exec go s = .next ({ s with subs := s.subs ++ [
                ({ addr := addr, fn := fn, hart := who, slot := slot, seq := 0, dev := none, part := part } : Sub)] }.respond
                  q 0 (sectorPoison addr (s.homeBytes addr 8).2) (leVal (s.homeBytes addr 8).1)))
            ∧ (bit data 32 = false → 4096 ≤ slice → exec go s = .next (s.respond q 0 0 (2 ^ 64) true))
            ∧ (bit data 32 = true →
              let s1 := (s.pushes.filter (fun p => p.hart == who && p.slot == slot)).foldl State.sendPush
                { s with pushes := s.pushes.filter (fun p => !(p.hart == who && p.slot == slot)) }
              exec go s = .next ({ s1 with subs := s1.subs.filter (fun u => !(u.hart == who && u.slot == slot && u.dev.isNone)) }.respond q 0 0 0)))))
      ∧ (kind = 7 → exec go s = .next (s.pushArrive q)
        ∧ ((∀ u ∈ s.subs, ¬ (u.dev = some src ∧ u.fn = fn ∧ u.addr = src * 2 ^ 47 + addr ∧ u.slot = bits data 64 6 ∧ subTag u.hart = bits data 70 26)) →
          s.pushArrive q = if s.subAsked q then { s with early := s.early ++ [q] } else s))
      ∧ (kind = 11 → exec go s = .next (s.sendArrive q)))
    ∧ (∀ req st data poison, st < 3 → s.devId < 640 → ∃ t, exec (.fabricResponse req st data poison) s = .next t
        ∧ answered t req false (st, data, BitVec.ofNat 4 poison))
    ∧ (∀ req e, s.ext.find? (fun e => e.id == req && decide (reqto ≤ s.dev.devtime.toNat - e.since)) = some e →
        ∃ t, exec (.fabricRequestTimeout req) s = .next t ∧ answered t req e.host (3, 0, 0))
    ∧ (∀ tree node child data poison flags, let key := (tree, node, child, data, poison, flags)
      (key ∈ s.treeUp ∨ (nodeDev child ≠ s.devId ∧ s.devId < 640)) →
      let s1 := { s with treeUp := s.treeUp.erase key }
      let go : Instr := .reductionOperand tree node child data poison flags
      (s.treeNode? tree node = none → exec go s = .next (s1.countCrc (if nodeKind node = 3 then nodeIdx node else 0)))
      ∧ (∀ t n i, s.treeNode? tree node = some (t, n) → n.children.findIdx? (fun c => c == child) = some i →
        let ops := n.ops.set i (some (data, poison, flags))
        (none ∈ ops → exec go s = .next (s1.modNode tree node (fun n => { n with
          ops := ops, timer := some (n.timer.getD s.dev.devtime.toNat) })))
        ∧ (∀ x rest, ops = (x :: rest).map some →
          let acc := rest.foldl (treeCombine t.record.toNat) x
          let s2 := s1.modNode tree node (fun n => { n with ops := n.ops.map (fun _ => none), timer := none })
          exec go s = .next (if n.root then s2.sendDown t n acc else s2.sendUp t n acc))))
    ∧ (∀ tree node data poison flags t n, let key := (tree, node, data, poison, flags)
      s.treeNode? tree node = some (t, n) → (key ∈ s.treeDown ∨ (n.root = false ∧ nodeDev n.parent ≠ s.devId ∧ s.devId < 640)) →
      let s1 := { s with treeDown := s.treeDown.erase key }
      exec (.reductionResult tree node data poison flags) s = .next (
        if nodeKind node = 0 then s1.leafResult tree (nodeIdx node) (data, poison, flags) else s1.sendDown t n (data, poison, flags)))
    ∧ (∀ tree node t n i, s.trees.find? (fun t => t.id == tree) = some t → t.installed = true → t.nodes.find? (fun n => n.node == node) = some n →
      (∃ since, i = .reductionTimeout tree node ∧ n.timer = some since ∧ BF t.record 32 16 * 1000 ≤ s.dev.devtime.toNat - since)
        ∨ (∃ src, i = .teardownFlit tree node src ∧ s.devId < 640) →
      ∃ u, exec i s = .next u ∧ (∀ x ∈ u.trees, x.id = tree → x.installed = false ∧ x.nodes = []) ∧ (∀ x ∈ s.trees, x.id ≠ tree → x ∈ u.trees)
        ∧ (∀ x ∈ u.treeUp, x.1 ≠ tree) ∧ (∀ x ∈ u.treeDown, x.1 ≠ tree) ∧ (∀ h ∈ u.harts, ∀ f ∈ h.freds, f.tree = tree → f.state ≠ 0)
        ∧ u.mem = s.mem)

/-- The scheduler and instruction fetch. A window launch is refused while its line is busy, when its record is malformed or when it can not be
admitted, else its gang waits in its class or, guaranteed, is placed, once the rows it evicts stand where they may stop; gangs are placed head first and class
first on a device that accepts launches, pre-empt after PRWAIT, stop when a budget is used up, and complete once every hart has ended; rows are restored after a
check with their tile buffers, VSTART and MTROW kept; a line that a sequencer of a die waits for is delivered to all of the function that may use it; a word no
table assigns traps (R15, R67 to R70, R80, R144 to R155, R163, R268, R383). The model's choice: the cache's replacement (log 9, DESIGN CHOICE, unsafe), budget cycles (log 28, DESIGN CHOICE, unsafe), when a budget is looked
at and how far a region is walked (log 66, DEDUCED, unsafe), promotion after 1,138 ns (log 27, DEDUCED, safe), a restored row's VSTART and MTROW (log 46, DEDUCED, unsafe), when a window line is busy (log 63, DEDUCED, unsafe), a
GLAUNCH's record and its port (log 84, DESIGN CHOICE, unsafe), and what a stop waits for (log 77, DEDUCED, unsafe). -/
def Obligations.SchedulerEvents : Prop :=
  ∀ (s : State), s.powered = true →
    (∀ fn line record, let r := BitVec.ofNat 512 record
      (s.launchQ.find? (fun x => x.1 == fn && x.2.1 == line) = some (fn, line, r) →
      let s1 := { s with launchQ := s.launchQ.erase (fn, line, r) }
      let s2 := { s1 with gangCtr := s1.gangCtr + 1 }
      let level := s.llev fn
      let g := s1.newGang fn (some line) 0 r level
      let go : Instr := .launchPush fn line record
      let busy := ∃ x ∈ s.gangs, x.fn = fn ∧ x.line = some line
      (busy → exec go s = .next (s1.complete (s1.newGang fn (some line) 0 r 0) 5 0 0))
      ∧ (¬ busy → recMalformed r.toNat = true → exec go s = .next (s2.complete g 4 0 0))
      ∧ (¬ busy → recMalformed r.toNat = false → ∀ s3, (if g.cls = 0 then regionReads fn r.toNat s2 else .ok () s2) = .ok () s3 →
        (∀ why, s3.refuse fn r.toNat = some why → exec go s = .next (s3.complete g 1 why 0))
        ∧ (s3.refuse fn r.toNat = none → s3.resetDue = true → exec go s = .next (s3.complete g 6 0 0))
        ∧ (s3.refuse fn r.toNat = none → s3.resetDue = false →
          let s4 := { s3 with gangs := s3.gangs ++ [g] }
          (g.cls ≠ 0 → exec go s = .next s4.noteHeads)
          ∧ (∀ l, g.cls = 0 → s3.planOf g = some l →
            (∀ u, placeNew g l s4 = .ok () u → exec go s = .next u)
            ∧ (∀ u, placeNew g l s4 = .error .wait u → exec go s = .next { s1.waited u with launchQ := s.launchQ }))))))
    ∧ (∀ id g, let s0 := (match s.gang? id with
          | some (x : Gang) => if x.phase ≠ GangPhase.queued ∧ x.stop = none ∧ (5120 * BF x.record 320 32 < x.cyc ∨ 65536 * BF x.record 352 32 < x.bytes
              ∨ (x.cls = 0 ∧ ∃ h : Hart, h ∈ s.harts ∧ h.gang = id ∧ 5 * guarQ x.record.toNat ≤ h.placedCyc)) then s.stopGang id 3 0 else s
          | none => s)
      s0.gang? id = some g → g.phase = .placed ∨ g.phase = .preempted → s0.gangEnded id = true →
      let mine := (s0.harts.filter (fun h => h.gang == id)).map Hart.id
      let s1 := mine.foldl State.unsubAll s0
      let st := (g.stop.getD (0, 0)).1
      let cause := if st = 2 then (g.stop.getD (0, 0)).2 else 0
      let record := s1.stamped (st + (g.line.getD 0) * 2 ^ 16 + (if g.line = none then 2 ^ 20 else 0) + cause % 2 ^ 32 * 2 ^ 32
            + BF g.record 64 64 * 2 ^ 64 + min (2 ^ 32 - 1) ((g.cyc + 5119) / 5120) * 2 ^ 128 + min (2 ^ 32 - 1) ((g.bytes + 65535) / 65536) * 2 ^ 160)
      let s2 := s1.complete g st 0 cause
      (s1.gangEnded id = false → exec (.gangCompletion id) s = .next s1.resetIfDue)
      ∧ (s1.gangEnded id = true → exec (.gangCompletion id) s = .next ({ s2 with
          harts := s2.harts.filter (fun h => h.gang != id), gangs := s2.gangs.filter (fun x => x.id != id)
          ext := s2.ext.filter (fun e => !mine.contains e.hart), portQ := s2.portQ.filter (fun r => !mine.contains r.hart) }.noteHeads.setGangBusy g.fn).resetIfDue
        ∧ ((g.line.isSome = true ∨ BF g.record 256 46 ≠ 0) → Msg.completion (s1.cplPort g) (BF g.record 256 46 * 64) record ∈ s2.outbox)
        ∧ (g.line = none → BF g.record 256 46 = 0 →
          let c : Cpl := { id := s1.reqCtr, fn := g.fn, va := g.recVA.toNat + 64, record := record, irq := g.irq }
          ∀ t, writeMem c.acc c.va (leBytes 32 record.toNat) (List.replicate 32 false) [0, 1, 2, 3] true
              (({ s1 with cpls := s1.cpls ++ [c], reqCtr := s1.reqCtr + 1 } : State).retry c.acc.hart 0) = .ok () t →
            s2 = ((t.settle c.acc.hart 0).dropCpl c).sendIrq c.irq)))
    ∧ (∀ id g l, s.accepts = true → s.resetDue = false → s.gang? id = some g → ((s.waiting g.cls).head?.map Gang.id) = some id →
      (∀ c, c < g.cls → ∀ x, (s.waiting c).head? = some x → s.planOf x = none) → s.planOf g = some l →
      exec (.gangPlace id) s = .next (s.sched (if g.phase = .queued then placeNew g l else placeAgain g l)).noteHeads)
    ∧ (∀ id g since l, s.gang? id = some g → g.cls = 1 ∨ g.cls = 2 → g.headSince = some since →
      BF s.dev.schedcfg 8 16 * 1000 ≤ s.dev.devtime.toNat - since → ((s.waiting g.cls).head?.map Gang.id) = some id → s.planOf g = none →
      s.pickVictims g (s.victims g.cls) [] = some l → exec (.gangPreempt id) s = .next (s.sched (l.forM preemptGang)).noteHeads)
    ∧ (∀ id g, s.gang? id = some g → g.phase ≠ .queued → g.stop = none →
      (5120 * BF g.record 320 32 < g.cyc ∨ 65536 * BF g.record 352 32 < g.bytes
        ∨ (g.cls = 0 ∧ ∃ h ∈ s.harts, h.gang = id ∧ 5 * guarQ g.record.toNat ≤ h.placedCyc)) →
      exec (.budgetExhausted id) s = .next (s.stopGang id 3 0))
    ∧ (∀ hart row h r, s.hart? hart = some h → h.rows[row]? = some r → r.cluster = none → h.saved = false → h.stopped = false →
      let order := searchOrder h.core
      let cands := order.filter (fun c => !s.reserved c) ++ order.filter (fun c => s.reserved c)
      let rb := s.areaVA h + 0x8_2000 + row * 0x1_2000
      ∀ c b s1, cands.find? (fun c => !(h.rows.filterMap Row.cluster).contains c && s.clusterOk s.occ (s.clsOf h) false c) = some c →
        loadBytes (s.trapAcc h) rb 0x2000 s = .ok (some b) s1 →
        (crc32c ((b.drop 0x400).take 0x800) = leVal ((b.drop 0x3FC).take 4) →
          (∀ mt s2, loadTiles (s.trapAcc h) rb b s1 = .ok (some mt) s2 → exec (.rowRestore hart row) s = .next
            (s2.modRow hart row (fun x => { x.restore b (b.drop 0x1000) with
              cluster := some c, vstart := x.vstart, mtrow := x.mtrow, mt0 := mt.1, mt1 := mt.2, readySince := s2.dev.devtime.toNat })))
          ∧ (∀ s2, loadTiles (s.trapAcc h) rb b s1 = .ok none s2 → exec (.rowRestore hart row) s = .next
            (s2.stopGang h.gang 2 (0x13 + row * 65536))))
        ∧ (crc32c ((b.drop 0x400).take 0x800) ≠ leVal ((b.drop 0x3FC).take 4) → exec (.rowRestore hart row) s = .next
          (s1.stopGang h.gang 2 (0x13 + row * 65536))))
    ∧ (∀ hart row h r, s.hart? hart = some h → h.rows[row]? = some r → h.rowLive row = true → r.qdone < h.qbase + h.queue.length →
      1138 ≤ s.dev.devtime.toNat - r.readySince →
      exec (.starvationPromote hart row) s = .next (s.modRow hart row (fun x => { x with promoted := true })))
    ∧ (∀ die fn addr h b s1, let line := addr / 64 * 64
      s.harts.find? (fun h => h.fn == fn && h.waitsLine die line && !h.saved) = some h →
      readLine (s.fetchAcc h die) line false (s.retry h.id (100 + die)) = .ok b s1 →
      ∃ t, exec (.icacheFill die fn addr) s = .next t
        ∧ ({ die := die, fn := fn, va := line, bytes := b.1, poison := b.2.1.any id, user := b.2.2 } : ILine) ∈ t.icache
        ∧ (t.icache.filter (fun l => l.die == die)).length ≤ 65536
        ∧ (∀ x ∈ t.harts, x.fn = fn → (b.2.2 = true ∨ x.level ≠ 0) → x.waitsLine die line = false) ∧ t.mem = s1.mem)
    ∧ (∀ word, exec (.illegalInstruction word) s = .next (s.trapTo 0x01 (BitVec.ofNat 64 (word % 2 ^ 32))))

/-- Engines. A copy whose turn it is retires with its status word in its token, its mask in the queue, and the commands that waited for it released; the oldest
due result of an input FIFO moves to its output FIFO while that has room; the oldest push reaches its slot, a LATEST slot with its value, sequence number and
count of missed pushes, and the slot's place in the image of a saved hart; an element of another device arrives while there is room, and is answered, with ADDR for a core that does not exist and
DENIED for another partition or no such hart; a merge replaces its stream or breaks it; a Garnet pool is ready once its tables are zeroed (R45, R113, R119, R122, R167, R168, R227, R346, R351 to R353,
R358). The model's choice: the layout of an element's flit (log 11, DESIGN CHOICE, unsafe), when slots of a ring are filled and what breaks a stream (log 55, DEDUCED, unsafe), what Garnet makes of a fault in its
metadata area (log 83, DESIGN CHOICE, unsafe), and the die that zeroes it (log 76, DESIGN CHOICE, unsafe). -/
def Obligations.EngineEvents : Prop :=
  ∀ (s : State),
    (∀ hart k h r t kh, let s0 := ({ s with cur := hart } : State).retry hart (65 + k)
      s.hart? hart = some h → (h.tokens[k]?).bind Token.job = some r → s0.copyTurn h r = true → r.park = none →
      ∀ st st0 t0, copyAll k r s0 = .ok st0 t0 →
      (if r.mode = 3 ∧ st0.1 ≠ 7 ∧ r.count ≠ 0 then zEnd k r st0 false else pure st0) t0 = .ok st t →
      t.curHart = some kh → t.cur = hart → ∀ j, (kh.tokens[k]?).bind Token.job = some j →
      exec (.copyRetire hart k) s = .next { (t.modHart hart (fun x => { x.retireCopy k j st.1 st.2 with attempts := 0 })).settle hart (65 + k) with
          cur := s.cur }
        ∧ (k < 8 → ((kh.retireCopy k j st.1 st.2).tokens[k]?) = some { job := none, status := BitVec.ofNat 64 (st.1 + st.2 * 2 ^ 8
          + j.flags.toNat * 2 ^ 16 + min 65535 j.raw * 2 ^ 24 + min (2 ^ 24 - 1) j.out * 2 ^ 40) }))
    ∧ (∀ hart f h c rest w, s.hart? hart = some h → f < 4 → (h.inq[f]?).getD [] = c :: rest → c.res = some w → (s.harts.map Hart.id).Nodup →
      ((c.after = [] ∧ ((h.outq[f]?).getD []).length < 16) → exec (.fifoResult hart f) s = .next (s.modHart hart (fun _ => { h with
          inq := h.inq.setIfInBounds f rest
          outq := h.outq.setIfInBounds f (((h.outq[f]?).getD []) ++ [{ v := w, poison := false }]) })))
      ∧ ((c.after ≠ [] ∨ 16 ≤ ((h.outq[f]?).getD []).length) → exec (.fifoResult hart f) s = .next s))
    ∧ (∀ p rest h (x : BitVec 512), s.pushes = p :: rest → p.hart < 2 ^ 40 → s.hart? p.hart = some h → p.slot < 64 → h.slots[p.slot]? = some x →
      ∃ t k y, t.pushes = rest ∧ t.mem = s.mem ∧ t.hart? p.hart = some k ∧ k.slots[p.slot]? = some y
        ∧ (let img := leBytes 64 y.toNat ++ (match k.slots[p.slot + 1]? with
            | some z => leBytes 64 z.toNat
            | none => [])
          exec .subscriptionPush s = .next (if h.saved then
              (match saveBytes (t.trapAcc k) (t.areaVA k + 0x8_1000 + 64 * p.slot) img t with
                | .ok _ u => u
                | .error _ _ => t)
            else t))
        ∧ (BF x 120 3 = 1 → BF y 0 64 = p.value.toNat ∧ BF y 64 48 = p.seq % 2 ^ 48 ∧ BB y 123 = true ∧ BF y 120 3 = 1
          ∧ BF y 112 8 = (if BB x 123 then min 255 (BF x 112 8 + 1) else BF x 112 8) ∧ BB k.slotPoison (8 * p.slot) = p.poison)
        ∧ (BF x 120 3 ≠ 1 → BF x 120 3 ≠ 2 → y = x))
    ∧ (∀ fn core slot data poison src part tag, s.devId < 640 → core < 256 → slot < 4 → data < 2 ^ 64 →
      let go : Instr := .vsendArrival fn core slot data poison src part tag
      let q : RemReq := { kind := 11, src := src, part := part, fn := fn, addr := core * 64, len := 8
                          data := data + slot * 2 ^ 64, poison := if poison then 1 else 0, half := 0, tag := tag }
      let mine := BF (s.fn fn).fabpart 0 16
      (192 ≤ core → exec go s = .next (s.respond q 1 0 0))
      ∧ (core < 192 → (part = 0 ∨ mine = 0 ∨ part ≠ mine ∨ s.receiver fn core slot = none) → exec go s = .next (s.respond q 2 0 0))
      ∧ (∀ h, core < 192 → part ≠ 0 → part = mine → s.receiver fn core slot = some h →
        (h.arrivals.length < 256 → exec go s = .next ((s.modHart h.id (fun k => { k with
          arrivals := k.arrivals ++ [{ v := BitVec.ofNat 64 data, poison := poison }] })).respond q 0 0 0))
        ∧ (256 ≤ h.arrivals.length → exec go s = .next s)))
    ∧ (∀ fn n st l, s.stream? fn n = some st → st.broken = false → st.park = none → st.due = some l →
      (∀ st' s1, mergeM st l s = .ok (some st') s1 → exec (.agateMerge fn n) s = .next (s1.modStream fn n (fun _ => st')))
      ∧ (∀ s1, mergeM st l s = .ok none s1 → exec (.agateMerge fn n) s = .next (s1.breakStream fn n 2)))
    ∧ (∀ fn, fn < 65 → (s.fn fn).kvBusy = true → (s.fn fn).kvPark = none → ∀ s1, kvInitM fn s = .ok () s1 →
      exec (.kvpoolInitComplete fn) s = .next s1 ∧ (s1.fn fn).kvBusy = false ∧ (s1.fn fn).kvAlloc = 0)
end

