-- ==== Sys2Proof/Laws/Memory.lean ====
section
/-! SUPPORT. Memory: writes keep the canonical form, a byte written reads back, every other byte reads as before. -/

namespace Sys2Proof.Laws

set_option Elab.async false

open Sys2Proof.Machine

/-- What the canonical form says: addresses rise strictly, and no cell holds what an unlisted address reads as. -/
theorem memory_wf_iff (m : Memory) :
    m.wf = true ↔ m.Pairwise (fun x y => x.1 < y.1) ∧ ∀ c ∈ m, c.2 ≠ Memory.unlisted := by
  induction m with
  | nil => simp [Memory.wf]
  | cons c m ih =>
    cases m with
    | nil => simp [Memory.wf, Memory.unlisted]
    | cons d m =>
      simp only [Memory.wf, Bool.and_eq_true, decide_eq_true_eq, bne_iff_ne, ih]
      constructor
      · rintro ⟨⟨h0, h1⟩, hp, hn⟩
        refine ⟨List.pairwise_cons.mpr ⟨fun x hx => ?_, hp⟩, fun x hx => ?_⟩
        · rcases List.mem_cons.mp hx with rfl | hx
          · exact h1
          · exact Nat.lt_trans h1 ((List.pairwise_cons.mp hp).1 x hx)
        · rcases List.mem_cons.mp hx with rfl | hx
          · exact h0
          · exact hn x hx
      · rintro ⟨hp, hn⟩
        have hp := List.pairwise_cons.mp hp
        exact ⟨⟨hn c (List.mem_cons_self ..), hp.1 d (List.mem_cons_self ..)⟩, hp.2,
          fun x hx => hn x (List.mem_cons_of_mem _ hx)⟩

theorem memory_nil_wf : Memory.wf [] = true := rfl

theorem memory_filter_wf {m : Memory} (p : Nat × Byte → Bool) (h : m.wf = true) : Memory.wf (m.filter p) = true := by
  rw [memory_wf_iff] at *
  exact ⟨h.1.filter p, fun c hc => h.2 c (List.mem_filter.mp hc).1⟩

theorem memory_cells_range {bs : List Byte} : ∀ {a : Nat} {c : Nat × Byte}, c ∈ Memory.cells a bs →
    a ≤ c.1 ∧ c.1 < a + bs.length ∧ c.2 ≠ Memory.unlisted := by
  induction bs with
  | nil => intro a c h; simp [Memory.cells] at h
  | cons b bs ih =>
    intro a c h
    unfold Memory.cells at h
    split at h
    · have := ih h; simp only [List.length_cons]; exact ⟨by omega, by omega, this.2.2⟩
    · rename_i hb
      rcases List.mem_cons.mp h with rfl | h
      · exact ⟨Nat.le_refl _, by simp, hb⟩
      · have := ih h; simp only [List.length_cons]; exact ⟨by omega, by omega, this.2.2⟩

theorem memory_cells_sorted (bs : List Byte) : ∀ a, (Memory.cells a bs).Pairwise (fun x y => x.1 < y.1) := by
  induction bs with
  | nil => intro a; simp [Memory.cells]
  | cons b bs ih =>
    intro a
    unfold Memory.cells
    split
    · exact ih _
    · refine List.pairwise_cons.mpr ⟨fun c hc => ?_, ih _⟩
      have := memory_cells_range hc
      omega

/-- A write keeps the canonical form. -/
theorem memory_write_wf {m : Memory} (h : m.wf = true) (a : Nat) (bs : List Byte) : (m.write a bs).wf = true := by
  rw [memory_wf_iff] at *
  refine ⟨?_, fun c hc => ?_⟩
  · unfold Memory.write
    refine List.pairwise_append.mpr ⟨List.pairwise_append.mpr ⟨h.1.filter _, memory_cells_sorted bs a, ?_⟩, h.1.filter _, ?_⟩
    · intro x hx y hy
      have hx := (List.mem_filter.mp hx).2
      have hy := memory_cells_range hy
      simp at hx
      omega
    · intro x hx y hy
      have hy := (List.mem_filter.mp hy).2
      simp at hy
      rcases List.mem_append.mp hx with hx | hx
      · have hx := (List.mem_filter.mp hx).2
        simp at hx
        omega
      · have hx := memory_cells_range hx
        omega
  · unfold Memory.write at hc
    rcases List.mem_append.mp hc with hc | hc
    · rcases List.mem_append.mp hc with hc | hc
      · exact h.2 c (List.mem_filter.mp hc).1
      · exact (memory_cells_range hc).2.2
    · exact h.2 c (List.mem_filter.mp hc).1

theorem find_none_of_not_mem {l : Memory} {a : Nat} (h : ∀ c ∈ l, c.1 ≠ a) : l.find? (fun c => c.1 == a) = none := by
  rw [List.find?_eq_none]
  intro c hc
  simpa using h c hc

theorem find_filter_keep {l : Memory} {a : Nat} {p : Nat × Byte → Bool} (h : ∀ c ∈ l, c.1 = a → p c = true) :
    (l.filter p).find? (fun c => c.1 == a) = l.find? (fun c => c.1 == a) := by
  induction l with
  | nil => rfl
  | cons c l ih =>
    have ih := ih (fun c hc => h c (List.mem_cons_of_mem _ hc))
    by_cases hp : p c = true
    · rw [List.filter_cons_of_pos hp]
      simp only [List.find?_cons, ih]
    · rw [List.filter_cons_of_neg hp, ih]
      have hne : c.1 ≠ a := fun e => hp (h c (List.mem_cons_self ..) e)
      simp [hne]

theorem cells_find {bs : List Byte} : ∀ {a i : Nat}, i < bs.length →
    (match (Memory.cells a bs).find? (fun c => c.1 == a + i) with
      | some c => c.2
      | none => Memory.unlisted) = bs.getD i 0 := by
  induction bs with
  | nil => intro a i h; simp at h
  | cons b bs ih =>
    intro a i h
    unfold Memory.cells
    cases i with
    | zero =>
      by_cases hb : b = Memory.unlisted
      · rw [if_pos hb, find_none_of_not_mem (fun c hc => by have := memory_cells_range hc; omega)]
        simp [hb]
      · rw [if_neg hb]
        simp
    | succ i =>
      have hi : i < bs.length := by simpa using h
      have e : a + (i + 1) = a + 1 + i := by omega
      rw [e]
      by_cases hb : b = Memory.unlisted
      · rw [if_pos hb]; simpa using ih hi
      · rw [if_neg hb, List.find?_cons_of_neg (by simp; omega)]
        simpa using ih hi

/-- A byte written reads back. -/
theorem memory_read_write_same (m : Memory) (a : Nat) (bs : List Byte) {i : Nat} (h : i < bs.length) :
    (m.write a bs).read1 (a + i) = bs.getD i 0 := by
  unfold Memory.read1 Memory.write
  rw [List.append_assoc, List.find?_append, find_none_of_not_mem (fun c hc => by
    have := (List.mem_filter.mp hc).2; simp at this; omega), Option.none_or, List.find?_append]
  have h2 : (m.filter (fun c => decide (a + bs.length ≤ c.1))).find? (fun c => c.1 == a + i) = none :=
    find_none_of_not_mem (fun c hc => by have := (List.mem_filter.mp hc).2; simp at this; omega)
  rw [h2, Option.or_none]
  exact cells_find h

/-- A byte outside a write reads as before. -/
theorem memory_read_write_other (m : Memory) (a : Nat) (bs : List Byte) {b : Nat} (h : b < a ∨ a + bs.length ≤ b) :
    (m.write a bs).read1 b = m.read1 b := by
  unfold Memory.read1 Memory.write
  have hc : (Memory.cells a bs).find? (fun c => c.1 == b) = none :=
    find_none_of_not_mem (fun c hc => by have := memory_cells_range hc; omega)
  rcases h with h | h
  · rw [List.append_assoc, List.find?_append, List.find?_append, hc,
      find_none_of_not_mem (l := m.filter (fun c => decide (a + bs.length ≤ c.1))) (fun c hc => by
        have := (List.mem_filter.mp hc).2; simp at this; omega),
      find_filter_keep (p := fun c => decide (c.1 < a)) (fun c _ e => by simp; omega)]
    simp
  · rw [List.find?_append, List.find?_append, hc,
      find_none_of_not_mem (l := m.filter (fun c => decide (c.1 < a))) (fun c hc => by
        have := (List.mem_filter.mp hc).2; simp at this; omega),
      find_filter_keep (p := fun c => decide (a + bs.length ≤ c.1)) (fun c _ e => by simp; omega)]
    simp

end Sys2Proof.Laws
end

