-- ==== Sys2Proof/Laws/State.lean ====
section
/-! SUPPORT. What each named update of a state and of a hart leaves: one lemma a field an update, and how updates combine. -/

namespace Sys2Proof.Laws

set_option Elab.async false

open Sys2Proof Sys2Proof.Machine

/-! Updates of the state. -/

@[simp] theorem modHart_powered (s : State) (n : Nat) (f : Hart → Hart) : (s.modHart n f).powered = s.powered := rfl
@[simp] theorem modHart_dev (s : State) (n : Nat) (f : Hart → Hart) : (s.modHart n f).dev = s.dev := rfl
@[simp] theorem modHart_fns (s : State) (n : Nat) (f : Hart → Hart) : (s.modHart n f).fns = s.fns := rfl
@[simp] theorem modHart_gangs (s : State) (n : Nat) (f : Hart → Hart) : (s.modHart n f).gangs = s.gangs := rfl
@[simp] theorem modHart_mem (s : State) (n : Nat) (f : Hart → Hart) : (s.modHart n f).mem = s.mem := rfl
@[simp] theorem modHart_poison (s : State) (n : Nat) (f : Hart → Hart) : (s.modHart n f).poison = s.poison := rfl
@[simp] theorem modHart_llc (s : State) (n : Nat) (f : Hart → Hart) : (s.modHart n f).llc = s.llc := rfl
@[simp] theorem modHart_plru (s : State) (n : Nat) (f : Hart → Hart) : (s.modHart n f).plru = s.plru := rfl
@[simp] theorem modHart_fill (s : State) (n : Nat) (f : Hart → Hart) : (s.modHart n f).fill = s.fill := rfl
@[simp] theorem modHart_snoop (s : State) (n : Nat) (f : Hart → Hart) : (s.modHart n f).snoop = s.snoop := rfl
@[simp] theorem modHart_snoopWait (s : State) (n : Nat) (f : Hart → Hart) : (s.modHart n f).snoopWait = s.snoopWait := rfl
@[simp] theorem modHart_repair (s : State) (n : Nat) (f : Hart → Hart) : (s.modHart n f).repair = s.repair := rfl
@[simp] theorem modHart_tlb (s : State) (n : Nat) (f : Hart → Hart) : (s.modHart n f).tlb = s.tlb := rfl
@[simp] theorem modHart_faults (s : State) (n : Nat) (f : Hart → Hart) : (s.modHart n f).faults = s.faults := rfl
@[simp] theorem modHart_icache (s : State) (n : Nat) (f : Hart → Hart) : (s.modHart n f).icache = s.icache := rfl
@[simp] theorem modHart_roCache (s : State) (n : Nat) (f : Hart → Hart) : (s.modHart n f).roCache = s.roCache := rfl
@[simp] theorem modHart_surfRecs (s : State) (n : Nat) (f : Hart → Hart) : (s.modHart n f).surfRecs = s.surfRecs := rfl
@[simp] theorem modHart_apCopies (s : State) (n : Nat) (f : Hart → Hart) : (s.modHart n f).apCopies = s.apCopies := rfl
@[simp] theorem modHart_ext (s : State) (n : Nat) (f : Hart → Hart) : (s.modHart n f).ext = s.ext := rfl
@[simp] theorem modHart_subs (s : State) (n : Nat) (f : Hart → Hart) : (s.modHart n f).subs = s.subs := rfl
@[simp] theorem modHart_pushes (s : State) (n : Nat) (f : Hart → Hart) : (s.modHart n f).pushes = s.pushes := rfl
@[simp] theorem modHart_buckets (s : State) (n : Nat) (f : Hart → Hart) : (s.modHart n f).buckets = s.buckets := rfl
@[simp] theorem modHart_pools (s : State) (n : Nat) (f : Hart → Hart) : (s.modHart n f).pools = s.pools := rfl
@[simp] theorem modHart_trees (s : State) (n : Nat) (f : Hart → Hart) : (s.modHart n f).trees = s.trees := rfl
@[simp] theorem modHart_treeUp (s : State) (n : Nat) (f : Hart → Hart) : (s.modHart n f).treeUp = s.treeUp := rfl
@[simp] theorem modHart_treeDown (s : State) (n : Nat) (f : Hart → Hart) : (s.modHart n f).treeDown = s.treeDown := rfl
@[simp] theorem modHart_streams (s : State) (n : Nat) (f : Hart → Hart) : (s.modHart n f).streams = s.streams := rfl
@[simp] theorem modHart_portFails (s : State) (n : Nat) (f : Hart → Hart) : (s.modHart n f).portFails = s.portFails := rfl
@[simp] theorem modHart_portDown (s : State) (n : Nat) (f : Hart → Hart) : (s.modHart n f).portDown = s.portDown := rfl
@[simp] theorem modHart_cxlUp (s : State) (n : Nat) (f : Hart → Hart) : (s.modHart n f).cxlUp = s.cxlUp := rfl
@[simp] theorem modHart_outbox (s : State) (n : Nat) (f : Hart → Hart) : (s.modHart n f).outbox = s.outbox := rfl
@[simp] theorem modHart_launchQ (s : State) (n : Nat) (f : Hart → Hart) : (s.modHart n f).launchQ = s.launchQ := rfl
@[simp] theorem modHart_leftErr (s : State) (n : Nat) (f : Hart → Hart) : (s.modHart n f).leftErr = s.leftErr := rfl
@[simp] theorem modHart_early (s : State) (n : Nat) (f : Hart → Hart) : (s.modHart n f).early = s.early := rfl
@[simp] theorem modHart_cpls (s : State) (n : Nat) (f : Hart → Hart) : (s.modHart n f).cpls = s.cpls := rfl
@[simp] theorem modHart_hints (s : State) (n : Nat) (f : Hart → Hart) : (s.modHart n f).hints = s.hints := rfl
@[simp] theorem modHart_kvDetached (s : State) (n : Nat) (f : Hart → Hart) : (s.modHart n f).kvDetached = s.kvDetached := rfl
@[simp] theorem modHart_vfResetting (s : State) (n : Nat) (f : Hart → Hart) : (s.modHart n f).vfResetting = s.vfResetting := rfl
@[simp] theorem modHart_agenda (s : State) (n : Nat) (f : Hart → Hart) : (s.modHart n f).agenda = s.agenda := rfl
@[simp] theorem modHart_stalled (s : State) (n : Nat) (f : Hart → Hart) : (s.modHart n f).stalled = s.stalled := rfl
@[simp] theorem modHart_lastAgent (s : State) (n : Nat) (f : Hart → Hart) : (s.modHart n f).lastAgent = s.lastAgent := rfl
@[simp] theorem modHart_agentMoves (s : State) (n : Nat) (f : Hart → Hart) : (s.modHart n f).agentMoves = s.agentMoves := rfl
@[simp] theorem modHart_cur (s : State) (n : Nat) (f : Hart → Hart) : (s.modHart n f).cur = s.cur := rfl
@[simp] theorem modHart_freeCtr (s : State) (n : Nat) (f : Hart → Hart) : (s.modHart n f).freeCtr = s.freeCtr := rfl
@[simp] theorem modHart_issueCtr (s : State) (n : Nat) (f : Hart → Hart) : (s.modHart n f).issueCtr = s.issueCtr := rfl
@[simp] theorem modHart_placeCtr (s : State) (n : Nat) (f : Hart → Hart) : (s.modHart n f).placeCtr = s.placeCtr := rfl
@[simp] theorem modHart_reqCtr (s : State) (n : Nat) (f : Hart → Hart) : (s.modHart n f).reqCtr = s.reqCtr := rfl
@[simp] theorem modHart_gangCtr (s : State) (n : Nat) (f : Hart → Hart) : (s.modHart n f).gangCtr = s.gangCtr := rfl
@[simp] theorem modHart_hartCtr (s : State) (n : Nat) (f : Hart → Hart) : (s.modHart n f).hartCtr = s.hartCtr := rfl
@[simp] theorem modHart_imgCtr (s : State) (n : Nat) (f : Hart → Hart) : (s.modHart n f).imgCtr = s.imgCtr := rfl
@[simp] theorem modHart_homeWait (s : State) (n : Nat) (f : Hart → Hart) : (s.modHart n f).homeWait = s.homeWait := rfl
@[simp] theorem modHart_remWait (s : State) (n : Nat) (f : Hart → Hart) : (s.modHart n f).remWait = s.remWait := rfl
@[simp] theorem modHart_portQ (s : State) (n : Nat) (f : Hart → Hart) : (s.modHart n f).portQ = s.portQ := rfl
@[simp] theorem modHart_replay (s : State) (n : Nat) (f : Hart → Hart) : (s.modHart n f).replay = s.replay := rfl
@[simp] theorem modHart_kvMarks (s : State) (n : Nat) (f : Hart → Hart) : (s.modHart n f).kvMarks = s.kvMarks := rfl
@[simp] theorem modHart_resetDue (s : State) (n : Nat) (f : Hart → Hart) : (s.modHart n f).resetDue = s.resetDue := rfl

@[simp] theorem modGang_powered (s : State) (n : Nat) (f : Gang → Gang) : (s.modGang n f).powered = s.powered := rfl
@[simp] theorem modGang_dev (s : State) (n : Nat) (f : Gang → Gang) : (s.modGang n f).dev = s.dev := rfl
@[simp] theorem modGang_fns (s : State) (n : Nat) (f : Gang → Gang) : (s.modGang n f).fns = s.fns := rfl
@[simp] theorem modGang_harts (s : State) (n : Nat) (f : Gang → Gang) : (s.modGang n f).harts = s.harts := rfl
@[simp] theorem modGang_mem (s : State) (n : Nat) (f : Gang → Gang) : (s.modGang n f).mem = s.mem := rfl
@[simp] theorem modGang_poison (s : State) (n : Nat) (f : Gang → Gang) : (s.modGang n f).poison = s.poison := rfl
@[simp] theorem modGang_llc (s : State) (n : Nat) (f : Gang → Gang) : (s.modGang n f).llc = s.llc := rfl
@[simp] theorem modGang_plru (s : State) (n : Nat) (f : Gang → Gang) : (s.modGang n f).plru = s.plru := rfl
@[simp] theorem modGang_fill (s : State) (n : Nat) (f : Gang → Gang) : (s.modGang n f).fill = s.fill := rfl
@[simp] theorem modGang_snoop (s : State) (n : Nat) (f : Gang → Gang) : (s.modGang n f).snoop = s.snoop := rfl
@[simp] theorem modGang_snoopWait (s : State) (n : Nat) (f : Gang → Gang) : (s.modGang n f).snoopWait = s.snoopWait := rfl
@[simp] theorem modGang_repair (s : State) (n : Nat) (f : Gang → Gang) : (s.modGang n f).repair = s.repair := rfl
@[simp] theorem modGang_tlb (s : State) (n : Nat) (f : Gang → Gang) : (s.modGang n f).tlb = s.tlb := rfl
@[simp] theorem modGang_faults (s : State) (n : Nat) (f : Gang → Gang) : (s.modGang n f).faults = s.faults := rfl
@[simp] theorem modGang_icache (s : State) (n : Nat) (f : Gang → Gang) : (s.modGang n f).icache = s.icache := rfl
@[simp] theorem modGang_roCache (s : State) (n : Nat) (f : Gang → Gang) : (s.modGang n f).roCache = s.roCache := rfl
@[simp] theorem modGang_surfRecs (s : State) (n : Nat) (f : Gang → Gang) : (s.modGang n f).surfRecs = s.surfRecs := rfl
@[simp] theorem modGang_apCopies (s : State) (n : Nat) (f : Gang → Gang) : (s.modGang n f).apCopies = s.apCopies := rfl
@[simp] theorem modGang_ext (s : State) (n : Nat) (f : Gang → Gang) : (s.modGang n f).ext = s.ext := rfl
@[simp] theorem modGang_subs (s : State) (n : Nat) (f : Gang → Gang) : (s.modGang n f).subs = s.subs := rfl
@[simp] theorem modGang_pushes (s : State) (n : Nat) (f : Gang → Gang) : (s.modGang n f).pushes = s.pushes := rfl
@[simp] theorem modGang_buckets (s : State) (n : Nat) (f : Gang → Gang) : (s.modGang n f).buckets = s.buckets := rfl
@[simp] theorem modGang_pools (s : State) (n : Nat) (f : Gang → Gang) : (s.modGang n f).pools = s.pools := rfl
@[simp] theorem modGang_trees (s : State) (n : Nat) (f : Gang → Gang) : (s.modGang n f).trees = s.trees := rfl
@[simp] theorem modGang_treeUp (s : State) (n : Nat) (f : Gang → Gang) : (s.modGang n f).treeUp = s.treeUp := rfl
@[simp] theorem modGang_treeDown (s : State) (n : Nat) (f : Gang → Gang) : (s.modGang n f).treeDown = s.treeDown := rfl
@[simp] theorem modGang_streams (s : State) (n : Nat) (f : Gang → Gang) : (s.modGang n f).streams = s.streams := rfl
@[simp] theorem modGang_portFails (s : State) (n : Nat) (f : Gang → Gang) : (s.modGang n f).portFails = s.portFails := rfl
@[simp] theorem modGang_portDown (s : State) (n : Nat) (f : Gang → Gang) : (s.modGang n f).portDown = s.portDown := rfl
@[simp] theorem modGang_cxlUp (s : State) (n : Nat) (f : Gang → Gang) : (s.modGang n f).cxlUp = s.cxlUp := rfl
@[simp] theorem modGang_outbox (s : State) (n : Nat) (f : Gang → Gang) : (s.modGang n f).outbox = s.outbox := rfl
@[simp] theorem modGang_launchQ (s : State) (n : Nat) (f : Gang → Gang) : (s.modGang n f).launchQ = s.launchQ := rfl
@[simp] theorem modGang_leftErr (s : State) (n : Nat) (f : Gang → Gang) : (s.modGang n f).leftErr = s.leftErr := rfl
@[simp] theorem modGang_vfResetting (s : State) (n : Nat) (f : Gang → Gang) : (s.modGang n f).vfResetting = s.vfResetting := rfl
@[simp] theorem modGang_agenda (s : State) (n : Nat) (f : Gang → Gang) : (s.modGang n f).agenda = s.agenda := rfl
@[simp] theorem modGang_stalled (s : State) (n : Nat) (f : Gang → Gang) : (s.modGang n f).stalled = s.stalled := rfl
@[simp] theorem modGang_lastAgent (s : State) (n : Nat) (f : Gang → Gang) : (s.modGang n f).lastAgent = s.lastAgent := rfl
@[simp] theorem modGang_agentMoves (s : State) (n : Nat) (f : Gang → Gang) : (s.modGang n f).agentMoves = s.agentMoves := rfl
@[simp] theorem modGang_cur (s : State) (n : Nat) (f : Gang → Gang) : (s.modGang n f).cur = s.cur := rfl
@[simp] theorem modGang_freeCtr (s : State) (n : Nat) (f : Gang → Gang) : (s.modGang n f).freeCtr = s.freeCtr := rfl
@[simp] theorem modGang_issueCtr (s : State) (n : Nat) (f : Gang → Gang) : (s.modGang n f).issueCtr = s.issueCtr := rfl
@[simp] theorem modGang_placeCtr (s : State) (n : Nat) (f : Gang → Gang) : (s.modGang n f).placeCtr = s.placeCtr := rfl
@[simp] theorem modGang_reqCtr (s : State) (n : Nat) (f : Gang → Gang) : (s.modGang n f).reqCtr = s.reqCtr := rfl
@[simp] theorem modGang_gangCtr (s : State) (n : Nat) (f : Gang → Gang) : (s.modGang n f).gangCtr = s.gangCtr := rfl
@[simp] theorem modGang_hartCtr (s : State) (n : Nat) (f : Gang → Gang) : (s.modGang n f).hartCtr = s.hartCtr := rfl
@[simp] theorem modGang_imgCtr (s : State) (n : Nat) (f : Gang → Gang) : (s.modGang n f).imgCtr = s.imgCtr := rfl
@[simp] theorem modGang_homeWait (s : State) (n : Nat) (f : Gang → Gang) : (s.modGang n f).homeWait = s.homeWait := rfl
@[simp] theorem modGang_remWait (s : State) (n : Nat) (f : Gang → Gang) : (s.modGang n f).remWait = s.remWait := rfl
@[simp] theorem modGang_portQ (s : State) (n : Nat) (f : Gang → Gang) : (s.modGang n f).portQ = s.portQ := rfl
@[simp] theorem modGang_replay (s : State) (n : Nat) (f : Gang → Gang) : (s.modGang n f).replay = s.replay := rfl
@[simp] theorem modGang_kvMarks (s : State) (n : Nat) (f : Gang → Gang) : (s.modGang n f).kvMarks = s.kvMarks := rfl
@[simp] theorem modGang_resetDue (s : State) (n : Nat) (f : Gang → Gang) : (s.modGang n f).resetDue = s.resetDue := rfl
@[simp] theorem modGang_early (s : State) (n : Nat) (f : Gang → Gang) : (s.modGang n f).early = s.early := rfl
@[simp] theorem modGang_cpls (s : State) (n : Nat) (f : Gang → Gang) : (s.modGang n f).cpls = s.cpls := rfl
@[simp] theorem modGang_hints (s : State) (n : Nat) (f : Gang → Gang) : (s.modGang n f).hints = s.hints := rfl
@[simp] theorem modGang_kvDetached (s : State) (n : Nat) (f : Gang → Gang) : (s.modGang n f).kvDetached = s.kvDetached := rfl

@[simp] theorem modFn_powered (s : State) (n : Nat) (f : FnRegs → FnRegs) : (s.modFn n f).powered = s.powered := rfl
@[simp] theorem modFn_dev (s : State) (n : Nat) (f : FnRegs → FnRegs) : (s.modFn n f).dev = s.dev := rfl
@[simp] theorem modFn_harts (s : State) (n : Nat) (f : FnRegs → FnRegs) : (s.modFn n f).harts = s.harts := rfl
@[simp] theorem modFn_gangs (s : State) (n : Nat) (f : FnRegs → FnRegs) : (s.modFn n f).gangs = s.gangs := rfl
@[simp] theorem modFn_mem (s : State) (n : Nat) (f : FnRegs → FnRegs) : (s.modFn n f).mem = s.mem := rfl
@[simp] theorem modFn_poison (s : State) (n : Nat) (f : FnRegs → FnRegs) : (s.modFn n f).poison = s.poison := rfl
@[simp] theorem modFn_llc (s : State) (n : Nat) (f : FnRegs → FnRegs) : (s.modFn n f).llc = s.llc := rfl
@[simp] theorem modFn_plru (s : State) (n : Nat) (f : FnRegs → FnRegs) : (s.modFn n f).plru = s.plru := rfl
@[simp] theorem modFn_fill (s : State) (n : Nat) (f : FnRegs → FnRegs) : (s.modFn n f).fill = s.fill := rfl
@[simp] theorem modFn_snoop (s : State) (n : Nat) (f : FnRegs → FnRegs) : (s.modFn n f).snoop = s.snoop := rfl
@[simp] theorem modFn_snoopWait (s : State) (n : Nat) (f : FnRegs → FnRegs) : (s.modFn n f).snoopWait = s.snoopWait := rfl
@[simp] theorem modFn_repair (s : State) (n : Nat) (f : FnRegs → FnRegs) : (s.modFn n f).repair = s.repair := rfl
@[simp] theorem modFn_tlb (s : State) (n : Nat) (f : FnRegs → FnRegs) : (s.modFn n f).tlb = s.tlb := rfl
@[simp] theorem modFn_faults (s : State) (n : Nat) (f : FnRegs → FnRegs) : (s.modFn n f).faults = s.faults := rfl
@[simp] theorem modFn_icache (s : State) (n : Nat) (f : FnRegs → FnRegs) : (s.modFn n f).icache = s.icache := rfl
@[simp] theorem modFn_roCache (s : State) (n : Nat) (f : FnRegs → FnRegs) : (s.modFn n f).roCache = s.roCache := rfl
@[simp] theorem modFn_surfRecs (s : State) (n : Nat) (f : FnRegs → FnRegs) : (s.modFn n f).surfRecs = s.surfRecs := rfl
@[simp] theorem modFn_apCopies (s : State) (n : Nat) (f : FnRegs → FnRegs) : (s.modFn n f).apCopies = s.apCopies := rfl
@[simp] theorem modFn_ext (s : State) (n : Nat) (f : FnRegs → FnRegs) : (s.modFn n f).ext = s.ext := rfl
@[simp] theorem modFn_subs (s : State) (n : Nat) (f : FnRegs → FnRegs) : (s.modFn n f).subs = s.subs := rfl
@[simp] theorem modFn_pushes (s : State) (n : Nat) (f : FnRegs → FnRegs) : (s.modFn n f).pushes = s.pushes := rfl
@[simp] theorem modFn_buckets (s : State) (n : Nat) (f : FnRegs → FnRegs) : (s.modFn n f).buckets = s.buckets := rfl
@[simp] theorem modFn_pools (s : State) (n : Nat) (f : FnRegs → FnRegs) : (s.modFn n f).pools = s.pools := rfl
@[simp] theorem modFn_trees (s : State) (n : Nat) (f : FnRegs → FnRegs) : (s.modFn n f).trees = s.trees := rfl
@[simp] theorem modFn_treeUp (s : State) (n : Nat) (f : FnRegs → FnRegs) : (s.modFn n f).treeUp = s.treeUp := rfl
@[simp] theorem modFn_treeDown (s : State) (n : Nat) (f : FnRegs → FnRegs) : (s.modFn n f).treeDown = s.treeDown := rfl
@[simp] theorem modFn_streams (s : State) (n : Nat) (f : FnRegs → FnRegs) : (s.modFn n f).streams = s.streams := rfl
@[simp] theorem modFn_portFails (s : State) (n : Nat) (f : FnRegs → FnRegs) : (s.modFn n f).portFails = s.portFails := rfl
@[simp] theorem modFn_portDown (s : State) (n : Nat) (f : FnRegs → FnRegs) : (s.modFn n f).portDown = s.portDown := rfl
@[simp] theorem modFn_cxlUp (s : State) (n : Nat) (f : FnRegs → FnRegs) : (s.modFn n f).cxlUp = s.cxlUp := rfl
@[simp] theorem modFn_outbox (s : State) (n : Nat) (f : FnRegs → FnRegs) : (s.modFn n f).outbox = s.outbox := rfl
@[simp] theorem modFn_launchQ (s : State) (n : Nat) (f : FnRegs → FnRegs) : (s.modFn n f).launchQ = s.launchQ := rfl
@[simp] theorem modFn_leftErr (s : State) (n : Nat) (f : FnRegs → FnRegs) : (s.modFn n f).leftErr = s.leftErr := rfl
@[simp] theorem modFn_vfResetting (s : State) (n : Nat) (f : FnRegs → FnRegs) : (s.modFn n f).vfResetting = s.vfResetting := rfl
@[simp] theorem modFn_agenda (s : State) (n : Nat) (f : FnRegs → FnRegs) : (s.modFn n f).agenda = s.agenda := rfl
@[simp] theorem modFn_stalled (s : State) (n : Nat) (f : FnRegs → FnRegs) : (s.modFn n f).stalled = s.stalled := rfl
@[simp] theorem modFn_lastAgent (s : State) (n : Nat) (f : FnRegs → FnRegs) : (s.modFn n f).lastAgent = s.lastAgent := rfl
@[simp] theorem modFn_agentMoves (s : State) (n : Nat) (f : FnRegs → FnRegs) : (s.modFn n f).agentMoves = s.agentMoves := rfl
@[simp] theorem modFn_cur (s : State) (n : Nat) (f : FnRegs → FnRegs) : (s.modFn n f).cur = s.cur := rfl
@[simp] theorem modFn_freeCtr (s : State) (n : Nat) (f : FnRegs → FnRegs) : (s.modFn n f).freeCtr = s.freeCtr := rfl
@[simp] theorem modFn_issueCtr (s : State) (n : Nat) (f : FnRegs → FnRegs) : (s.modFn n f).issueCtr = s.issueCtr := rfl
@[simp] theorem modFn_placeCtr (s : State) (n : Nat) (f : FnRegs → FnRegs) : (s.modFn n f).placeCtr = s.placeCtr := rfl
@[simp] theorem modFn_reqCtr (s : State) (n : Nat) (f : FnRegs → FnRegs) : (s.modFn n f).reqCtr = s.reqCtr := rfl
@[simp] theorem modFn_gangCtr (s : State) (n : Nat) (f : FnRegs → FnRegs) : (s.modFn n f).gangCtr = s.gangCtr := rfl
@[simp] theorem modFn_hartCtr (s : State) (n : Nat) (f : FnRegs → FnRegs) : (s.modFn n f).hartCtr = s.hartCtr := rfl
@[simp] theorem modFn_imgCtr (s : State) (n : Nat) (f : FnRegs → FnRegs) : (s.modFn n f).imgCtr = s.imgCtr := rfl
@[simp] theorem modFn_homeWait (s : State) (n : Nat) (f : FnRegs → FnRegs) : (s.modFn n f).homeWait = s.homeWait := rfl
@[simp] theorem modFn_remWait (s : State) (n : Nat) (f : FnRegs → FnRegs) : (s.modFn n f).remWait = s.remWait := rfl
@[simp] theorem modFn_portQ (s : State) (n : Nat) (f : FnRegs → FnRegs) : (s.modFn n f).portQ = s.portQ := rfl
@[simp] theorem modFn_replay (s : State) (n : Nat) (f : FnRegs → FnRegs) : (s.modFn n f).replay = s.replay := rfl
@[simp] theorem modFn_kvMarks (s : State) (n : Nat) (f : FnRegs → FnRegs) : (s.modFn n f).kvMarks = s.kvMarks := rfl
@[simp] theorem modFn_resetDue (s : State) (n : Nat) (f : FnRegs → FnRegs) : (s.modFn n f).resetDue = s.resetDue := rfl
@[simp] theorem modFn_early (s : State) (n : Nat) (f : FnRegs → FnRegs) : (s.modFn n f).early = s.early := rfl
@[simp] theorem modFn_cpls (s : State) (n : Nat) (f : FnRegs → FnRegs) : (s.modFn n f).cpls = s.cpls := rfl
@[simp] theorem modFn_hints (s : State) (n : Nat) (f : FnRegs → FnRegs) : (s.modFn n f).hints = s.hints := rfl
@[simp] theorem modFn_kvDetached (s : State) (n : Nat) (f : FnRegs → FnRegs) : (s.modFn n f).kvDetached = s.kvDetached := rfl

@[simp] theorem modDev_powered (s : State) (f : DevRegs → DevRegs) : (s.modDev f).powered = s.powered := rfl
@[simp] theorem modDev_fns (s : State) (f : DevRegs → DevRegs) : (s.modDev f).fns = s.fns := rfl
@[simp] theorem modDev_harts (s : State) (f : DevRegs → DevRegs) : (s.modDev f).harts = s.harts := rfl
@[simp] theorem modDev_gangs (s : State) (f : DevRegs → DevRegs) : (s.modDev f).gangs = s.gangs := rfl
@[simp] theorem modDev_mem (s : State) (f : DevRegs → DevRegs) : (s.modDev f).mem = s.mem := rfl
@[simp] theorem modDev_poison (s : State) (f : DevRegs → DevRegs) : (s.modDev f).poison = s.poison := rfl
@[simp] theorem modDev_llc (s : State) (f : DevRegs → DevRegs) : (s.modDev f).llc = s.llc := rfl
@[simp] theorem modDev_plru (s : State) (f : DevRegs → DevRegs) : (s.modDev f).plru = s.plru := rfl
@[simp] theorem modDev_fill (s : State) (f : DevRegs → DevRegs) : (s.modDev f).fill = s.fill := rfl
@[simp] theorem modDev_snoop (s : State) (f : DevRegs → DevRegs) : (s.modDev f).snoop = s.snoop := rfl
@[simp] theorem modDev_snoopWait (s : State) (f : DevRegs → DevRegs) : (s.modDev f).snoopWait = s.snoopWait := rfl
@[simp] theorem modDev_repair (s : State) (f : DevRegs → DevRegs) : (s.modDev f).repair = s.repair := rfl
@[simp] theorem modDev_tlb (s : State) (f : DevRegs → DevRegs) : (s.modDev f).tlb = s.tlb := rfl
@[simp] theorem modDev_faults (s : State) (f : DevRegs → DevRegs) : (s.modDev f).faults = s.faults := rfl
@[simp] theorem modDev_icache (s : State) (f : DevRegs → DevRegs) : (s.modDev f).icache = s.icache := rfl
@[simp] theorem modDev_roCache (s : State) (f : DevRegs → DevRegs) : (s.modDev f).roCache = s.roCache := rfl
@[simp] theorem modDev_surfRecs (s : State) (f : DevRegs → DevRegs) : (s.modDev f).surfRecs = s.surfRecs := rfl
@[simp] theorem modDev_apCopies (s : State) (f : DevRegs → DevRegs) : (s.modDev f).apCopies = s.apCopies := rfl
@[simp] theorem modDev_ext (s : State) (f : DevRegs → DevRegs) : (s.modDev f).ext = s.ext := rfl
@[simp] theorem modDev_subs (s : State) (f : DevRegs → DevRegs) : (s.modDev f).subs = s.subs := rfl
@[simp] theorem modDev_pushes (s : State) (f : DevRegs → DevRegs) : (s.modDev f).pushes = s.pushes := rfl
@[simp] theorem modDev_buckets (s : State) (f : DevRegs → DevRegs) : (s.modDev f).buckets = s.buckets := rfl
@[simp] theorem modDev_pools (s : State) (f : DevRegs → DevRegs) : (s.modDev f).pools = s.pools := rfl
@[simp] theorem modDev_trees (s : State) (f : DevRegs → DevRegs) : (s.modDev f).trees = s.trees := rfl
@[simp] theorem modDev_treeUp (s : State) (f : DevRegs → DevRegs) : (s.modDev f).treeUp = s.treeUp := rfl
@[simp] theorem modDev_treeDown (s : State) (f : DevRegs → DevRegs) : (s.modDev f).treeDown = s.treeDown := rfl
@[simp] theorem modDev_streams (s : State) (f : DevRegs → DevRegs) : (s.modDev f).streams = s.streams := rfl
@[simp] theorem modDev_portFails (s : State) (f : DevRegs → DevRegs) : (s.modDev f).portFails = s.portFails := rfl
@[simp] theorem modDev_portDown (s : State) (f : DevRegs → DevRegs) : (s.modDev f).portDown = s.portDown := rfl
@[simp] theorem modDev_cxlUp (s : State) (f : DevRegs → DevRegs) : (s.modDev f).cxlUp = s.cxlUp := rfl
@[simp] theorem modDev_outbox (s : State) (f : DevRegs → DevRegs) : (s.modDev f).outbox = s.outbox := rfl
@[simp] theorem modDev_launchQ (s : State) (f : DevRegs → DevRegs) : (s.modDev f).launchQ = s.launchQ := rfl
@[simp] theorem modDev_leftErr (s : State) (f : DevRegs → DevRegs) : (s.modDev f).leftErr = s.leftErr := rfl
@[simp] theorem modDev_vfResetting (s : State) (f : DevRegs → DevRegs) : (s.modDev f).vfResetting = s.vfResetting := rfl
@[simp] theorem modDev_agenda (s : State) (f : DevRegs → DevRegs) : (s.modDev f).agenda = s.agenda := rfl
@[simp] theorem modDev_stalled (s : State) (f : DevRegs → DevRegs) : (s.modDev f).stalled = s.stalled := rfl
@[simp] theorem modDev_lastAgent (s : State) (f : DevRegs → DevRegs) : (s.modDev f).lastAgent = s.lastAgent := rfl
@[simp] theorem modDev_agentMoves (s : State) (f : DevRegs → DevRegs) : (s.modDev f).agentMoves = s.agentMoves := rfl
@[simp] theorem modDev_cur (s : State) (f : DevRegs → DevRegs) : (s.modDev f).cur = s.cur := rfl
@[simp] theorem modDev_freeCtr (s : State) (f : DevRegs → DevRegs) : (s.modDev f).freeCtr = s.freeCtr := rfl
@[simp] theorem modDev_issueCtr (s : State) (f : DevRegs → DevRegs) : (s.modDev f).issueCtr = s.issueCtr := rfl
@[simp] theorem modDev_placeCtr (s : State) (f : DevRegs → DevRegs) : (s.modDev f).placeCtr = s.placeCtr := rfl
@[simp] theorem modDev_reqCtr (s : State) (f : DevRegs → DevRegs) : (s.modDev f).reqCtr = s.reqCtr := rfl
@[simp] theorem modDev_gangCtr (s : State) (f : DevRegs → DevRegs) : (s.modDev f).gangCtr = s.gangCtr := rfl
@[simp] theorem modDev_hartCtr (s : State) (f : DevRegs → DevRegs) : (s.modDev f).hartCtr = s.hartCtr := rfl
@[simp] theorem modDev_imgCtr (s : State) (f : DevRegs → DevRegs) : (s.modDev f).imgCtr = s.imgCtr := rfl
@[simp] theorem modDev_homeWait (s : State) (f : DevRegs → DevRegs) : (s.modDev f).homeWait = s.homeWait := rfl
@[simp] theorem modDev_remWait (s : State) (f : DevRegs → DevRegs) : (s.modDev f).remWait = s.remWait := rfl
@[simp] theorem modDev_portQ (s : State) (f : DevRegs → DevRegs) : (s.modDev f).portQ = s.portQ := rfl
@[simp] theorem modDev_replay (s : State) (f : DevRegs → DevRegs) : (s.modDev f).replay = s.replay := rfl
@[simp] theorem modDev_kvMarks (s : State) (f : DevRegs → DevRegs) : (s.modDev f).kvMarks = s.kvMarks := rfl
@[simp] theorem modDev_resetDue (s : State) (f : DevRegs → DevRegs) : (s.modDev f).resetDue = s.resetDue := rfl

@[simp] theorem send_powered (s : State) (m : Msg) : (s.send m).powered = s.powered := rfl
@[simp] theorem send_dev (s : State) (m : Msg) : (s.send m).dev = s.dev := rfl
@[simp] theorem send_fns (s : State) (m : Msg) : (s.send m).fns = s.fns := rfl
@[simp] theorem send_harts (s : State) (m : Msg) : (s.send m).harts = s.harts := rfl
@[simp] theorem send_gangs (s : State) (m : Msg) : (s.send m).gangs = s.gangs := rfl
@[simp] theorem send_mem (s : State) (m : Msg) : (s.send m).mem = s.mem := rfl
@[simp] theorem send_poison (s : State) (m : Msg) : (s.send m).poison = s.poison := rfl
@[simp] theorem send_llc (s : State) (m : Msg) : (s.send m).llc = s.llc := rfl
@[simp] theorem send_plru (s : State) (m : Msg) : (s.send m).plru = s.plru := rfl
@[simp] theorem send_fill (s : State) (m : Msg) : (s.send m).fill = s.fill := rfl
@[simp] theorem send_snoop (s : State) (m : Msg) : (s.send m).snoop = s.snoop := rfl
@[simp] theorem send_snoopWait (s : State) (m : Msg) : (s.send m).snoopWait = s.snoopWait := rfl
@[simp] theorem send_repair (s : State) (m : Msg) : (s.send m).repair = s.repair := rfl
@[simp] theorem send_tlb (s : State) (m : Msg) : (s.send m).tlb = s.tlb := rfl
@[simp] theorem send_faults (s : State) (m : Msg) : (s.send m).faults = s.faults := rfl
@[simp] theorem send_icache (s : State) (m : Msg) : (s.send m).icache = s.icache := rfl
@[simp] theorem send_roCache (s : State) (m : Msg) : (s.send m).roCache = s.roCache := rfl
@[simp] theorem send_surfRecs (s : State) (m : Msg) : (s.send m).surfRecs = s.surfRecs := rfl
@[simp] theorem send_apCopies (s : State) (m : Msg) : (s.send m).apCopies = s.apCopies := rfl
@[simp] theorem send_ext (s : State) (m : Msg) : (s.send m).ext = s.ext := rfl
@[simp] theorem send_subs (s : State) (m : Msg) : (s.send m).subs = s.subs := rfl
@[simp] theorem send_pushes (s : State) (m : Msg) : (s.send m).pushes = s.pushes := rfl
@[simp] theorem send_buckets (s : State) (m : Msg) : (s.send m).buckets = s.buckets := rfl
@[simp] theorem send_pools (s : State) (m : Msg) : (s.send m).pools = s.pools := rfl
@[simp] theorem send_trees (s : State) (m : Msg) : (s.send m).trees = s.trees := rfl
@[simp] theorem send_treeUp (s : State) (m : Msg) : (s.send m).treeUp = s.treeUp := rfl
@[simp] theorem send_treeDown (s : State) (m : Msg) : (s.send m).treeDown = s.treeDown := rfl
@[simp] theorem send_streams (s : State) (m : Msg) : (s.send m).streams = s.streams := rfl
@[simp] theorem send_portFails (s : State) (m : Msg) : (s.send m).portFails = s.portFails := rfl
@[simp] theorem send_portDown (s : State) (m : Msg) : (s.send m).portDown = s.portDown := rfl
@[simp] theorem send_cxlUp (s : State) (m : Msg) : (s.send m).cxlUp = s.cxlUp := rfl
@[simp] theorem send_launchQ (s : State) (m : Msg) : (s.send m).launchQ = s.launchQ := rfl
@[simp] theorem send_leftErr (s : State) (m : Msg) : (s.send m).leftErr = s.leftErr := rfl
@[simp] theorem send_vfResetting (s : State) (m : Msg) : (s.send m).vfResetting = s.vfResetting := rfl
@[simp] theorem send_agenda (s : State) (m : Msg) : (s.send m).agenda = s.agenda := rfl
@[simp] theorem send_stalled (s : State) (m : Msg) : (s.send m).stalled = s.stalled := rfl
@[simp] theorem send_lastAgent (s : State) (m : Msg) : (s.send m).lastAgent = s.lastAgent := rfl
@[simp] theorem send_agentMoves (s : State) (m : Msg) : (s.send m).agentMoves = s.agentMoves := rfl
@[simp] theorem send_cur (s : State) (m : Msg) : (s.send m).cur = s.cur := rfl
@[simp] theorem send_freeCtr (s : State) (m : Msg) : (s.send m).freeCtr = s.freeCtr := rfl
@[simp] theorem send_issueCtr (s : State) (m : Msg) : (s.send m).issueCtr = s.issueCtr := rfl
@[simp] theorem send_placeCtr (s : State) (m : Msg) : (s.send m).placeCtr = s.placeCtr := rfl
@[simp] theorem send_reqCtr (s : State) (m : Msg) : (s.send m).reqCtr = s.reqCtr := rfl
@[simp] theorem send_gangCtr (s : State) (m : Msg) : (s.send m).gangCtr = s.gangCtr := rfl
@[simp] theorem send_hartCtr (s : State) (m : Msg) : (s.send m).hartCtr = s.hartCtr := rfl
@[simp] theorem send_imgCtr (s : State) (m : Msg) : (s.send m).imgCtr = s.imgCtr := rfl
@[simp] theorem send_homeWait (s : State) (m : Msg) : (s.send m).homeWait = s.homeWait := rfl
@[simp] theorem send_remWait (s : State) (m : Msg) : (s.send m).remWait = s.remWait := rfl
@[simp] theorem send_portQ (s : State) (m : Msg) : (s.send m).portQ = s.portQ := rfl
@[simp] theorem send_replay (s : State) (m : Msg) : (s.send m).replay = s.replay := rfl
@[simp] theorem send_kvMarks (s : State) (m : Msg) : (s.send m).kvMarks = s.kvMarks := rfl
@[simp] theorem send_resetDue (s : State) (m : Msg) : (s.send m).resetDue = s.resetDue := rfl

@[simp] theorem modHart_harts (s : State) (n : Nat) (f : Hart → Hart) :
    (s.modHart n f).harts = s.harts.map (fun h => if h.id == n then f h else h) := rfl
@[simp] theorem modDev_dev (s : State) (f : DevRegs → DevRegs) : (s.modDev f).dev = f s.dev := rfl
@[simp] theorem modDev_early (s : State) (f : DevRegs → DevRegs) : (s.modDev f).early = s.early := rfl
@[simp] theorem modDev_cpls (s : State) (f : DevRegs → DevRegs) : (s.modDev f).cpls = s.cpls := rfl
@[simp] theorem modDev_hints (s : State) (f : DevRegs → DevRegs) : (s.modDev f).hints = s.hints := rfl
@[simp] theorem modDev_kvDetached (s : State) (f : DevRegs → DevRegs) : (s.modDev f).kvDetached = s.kvDetached := rfl
@[simp] theorem send_outbox (s : State) (m : Msg) : (s.send m).outbox = s.outbox ++ [m] := rfl
@[simp] theorem send_early (s : State) (m : Msg) : (s.send m).early = s.early := rfl
@[simp] theorem send_cpls (s : State) (m : Msg) : (s.send m).cpls = s.cpls := rfl
@[simp] theorem send_hints (s : State) (m : Msg) : (s.send m).hints = s.hints := rfl
@[simp] theorem send_kvDetached (s : State) (m : Msg) : (s.send m).kvDetached = s.kvDetached := rfl

/-! A unit that ends an instruction or tries again changes no more than what waits for answers and at the ports. -/

@[simp] theorem settle_powered (s : State) (n a : Nat) : (s.settle n a).powered = s.powered := rfl
@[simp] theorem settle_dev (s : State) (n a : Nat) : (s.settle n a).dev = s.dev := rfl
@[simp] theorem settle_fns (s : State) (n a : Nat) : (s.settle n a).fns = s.fns := rfl
@[simp] theorem settle_harts (s : State) (n a : Nat) : (s.settle n a).harts = s.harts := rfl
@[simp] theorem settle_gangs (s : State) (n a : Nat) : (s.settle n a).gangs = s.gangs := rfl
@[simp] theorem settle_mem (s : State) (n a : Nat) : (s.settle n a).mem = s.mem := rfl
@[simp] theorem settle_poison (s : State) (n a : Nat) : (s.settle n a).poison = s.poison := rfl
@[simp] theorem settle_llc (s : State) (n a : Nat) : (s.settle n a).llc = s.llc := rfl
@[simp] theorem settle_plru (s : State) (n a : Nat) : (s.settle n a).plru = s.plru := rfl
@[simp] theorem settle_fill (s : State) (n a : Nat) : (s.settle n a).fill = s.fill := rfl
@[simp] theorem settle_snoop (s : State) (n a : Nat) : (s.settle n a).snoop = s.snoop := rfl
@[simp] theorem settle_snoopWait (s : State) (n a : Nat) : (s.settle n a).snoopWait = s.snoopWait := rfl
@[simp] theorem settle_homeWait (s : State) (n a : Nat) : (s.settle n a).homeWait = s.homeWait := rfl
@[simp] theorem settle_remWait (s : State) (n a : Nat) : (s.settle n a).remWait = s.remWait := rfl
@[simp] theorem settle_repair (s : State) (n a : Nat) : (s.settle n a).repair = s.repair := rfl
@[simp] theorem settle_tlb (s : State) (n a : Nat) : (s.settle n a).tlb = s.tlb := rfl
@[simp] theorem settle_faults (s : State) (n a : Nat) : (s.settle n a).faults = s.faults := rfl
@[simp] theorem settle_icache (s : State) (n a : Nat) : (s.settle n a).icache = s.icache := rfl
@[simp] theorem settle_roCache (s : State) (n a : Nat) : (s.settle n a).roCache = s.roCache := rfl
@[simp] theorem settle_surfRecs (s : State) (n a : Nat) : (s.settle n a).surfRecs = s.surfRecs := rfl
@[simp] theorem settle_apCopies (s : State) (n a : Nat) : (s.settle n a).apCopies = s.apCopies := rfl
@[simp] theorem settle_subs (s : State) (n a : Nat) : (s.settle n a).subs = s.subs := rfl
@[simp] theorem settle_pushes (s : State) (n a : Nat) : (s.settle n a).pushes = s.pushes := rfl
@[simp] theorem settle_buckets (s : State) (n a : Nat) : (s.settle n a).buckets = s.buckets := rfl
@[simp] theorem settle_pools (s : State) (n a : Nat) : (s.settle n a).pools = s.pools := rfl
@[simp] theorem settle_trees (s : State) (n a : Nat) : (s.settle n a).trees = s.trees := rfl
@[simp] theorem settle_treeUp (s : State) (n a : Nat) : (s.settle n a).treeUp = s.treeUp := rfl
@[simp] theorem settle_treeDown (s : State) (n a : Nat) : (s.settle n a).treeDown = s.treeDown := rfl
@[simp] theorem settle_streams (s : State) (n a : Nat) : (s.settle n a).streams = s.streams := rfl
@[simp] theorem settle_portFails (s : State) (n a : Nat) : (s.settle n a).portFails = s.portFails := rfl
@[simp] theorem settle_portDown (s : State) (n a : Nat) : (s.settle n a).portDown = s.portDown := rfl
@[simp] theorem settle_replay (s : State) (n a : Nat) : (s.settle n a).replay = s.replay := rfl
@[simp] theorem settle_cxlUp (s : State) (n a : Nat) : (s.settle n a).cxlUp = s.cxlUp := rfl
@[simp] theorem settle_outbox (s : State) (n a : Nat) : (s.settle n a).outbox = s.outbox := rfl
@[simp] theorem settle_launchQ (s : State) (n a : Nat) : (s.settle n a).launchQ = s.launchQ := rfl
@[simp] theorem settle_leftErr (s : State) (n a : Nat) : (s.settle n a).leftErr = s.leftErr := rfl
@[simp] theorem settle_kvMarks (s : State) (n a : Nat) : (s.settle n a).kvMarks = s.kvMarks := rfl
@[simp] theorem settle_vfResetting (s : State) (n a : Nat) : (s.settle n a).vfResetting = s.vfResetting := rfl
@[simp] theorem settle_resetDue (s : State) (n a : Nat) : (s.settle n a).resetDue = s.resetDue := rfl
@[simp] theorem settle_agenda (s : State) (n a : Nat) : (s.settle n a).agenda = s.agenda := rfl
@[simp] theorem settle_stalled (s : State) (n a : Nat) : (s.settle n a).stalled = s.stalled := rfl
@[simp] theorem settle_lastAgent (s : State) (n a : Nat) : (s.settle n a).lastAgent = s.lastAgent := rfl
@[simp] theorem settle_agentMoves (s : State) (n a : Nat) : (s.settle n a).agentMoves = s.agentMoves := rfl
@[simp] theorem settle_cur (s : State) (n a : Nat) : (s.settle n a).cur = s.cur := rfl
@[simp] theorem settle_freeCtr (s : State) (n a : Nat) : (s.settle n a).freeCtr = s.freeCtr := rfl
@[simp] theorem settle_issueCtr (s : State) (n a : Nat) : (s.settle n a).issueCtr = s.issueCtr := rfl
@[simp] theorem settle_placeCtr (s : State) (n a : Nat) : (s.settle n a).placeCtr = s.placeCtr := rfl
@[simp] theorem settle_reqCtr (s : State) (n a : Nat) : (s.settle n a).reqCtr = s.reqCtr := rfl
@[simp] theorem settle_gangCtr (s : State) (n a : Nat) : (s.settle n a).gangCtr = s.gangCtr := rfl
@[simp] theorem settle_hartCtr (s : State) (n a : Nat) : (s.settle n a).hartCtr = s.hartCtr := rfl
@[simp] theorem settle_imgCtr (s : State) (n a : Nat) : (s.settle n a).imgCtr = s.imgCtr := rfl
@[simp] theorem settle_early (s : State) (n a : Nat) : (s.settle n a).early = s.early := rfl
@[simp] theorem settle_cpls (s : State) (n a : Nat) : (s.settle n a).cpls = s.cpls := rfl
@[simp] theorem settle_hints (s : State) (n a : Nat) : (s.settle n a).hints = s.hints := rfl
@[simp] theorem settle_kvDetached (s : State) (n a : Nat) : (s.settle n a).kvDetached = s.kvDetached := rfl

/-! Asking the host for lines, and what an attempt that waits leaves. -/

@[simp] theorem askHost_powered (s : State) (l : List Nat) : (s.askHost l).powered = s.powered := rfl
@[simp] theorem askHost_dev (s : State) (l : List Nat) : (s.askHost l).dev = s.dev := rfl
@[simp] theorem askHost_fns (s : State) (l : List Nat) : (s.askHost l).fns = s.fns := rfl
@[simp] theorem askHost_harts (s : State) (l : List Nat) : (s.askHost l).harts = s.harts := rfl
@[simp] theorem askHost_gangs (s : State) (l : List Nat) : (s.askHost l).gangs = s.gangs := rfl
@[simp] theorem askHost_mem (s : State) (l : List Nat) : (s.askHost l).mem = s.mem := rfl
@[simp] theorem askHost_poison (s : State) (l : List Nat) : (s.askHost l).poison = s.poison := rfl
@[simp] theorem askHost_llc (s : State) (l : List Nat) : (s.askHost l).llc = s.llc := rfl
@[simp] theorem askHost_plru (s : State) (l : List Nat) : (s.askHost l).plru = s.plru := rfl
@[simp] theorem askHost_fill (s : State) (l : List Nat) : (s.askHost l).fill = s.fill := rfl
@[simp] theorem askHost_snoop (s : State) (l : List Nat) : (s.askHost l).snoop = s.snoop := rfl
@[simp] theorem askHost_homeWait (s : State) (l : List Nat) : (s.askHost l).homeWait = s.homeWait := rfl
@[simp] theorem askHost_remWait (s : State) (l : List Nat) : (s.askHost l).remWait = s.remWait := rfl
@[simp] theorem askHost_repair (s : State) (l : List Nat) : (s.askHost l).repair = s.repair := rfl
@[simp] theorem askHost_tlb (s : State) (l : List Nat) : (s.askHost l).tlb = s.tlb := rfl
@[simp] theorem askHost_faults (s : State) (l : List Nat) : (s.askHost l).faults = s.faults := rfl
@[simp] theorem askHost_icache (s : State) (l : List Nat) : (s.askHost l).icache = s.icache := rfl
@[simp] theorem askHost_roCache (s : State) (l : List Nat) : (s.askHost l).roCache = s.roCache := rfl
@[simp] theorem askHost_surfRecs (s : State) (l : List Nat) : (s.askHost l).surfRecs = s.surfRecs := rfl
@[simp] theorem askHost_apCopies (s : State) (l : List Nat) : (s.askHost l).apCopies = s.apCopies := rfl
@[simp] theorem askHost_subs (s : State) (l : List Nat) : (s.askHost l).subs = s.subs := rfl
@[simp] theorem askHost_pushes (s : State) (l : List Nat) : (s.askHost l).pushes = s.pushes := rfl
@[simp] theorem askHost_buckets (s : State) (l : List Nat) : (s.askHost l).buckets = s.buckets := rfl
@[simp] theorem askHost_pools (s : State) (l : List Nat) : (s.askHost l).pools = s.pools := rfl
@[simp] theorem askHost_trees (s : State) (l : List Nat) : (s.askHost l).trees = s.trees := rfl
@[simp] theorem askHost_treeUp (s : State) (l : List Nat) : (s.askHost l).treeUp = s.treeUp := rfl
@[simp] theorem askHost_treeDown (s : State) (l : List Nat) : (s.askHost l).treeDown = s.treeDown := rfl
@[simp] theorem askHost_streams (s : State) (l : List Nat) : (s.askHost l).streams = s.streams := rfl
@[simp] theorem askHost_portFails (s : State) (l : List Nat) : (s.askHost l).portFails = s.portFails := rfl
@[simp] theorem askHost_portDown (s : State) (l : List Nat) : (s.askHost l).portDown = s.portDown := rfl
@[simp] theorem askHost_replay (s : State) (l : List Nat) : (s.askHost l).replay = s.replay := rfl
@[simp] theorem askHost_cxlUp (s : State) (l : List Nat) : (s.askHost l).cxlUp = s.cxlUp := rfl
@[simp] theorem askHost_launchQ (s : State) (l : List Nat) : (s.askHost l).launchQ = s.launchQ := rfl
@[simp] theorem askHost_leftErr (s : State) (l : List Nat) : (s.askHost l).leftErr = s.leftErr := rfl
@[simp] theorem askHost_kvMarks (s : State) (l : List Nat) : (s.askHost l).kvMarks = s.kvMarks := rfl
@[simp] theorem askHost_vfResetting (s : State) (l : List Nat) : (s.askHost l).vfResetting = s.vfResetting := rfl
@[simp] theorem askHost_resetDue (s : State) (l : List Nat) : (s.askHost l).resetDue = s.resetDue := rfl
@[simp] theorem askHost_agenda (s : State) (l : List Nat) : (s.askHost l).agenda = s.agenda := rfl
@[simp] theorem askHost_stalled (s : State) (l : List Nat) : (s.askHost l).stalled = s.stalled := rfl
@[simp] theorem askHost_lastAgent (s : State) (l : List Nat) : (s.askHost l).lastAgent = s.lastAgent := rfl
@[simp] theorem askHost_agentMoves (s : State) (l : List Nat) : (s.askHost l).agentMoves = s.agentMoves := rfl
@[simp] theorem askHost_cur (s : State) (l : List Nat) : (s.askHost l).cur = s.cur := rfl
@[simp] theorem askHost_freeCtr (s : State) (l : List Nat) : (s.askHost l).freeCtr = s.freeCtr := rfl
@[simp] theorem askHost_issueCtr (s : State) (l : List Nat) : (s.askHost l).issueCtr = s.issueCtr := rfl
@[simp] theorem askHost_placeCtr (s : State) (l : List Nat) : (s.askHost l).placeCtr = s.placeCtr := rfl
@[simp] theorem askHost_reqCtr (s : State) (l : List Nat) : (s.askHost l).reqCtr = s.reqCtr := rfl
@[simp] theorem askHost_gangCtr (s : State) (l : List Nat) : (s.askHost l).gangCtr = s.gangCtr := rfl
@[simp] theorem askHost_hartCtr (s : State) (l : List Nat) : (s.askHost l).hartCtr = s.hartCtr := rfl
@[simp] theorem askHost_imgCtr (s : State) (l : List Nat) : (s.askHost l).imgCtr = s.imgCtr := rfl
@[simp] theorem askHost_portQ (s : State) (l : List Nat) : (s.askHost l).portQ = s.portQ := rfl
@[simp] theorem askHost_ext (s : State) (l : List Nat) : (s.askHost l).ext = s.ext := rfl
@[simp] theorem askHost_early (s : State) (l : List Nat) : (s.askHost l).early = s.early := rfl
@[simp] theorem askHost_cpls (s : State) (l : List Nat) : (s.askHost l).cpls = s.cpls := rfl
@[simp] theorem askHost_hints (s : State) (l : List Nat) : (s.askHost l).hints = s.hints := rfl
@[simp] theorem askHost_kvDetached (s : State) (l : List Nat) : (s.askHost l).kvDetached = s.kvDetached := rfl

@[simp] theorem waited_powered (s t : State) : (s.waited t).powered = s.powered := rfl
@[simp] theorem waited_dev (s t : State) : (s.waited t).dev = s.dev := rfl
@[simp] theorem waited_fns (s t : State) : (s.waited t).fns = s.fns := rfl
@[simp] theorem waited_harts (s t : State) : (s.waited t).harts = s.harts := rfl
@[simp] theorem waited_gangs (s t : State) : (s.waited t).gangs = s.gangs := rfl
@[simp] theorem waited_mem (s t : State) : (s.waited t).mem = s.mem := rfl
@[simp] theorem waited_poison (s t : State) : (s.waited t).poison = s.poison := rfl
@[simp] theorem waited_llc (s t : State) : (s.waited t).llc = s.llc := rfl
@[simp] theorem waited_plru (s t : State) : (s.waited t).plru = s.plru := rfl
@[simp] theorem waited_fill (s t : State) : (s.waited t).fill = s.fill := rfl
@[simp] theorem waited_snoop (s t : State) : (s.waited t).snoop = s.snoop := rfl
@[simp] theorem waited_homeWait (s t : State) : (s.waited t).homeWait = s.homeWait := rfl
@[simp] theorem waited_remWait (s t : State) : (s.waited t).remWait = s.remWait := rfl
@[simp] theorem waited_repair (s t : State) : (s.waited t).repair = s.repair := rfl
@[simp] theorem waited_tlb (s t : State) : (s.waited t).tlb = s.tlb := rfl
@[simp] theorem waited_faults (s t : State) : (s.waited t).faults = s.faults := rfl
@[simp] theorem waited_icache (s t : State) : (s.waited t).icache = s.icache := rfl
@[simp] theorem waited_roCache (s t : State) : (s.waited t).roCache = s.roCache := rfl
@[simp] theorem waited_surfRecs (s t : State) : (s.waited t).surfRecs = s.surfRecs := rfl
@[simp] theorem waited_apCopies (s t : State) : (s.waited t).apCopies = s.apCopies := rfl
@[simp] theorem waited_subs (s t : State) : (s.waited t).subs = s.subs := rfl
@[simp] theorem waited_pushes (s t : State) : (s.waited t).pushes = s.pushes := rfl
@[simp] theorem waited_buckets (s t : State) : (s.waited t).buckets = t.buckets := rfl
@[simp] theorem waited_pools (s t : State) : (s.waited t).pools = t.pools := rfl
@[simp] theorem waited_trees (s t : State) : (s.waited t).trees = s.trees := rfl
@[simp] theorem waited_treeUp (s t : State) : (s.waited t).treeUp = s.treeUp := rfl
@[simp] theorem waited_treeDown (s t : State) : (s.waited t).treeDown = s.treeDown := rfl
@[simp] theorem waited_streams (s t : State) : (s.waited t).streams = s.streams := rfl
@[simp] theorem waited_portFails (s t : State) : (s.waited t).portFails = s.portFails := rfl
@[simp] theorem waited_portDown (s t : State) : (s.waited t).portDown = s.portDown := rfl
@[simp] theorem waited_cxlUp (s t : State) : (s.waited t).cxlUp = s.cxlUp := rfl
@[simp] theorem waited_launchQ (s t : State) : (s.waited t).launchQ = s.launchQ := rfl
@[simp] theorem waited_leftErr (s t : State) : (s.waited t).leftErr = s.leftErr := rfl
@[simp] theorem waited_kvMarks (s t : State) : (s.waited t).kvMarks = s.kvMarks := rfl
@[simp] theorem waited_vfResetting (s t : State) : (s.waited t).vfResetting = s.vfResetting := rfl
@[simp] theorem waited_resetDue (s t : State) : (s.waited t).resetDue = s.resetDue := rfl
@[simp] theorem waited_agenda (s t : State) : (s.waited t).agenda = s.agenda := rfl
@[simp] theorem waited_stalled (s t : State) : (s.waited t).stalled = s.stalled := rfl
@[simp] theorem waited_lastAgent (s t : State) : (s.waited t).lastAgent = s.lastAgent := rfl
@[simp] theorem waited_agentMoves (s t : State) : (s.waited t).agentMoves = s.agentMoves := rfl
@[simp] theorem waited_cur (s t : State) : (s.waited t).cur = s.cur := rfl
@[simp] theorem waited_freeCtr (s t : State) : (s.waited t).freeCtr = s.freeCtr := rfl
@[simp] theorem waited_issueCtr (s t : State) : (s.waited t).issueCtr = s.issueCtr := rfl
@[simp] theorem waited_placeCtr (s t : State) : (s.waited t).placeCtr = s.placeCtr := rfl
@[simp] theorem waited_gangCtr (s t : State) : (s.waited t).gangCtr = s.gangCtr := rfl
@[simp] theorem waited_hartCtr (s t : State) : (s.waited t).hartCtr = s.hartCtr := rfl
@[simp] theorem waited_imgCtr (s t : State) : (s.waited t).imgCtr = s.imgCtr := rfl
@[simp] theorem waited_early (s t : State) : (s.waited t).early = s.early := rfl
@[simp] theorem waited_cpls (s t : State) : (s.waited t).cpls = s.cpls := rfl
@[simp] theorem waited_hints (s t : State) : (s.waited t).hints = s.hints := rfl
@[simp] theorem waited_kvDetached (s t : State) : (s.waited t).kvDetached = s.kvDetached := rfl

@[simp] theorem retry_powered (s : State) (n a : Nat) : (s.retry n a).powered = s.powered := rfl
@[simp] theorem retry_dev (s : State) (n a : Nat) : (s.retry n a).dev = s.dev := rfl
@[simp] theorem retry_fns (s : State) (n a : Nat) : (s.retry n a).fns = s.fns := rfl
@[simp] theorem retry_harts (s : State) (n a : Nat) : (s.retry n a).harts = s.harts := rfl
@[simp] theorem retry_gangs (s : State) (n a : Nat) : (s.retry n a).gangs = s.gangs := rfl
@[simp] theorem retry_mem (s : State) (n a : Nat) : (s.retry n a).mem = s.mem := rfl
@[simp] theorem retry_poison (s : State) (n a : Nat) : (s.retry n a).poison = s.poison := rfl
@[simp] theorem retry_llc (s : State) (n a : Nat) : (s.retry n a).llc = s.llc := rfl
@[simp] theorem retry_plru (s : State) (n a : Nat) : (s.retry n a).plru = s.plru := rfl
@[simp] theorem retry_fill (s : State) (n a : Nat) : (s.retry n a).fill = s.fill := rfl
@[simp] theorem retry_snoop (s : State) (n a : Nat) : (s.retry n a).snoop = s.snoop := rfl
@[simp] theorem retry_snoopWait (s : State) (n a : Nat) : (s.retry n a).snoopWait = s.snoopWait := rfl
@[simp] theorem retry_homeWait (s : State) (n a : Nat) : (s.retry n a).homeWait = s.homeWait := rfl
@[simp] theorem retry_remWait (s : State) (n a : Nat) : (s.retry n a).remWait = s.remWait := rfl
@[simp] theorem retry_repair (s : State) (n a : Nat) : (s.retry n a).repair = s.repair := rfl
@[simp] theorem retry_tlb (s : State) (n a : Nat) : (s.retry n a).tlb = s.tlb := rfl
@[simp] theorem retry_faults (s : State) (n a : Nat) : (s.retry n a).faults = s.faults := rfl
@[simp] theorem retry_icache (s : State) (n a : Nat) : (s.retry n a).icache = s.icache := rfl
@[simp] theorem retry_roCache (s : State) (n a : Nat) : (s.retry n a).roCache = s.roCache := rfl
@[simp] theorem retry_surfRecs (s : State) (n a : Nat) : (s.retry n a).surfRecs = s.surfRecs := rfl
@[simp] theorem retry_apCopies (s : State) (n a : Nat) : (s.retry n a).apCopies = s.apCopies := rfl
@[simp] theorem retry_ext (s : State) (n a : Nat) : (s.retry n a).ext = s.ext := rfl
@[simp] theorem retry_subs (s : State) (n a : Nat) : (s.retry n a).subs = s.subs := rfl
@[simp] theorem retry_pushes (s : State) (n a : Nat) : (s.retry n a).pushes = s.pushes := rfl
@[simp] theorem retry_buckets (s : State) (n a : Nat) : (s.retry n a).buckets = s.buckets := rfl
@[simp] theorem retry_pools (s : State) (n a : Nat) : (s.retry n a).pools = s.pools := rfl
@[simp] theorem retry_trees (s : State) (n a : Nat) : (s.retry n a).trees = s.trees := rfl
@[simp] theorem retry_treeUp (s : State) (n a : Nat) : (s.retry n a).treeUp = s.treeUp := rfl
@[simp] theorem retry_treeDown (s : State) (n a : Nat) : (s.retry n a).treeDown = s.treeDown := rfl
@[simp] theorem retry_streams (s : State) (n a : Nat) : (s.retry n a).streams = s.streams := rfl
@[simp] theorem retry_portFails (s : State) (n a : Nat) : (s.retry n a).portFails = s.portFails := rfl
@[simp] theorem retry_portDown (s : State) (n a : Nat) : (s.retry n a).portDown = s.portDown := rfl
@[simp] theorem retry_replay (s : State) (n a : Nat) : (s.retry n a).replay = s.replay := rfl
@[simp] theorem retry_cxlUp (s : State) (n a : Nat) : (s.retry n a).cxlUp = s.cxlUp := rfl
@[simp] theorem retry_outbox (s : State) (n a : Nat) : (s.retry n a).outbox = s.outbox := rfl
@[simp] theorem retry_launchQ (s : State) (n a : Nat) : (s.retry n a).launchQ = s.launchQ := rfl
@[simp] theorem retry_leftErr (s : State) (n a : Nat) : (s.retry n a).leftErr = s.leftErr := rfl
@[simp] theorem retry_kvMarks (s : State) (n a : Nat) : (s.retry n a).kvMarks = s.kvMarks := rfl
@[simp] theorem retry_vfResetting (s : State) (n a : Nat) : (s.retry n a).vfResetting = s.vfResetting := rfl
@[simp] theorem retry_resetDue (s : State) (n a : Nat) : (s.retry n a).resetDue = s.resetDue := rfl
@[simp] theorem retry_agenda (s : State) (n a : Nat) : (s.retry n a).agenda = s.agenda := rfl
@[simp] theorem retry_stalled (s : State) (n a : Nat) : (s.retry n a).stalled = s.stalled := rfl
@[simp] theorem retry_lastAgent (s : State) (n a : Nat) : (s.retry n a).lastAgent = s.lastAgent := rfl
@[simp] theorem retry_agentMoves (s : State) (n a : Nat) : (s.retry n a).agentMoves = s.agentMoves := rfl
@[simp] theorem retry_cur (s : State) (n a : Nat) : (s.retry n a).cur = s.cur := rfl
@[simp] theorem retry_freeCtr (s : State) (n a : Nat) : (s.retry n a).freeCtr = s.freeCtr := rfl
@[simp] theorem retry_issueCtr (s : State) (n a : Nat) : (s.retry n a).issueCtr = s.issueCtr := rfl
@[simp] theorem retry_placeCtr (s : State) (n a : Nat) : (s.retry n a).placeCtr = s.placeCtr := rfl
@[simp] theorem retry_reqCtr (s : State) (n a : Nat) : (s.retry n a).reqCtr = s.reqCtr := rfl
@[simp] theorem retry_gangCtr (s : State) (n a : Nat) : (s.retry n a).gangCtr = s.gangCtr := rfl
@[simp] theorem retry_hartCtr (s : State) (n a : Nat) : (s.retry n a).hartCtr = s.hartCtr := rfl
@[simp] theorem retry_imgCtr (s : State) (n a : Nat) : (s.retry n a).imgCtr = s.imgCtr := rfl
@[simp] theorem retry_early (s : State) (n a : Nat) : (s.retry n a).early = s.early := rfl
@[simp] theorem retry_cpls (s : State) (n a : Nat) : (s.retry n a).cpls = s.cpls := rfl
@[simp] theorem retry_hints (s : State) (n a : Nat) : (s.retry n a).hints = s.hints := rfl
@[simp] theorem retry_kvDetached (s : State) (n a : Nat) : (s.retry n a).kvDetached = s.kvDetached := rfl

/-! Updates of a hart. -/

@[simp] theorem advance_id (h : Hart) : h.advance.id = h.id := rfl
@[simp] theorem advance_gang (h : Hart) : h.advance.gang = h.gang := rfl
@[simp] theorem advance_idx (h : Hart) : h.advance.idx = h.idx := rfl
@[simp] theorem advance_fn (h : Hart) : h.advance.fn = h.fn := rfl
@[simp] theorem advance_core (h : Hart) : h.advance.core = h.core := rfl
@[simp] theorem advance_slot (h : Hart) : h.advance.slot = h.slot := rfl
@[simp] theorem advance_level (h : Hart) : h.advance.level = h.level := rfl
@[simp] theorem advance_s (h : Hart) : h.advance.s = h.s := rfl
@[simp] theorem advance_sp (h : Hart) : h.advance.sp = h.sp := rfl
@[simp] theorem advance_vlmax (h : Hart) : h.advance.vlmax = h.vlmax := rfl
@[simp] theorem advance_vtype (h : Hart) : h.advance.vtype = h.vtype := rfl
@[simp] theorem advance_vmt (h : Hart) : h.advance.vmt = h.vmt := rfl
@[simp] theorem advance_vloopn (h : Hart) : h.advance.vloopn = h.vloopn := rfl
@[simp] theorem advance_vxsat (h : Hart) : h.advance.vxsat = h.vxsat := rfl
@[simp] theorem advance_vxrm (h : Hart) : h.advance.vxrm = h.vxrm := rfl
@[simp] theorem advance_frm (h : Hart) : h.advance.frm = h.frm := rfl
@[simp] theorem advance_fflags (h : Hart) : h.advance.fflags = h.fflags := rfl
@[simp] theorem advance_hcr (h : Hart) : h.advance.hcr = h.hcr := rfl
@[simp] theorem advance_apxq (h : Hart) : h.advance.apxq = h.apxq := rfl
@[simp] theorem advance_apxchk (h : Hart) : h.advance.apxchk = h.apxchk := rfl
@[simp] theorem advance_slip (h : Hart) : h.advance.slip = h.slip := rfl
@[simp] theorem advance_shufcnt (h : Hart) : h.advance.shufcnt = h.shufcnt := rfl
@[simp] theorem advance_vlSet (h : Hart) : h.advance.vlSet = h.vlSet := rfl
@[simp] theorem advance_loopSince (h : Hart) : h.advance.loopSince = h.loopSince := rfl
@[simp] theorem advance_apxRow (h : Hart) : h.advance.apxRow = h.apxRow := rfl
@[simp] theorem advance_tcause (h : Hart) : h.advance.tcause = h.tcause := rfl
@[simp] theorem advance_tval (h : Hart) : h.advance.tval = h.tval := rfl
@[simp] theorem advance_tpc (h : Hart) : h.advance.tpc = h.tpc := rfl
@[simp] theorem advance_tstatus (h : Hart) : h.advance.tstatus = h.tstatus := rfl
@[simp] theorem advance_tvec (h : Hart) : h.advance.tvec = h.tvec := rfl
@[simp] theorem advance_tprog (h : Hart) : h.advance.tprog = h.tprog := rfl
@[simp] theorem advance_tscratch (h : Hart) : h.advance.tscratch = h.tscratch := rfl
@[simp] theorem advance_rows (h : Hart) : h.advance.rows = h.rows := rfl
@[simp] theorem advance_queue (h : Hart) : h.advance.queue = h.queue := rfl
@[simp] theorem advance_qbase (h : Hart) : h.advance.qbase = h.qbase := rfl
@[simp] theorem advance_inq (h : Hart) : h.advance.inq = h.inq := rfl
@[simp] theorem advance_outq (h : Hart) : h.advance.outq = h.outq := rfl
@[simp] theorem advance_tokens (h : Hart) : h.advance.tokens = h.tokens := rfl
@[simp] theorem advance_cbt (h : Hart) : h.advance.cbt = h.cbt := rfl
@[simp] theorem advance_scratch (h : Hart) : h.advance.scratch = h.scratch := rfl
@[simp] theorem advance_scratchPoison (h : Hart) : h.advance.scratchPoison = h.scratchPoison := rfl
@[simp] theorem advance_slots (h : Hart) : h.advance.slots = h.slots := rfl
@[simp] theorem advance_slotPoison (h : Hart) : h.advance.slotPoison = h.slotPoison := rfl
@[simp] theorem advance_slotPairs (h : Hart) : h.advance.slotPairs = h.slotPairs := rfl
@[simp] theorem advance_arrivals (h : Hart) : h.advance.arrivals = h.arrivals := rfl
@[simp] theorem advance_freds (h : Hart) : h.advance.freds = h.freds := rfl
@[simp] theorem advance_wbuf (h : Hart) : h.advance.wbuf = h.wbuf := rfl
@[simp] theorem advance_park (h : Hart) : h.advance.park = h.park := rfl
@[simp] theorem advance_fetchWait (h : Hart) : h.advance.fetchWait = h.fetchWait := rfl
@[simp] theorem advance_halted (h : Hart) : h.advance.halted = h.halted := rfl
@[simp] theorem advance_stopped (h : Hart) : h.advance.stopped = h.stopped := rfl
@[simp] theorem advance_saved (h : Hart) : h.advance.saved = h.saved := rfl
@[simp] theorem advance_img (h : Hart) : h.advance.img = h.img := rfl
@[simp] theorem advance_area (h : Hart) : h.advance.area = h.area := rfl
@[simp] theorem advance_gbarCount (h : Hart) : h.advance.gbarCount = h.gbarCount := rfl
@[simp] theorem advance_gbarWait (h : Hart) : h.advance.gbarWait = h.gbarWait := rfl
@[simp] theorem advance_placedCyc (h : Hart) : h.advance.placedCyc = h.placedCyc := rfl
@[simp] theorem advance_stamp (h : Hart) : h.advance.stamp = h.stamp := rfl
@[simp] theorem advance_attempts (h : Hart) : h.advance.attempts = h.attempts := rfl
@[simp] theorem advance_placedSeq (h : Hart) : h.advance.placedSeq = h.placedSeq := rfl
@[simp] theorem advance_psyncAt (h : Hart) : h.advance.psyncAt = h.psyncAt := rfl
@[simp] theorem advance_kvParked (h : Hart) : h.advance.kvParked = h.kvParked := rfl
@[simp] theorem advance_pc (h : Hart) : h.advance.pc = h.pc + 4 := rfl
@[simp] theorem advance_gbarAt (h : Hart) : h.advance.gbarAt = h.gbarAt := rfl
@[simp] theorem advance_ageAt (h : Hart) : h.advance.ageAt = h.ageAt := rfl
@[simp] theorem advance_fredAt (h : Hart) : h.advance.fredAt = h.fredAt := rfl
@[simp] theorem advance_agateAt (h : Hart) : h.advance.agateAt = h.agateAt := rfl
@[simp] theorem advance_pfreeAt (h : Hart) : h.advance.pfreeAt = h.pfreeAt := rfl
@[simp] theorem advance_late (h : Hart) : h.advance.late = h.late := rfl

@[simp] theorem wr_id (h : Hart) (n : Nat) (v : Word) (p : Bool) : (h.wr n v p).id = h.id := by unfold Hart.wr; split <;> rfl
@[simp] theorem wr_gang (h : Hart) (n : Nat) (v : Word) (p : Bool) : (h.wr n v p).gang = h.gang := by unfold Hart.wr; split <;> rfl
@[simp] theorem wr_idx (h : Hart) (n : Nat) (v : Word) (p : Bool) : (h.wr n v p).idx = h.idx := by unfold Hart.wr; split <;> rfl
@[simp] theorem wr_fn (h : Hart) (n : Nat) (v : Word) (p : Bool) : (h.wr n v p).fn = h.fn := by unfold Hart.wr; split <;> rfl
@[simp] theorem wr_core (h : Hart) (n : Nat) (v : Word) (p : Bool) : (h.wr n v p).core = h.core := by unfold Hart.wr; split <;> rfl
@[simp] theorem wr_slot (h : Hart) (n : Nat) (v : Word) (p : Bool) : (h.wr n v p).slot = h.slot := by unfold Hart.wr; split <;> rfl
@[simp] theorem wr_level (h : Hart) (n : Nat) (v : Word) (p : Bool) : (h.wr n v p).level = h.level := by unfold Hart.wr; split <;> rfl
@[simp] theorem wr_pc (h : Hart) (n : Nat) (v : Word) (p : Bool) : (h.wr n v p).pc = h.pc := by unfold Hart.wr; split <;> rfl
@[simp] theorem wr_vlmax (h : Hart) (n : Nat) (v : Word) (p : Bool) : (h.wr n v p).vlmax = h.vlmax := by unfold Hart.wr; split <;> rfl
@[simp] theorem wr_vtype (h : Hart) (n : Nat) (v : Word) (p : Bool) : (h.wr n v p).vtype = h.vtype := by unfold Hart.wr; split <;> rfl
@[simp] theorem wr_vmt (h : Hart) (n : Nat) (v : Word) (p : Bool) : (h.wr n v p).vmt = h.vmt := by unfold Hart.wr; split <;> rfl
@[simp] theorem wr_vloopn (h : Hart) (n : Nat) (v : Word) (p : Bool) : (h.wr n v p).vloopn = h.vloopn := by unfold Hart.wr; split <;> rfl
@[simp] theorem wr_vxsat (h : Hart) (n : Nat) (v : Word) (p : Bool) : (h.wr n v p).vxsat = h.vxsat := by unfold Hart.wr; split <;> rfl
@[simp] theorem wr_vxrm (h : Hart) (n : Nat) (v : Word) (p : Bool) : (h.wr n v p).vxrm = h.vxrm := by unfold Hart.wr; split <;> rfl
@[simp] theorem wr_frm (h : Hart) (n : Nat) (v : Word) (p : Bool) : (h.wr n v p).frm = h.frm := by unfold Hart.wr; split <;> rfl
@[simp] theorem wr_fflags (h : Hart) (n : Nat) (v : Word) (p : Bool) : (h.wr n v p).fflags = h.fflags := by unfold Hart.wr; split <;> rfl
@[simp] theorem wr_hcr (h : Hart) (n : Nat) (v : Word) (p : Bool) : (h.wr n v p).hcr = h.hcr := by unfold Hart.wr; split <;> rfl
@[simp] theorem wr_apxq (h : Hart) (n : Nat) (v : Word) (p : Bool) : (h.wr n v p).apxq = h.apxq := by unfold Hart.wr; split <;> rfl
@[simp] theorem wr_apxchk (h : Hart) (n : Nat) (v : Word) (p : Bool) : (h.wr n v p).apxchk = h.apxchk := by unfold Hart.wr; split <;> rfl
@[simp] theorem wr_slip (h : Hart) (n : Nat) (v : Word) (p : Bool) : (h.wr n v p).slip = h.slip := by unfold Hart.wr; split <;> rfl
@[simp] theorem wr_shufcnt (h : Hart) (n : Nat) (v : Word) (p : Bool) : (h.wr n v p).shufcnt = h.shufcnt := by unfold Hart.wr; split <;> rfl
@[simp] theorem wr_vlSet (h : Hart) (n : Nat) (v : Word) (p : Bool) : (h.wr n v p).vlSet = h.vlSet := by unfold Hart.wr; split <;> rfl
@[simp] theorem wr_loopSince (h : Hart) (n : Nat) (v : Word) (p : Bool) : (h.wr n v p).loopSince = h.loopSince := by unfold Hart.wr; split <;> rfl
@[simp] theorem wr_apxRow (h : Hart) (n : Nat) (v : Word) (p : Bool) : (h.wr n v p).apxRow = h.apxRow := by unfold Hart.wr; split <;> rfl
@[simp] theorem wr_tcause (h : Hart) (n : Nat) (v : Word) (p : Bool) : (h.wr n v p).tcause = h.tcause := by unfold Hart.wr; split <;> rfl
@[simp] theorem wr_tval (h : Hart) (n : Nat) (v : Word) (p : Bool) : (h.wr n v p).tval = h.tval := by unfold Hart.wr; split <;> rfl
@[simp] theorem wr_tpc (h : Hart) (n : Nat) (v : Word) (p : Bool) : (h.wr n v p).tpc = h.tpc := by unfold Hart.wr; split <;> rfl
@[simp] theorem wr_tstatus (h : Hart) (n : Nat) (v : Word) (p : Bool) : (h.wr n v p).tstatus = h.tstatus := by unfold Hart.wr; split <;> rfl
@[simp] theorem wr_tvec (h : Hart) (n : Nat) (v : Word) (p : Bool) : (h.wr n v p).tvec = h.tvec := by unfold Hart.wr; split <;> rfl
@[simp] theorem wr_tprog (h : Hart) (n : Nat) (v : Word) (p : Bool) : (h.wr n v p).tprog = h.tprog := by unfold Hart.wr; split <;> rfl
@[simp] theorem wr_tscratch (h : Hart) (n : Nat) (v : Word) (p : Bool) : (h.wr n v p).tscratch = h.tscratch := by unfold Hart.wr; split <;> rfl
@[simp] theorem wr_rows (h : Hart) (n : Nat) (v : Word) (p : Bool) : (h.wr n v p).rows = h.rows := by unfold Hart.wr; split <;> rfl
@[simp] theorem wr_queue (h : Hart) (n : Nat) (v : Word) (p : Bool) : (h.wr n v p).queue = h.queue := by unfold Hart.wr; split <;> rfl
@[simp] theorem wr_qbase (h : Hart) (n : Nat) (v : Word) (p : Bool) : (h.wr n v p).qbase = h.qbase := by unfold Hart.wr; split <;> rfl
@[simp] theorem wr_inq (h : Hart) (n : Nat) (v : Word) (p : Bool) : (h.wr n v p).inq = h.inq := by unfold Hart.wr; split <;> rfl
@[simp] theorem wr_outq (h : Hart) (n : Nat) (v : Word) (p : Bool) : (h.wr n v p).outq = h.outq := by unfold Hart.wr; split <;> rfl
@[simp] theorem wr_tokens (h : Hart) (n : Nat) (v : Word) (p : Bool) : (h.wr n v p).tokens = h.tokens := by unfold Hart.wr; split <;> rfl
@[simp] theorem wr_cbt (h : Hart) (n : Nat) (v : Word) (p : Bool) : (h.wr n v p).cbt = h.cbt := by unfold Hart.wr; split <;> rfl
@[simp] theorem wr_scratch (h : Hart) (n : Nat) (v : Word) (p : Bool) : (h.wr n v p).scratch = h.scratch := by unfold Hart.wr; split <;> rfl
@[simp] theorem wr_scratchPoison (h : Hart) (n : Nat) (v : Word) (p : Bool) : (h.wr n v p).scratchPoison = h.scratchPoison := by unfold Hart.wr; split <;> rfl
@[simp] theorem wr_slots (h : Hart) (n : Nat) (v : Word) (p : Bool) : (h.wr n v p).slots = h.slots := by unfold Hart.wr; split <;> rfl
@[simp] theorem wr_slotPoison (h : Hart) (n : Nat) (v : Word) (p : Bool) : (h.wr n v p).slotPoison = h.slotPoison := by unfold Hart.wr; split <;> rfl
@[simp] theorem wr_slotPairs (h : Hart) (n : Nat) (v : Word) (p : Bool) : (h.wr n v p).slotPairs = h.slotPairs := by unfold Hart.wr; split <;> rfl
@[simp] theorem wr_arrivals (h : Hart) (n : Nat) (v : Word) (p : Bool) : (h.wr n v p).arrivals = h.arrivals := by unfold Hart.wr; split <;> rfl
@[simp] theorem wr_freds (h : Hart) (n : Nat) (v : Word) (p : Bool) : (h.wr n v p).freds = h.freds := by unfold Hart.wr; split <;> rfl
@[simp] theorem wr_wbuf (h : Hart) (n : Nat) (v : Word) (p : Bool) : (h.wr n v p).wbuf = h.wbuf := by unfold Hart.wr; split <;> rfl
@[simp] theorem wr_park (h : Hart) (n : Nat) (v : Word) (p : Bool) : (h.wr n v p).park = h.park := by unfold Hart.wr; split <;> rfl
@[simp] theorem wr_fetchWait (h : Hart) (n : Nat) (v : Word) (p : Bool) : (h.wr n v p).fetchWait = h.fetchWait := by unfold Hart.wr; split <;> rfl
@[simp] theorem wr_halted (h : Hart) (n : Nat) (v : Word) (p : Bool) : (h.wr n v p).halted = h.halted := by unfold Hart.wr; split <;> rfl
@[simp] theorem wr_stopped (h : Hart) (n : Nat) (v : Word) (p : Bool) : (h.wr n v p).stopped = h.stopped := by unfold Hart.wr; split <;> rfl
@[simp] theorem wr_saved (h : Hart) (n : Nat) (v : Word) (p : Bool) : (h.wr n v p).saved = h.saved := by unfold Hart.wr; split <;> rfl
@[simp] theorem wr_img (h : Hart) (n : Nat) (v : Word) (p : Bool) : (h.wr n v p).img = h.img := by unfold Hart.wr; split <;> rfl
@[simp] theorem wr_area (h : Hart) (n : Nat) (v : Word) (p : Bool) : (h.wr n v p).area = h.area := by unfold Hart.wr; split <;> rfl
@[simp] theorem wr_gbarCount (h : Hart) (n : Nat) (v : Word) (p : Bool) : (h.wr n v p).gbarCount = h.gbarCount := by unfold Hart.wr; split <;> rfl
@[simp] theorem wr_gbarWait (h : Hart) (n : Nat) (v : Word) (p : Bool) : (h.wr n v p).gbarWait = h.gbarWait := by unfold Hart.wr; split <;> rfl
@[simp] theorem wr_placedCyc (h : Hart) (n : Nat) (v : Word) (p : Bool) : (h.wr n v p).placedCyc = h.placedCyc := by unfold Hart.wr; split <;> rfl
@[simp] theorem wr_stamp (h : Hart) (n : Nat) (v : Word) (p : Bool) : (h.wr n v p).stamp = h.stamp := by unfold Hart.wr; split <;> rfl
@[simp] theorem wr_attempts (h : Hart) (n : Nat) (v : Word) (p : Bool) : (h.wr n v p).attempts = h.attempts := by unfold Hart.wr; split <;> rfl
@[simp] theorem wr_placedSeq (h : Hart) (n : Nat) (v : Word) (p : Bool) : (h.wr n v p).placedSeq = h.placedSeq := by unfold Hart.wr; split <;> rfl
@[simp] theorem wr_psyncAt (h : Hart) (n : Nat) (v : Word) (p : Bool) : (h.wr n v p).psyncAt = h.psyncAt := by unfold Hart.wr; split <;> rfl
@[simp] theorem wr_kvParked (h : Hart) (n : Nat) (v : Word) (p : Bool) : (h.wr n v p).kvParked = h.kvParked := by unfold Hart.wr; split <;> rfl
@[simp] theorem wr_gbarAt (h : Hart) (n : Nat) (v : Word) (p : Bool) : (h.wr n v p).gbarAt = h.gbarAt := by unfold Hart.wr; split <;> rfl
@[simp] theorem wr_ageAt (h : Hart) (n : Nat) (v : Word) (p : Bool) : (h.wr n v p).ageAt = h.ageAt := by unfold Hart.wr; split <;> rfl
@[simp] theorem wr_fredAt (h : Hart) (n : Nat) (v : Word) (p : Bool) : (h.wr n v p).fredAt = h.fredAt := by unfold Hart.wr; split <;> rfl
@[simp] theorem wr_agateAt (h : Hart) (n : Nat) (v : Word) (p : Bool) : (h.wr n v p).agateAt = h.agateAt := by unfold Hart.wr; split <;> rfl
@[simp] theorem wr_pfreeAt (h : Hart) (n : Nat) (v : Word) (p : Bool) : (h.wr n v p).pfreeAt = h.pfreeAt := by unfold Hart.wr; split <;> rfl
@[simp] theorem wr_late (h : Hart) (n : Nat) (v : Word) (p : Bool) : (h.wr n v p).late = h.late := by unfold Hart.wr; split <;> rfl

end Sys2Proof.Laws
end

