-- ==== Sys2Proof/Laws/Ops.lean ====
section
/-! SUPPORT. What the shared operations do, once for each: reading and writing scalar registers, going on, the ends of a meaning, the
vector queue. -/

namespace Sys2Proof.Machine

set_option Elab.async false

/-! Harts after a change. -/

theorem State.modHart_modHart (s : State) (c : Nat) (f g : Hart → Hart) (hf : ∀ h, (f h).id = h.id) :
    (s.modHart c f).modHart c g = s.modHart c (fun h => g (f h)) := by
  simp only [State.modHart, List.map_map]
  congr 1
  refine List.map_congr_left fun x _ => ?_
  by_cases hx : x.id == c <;> simp [Function.comp, hx, hf]

theorem State.hart?_modHart (s : State) (c k : Nat) (f : Hart → Hart) (hf : ∀ h, (f h).id = h.id) :
    (s.modHart c f).hart? k = (s.hart? k).map (fun x => if x.id == c then f x else x) := by
  simp only [State.modHart, State.hart?]
  induction s.harts with
  | nil => rfl
  | cons x l ih =>
    have hid : (if (x.id == c) = true then f x else x).id = x.id := by split <;> simp [hf]
    simp only [List.map_cons, List.find?_cons, hid]
    by_cases hk : (x.id == k) = true
    · simp [hk]
    · rw [Bool.not_eq_true] at hk
      simp only [hk]
      exact ih

theorem State.hart?_id {s : State} {k : Nat} {h : Hart} (hk : s.hart? k = some h) : h.id = k := by
  have := List.find?_some hk
  simpa using this

theorem State.curHart_modHart {s : State} {h : Hart} (hc : s.curHart = some h) (f : Hart → Hart)
    (hf : ∀ h, (f h).id = h.id) : (s.modHart s.cur f).curHart = some (f h) := by
  have hi := State.hart?_id hc
  simp only [State.curHart, Laws.modHart_cur, State.hart?_modHart _ _ _ _ hf]
  rw [show s.hart? s.cur = some h from hc]
  simp [hi]

theorem Hart.advance_id (h : Hart) : h.advance.id = h.id := rfl

theorem Hart.wr_id (h : Hart) (n : Nat) (v : Word) (p : Bool) : (h.wr n v p).id = h.id := by
  unfold Hart.wr; split <;> rfl

theorem Hart.wr_zero (h : Hart) (v : Word) (p : Bool) : h.wr 0 v p = h := rfl

theorem Hart.rd_zero (h : Hart) : h.rd 0 = 0 := rfl

theorem Hart.rdP_zero (h : Hart) : h.rdP 0 = false := rfl

theorem Hart.owed_zero (h : Hart) : h.owed 0 = false := rfl

theorem Hart.rd_wr_same (h : Hart) {n : Nat} (hn : n ≠ 0) (hl : n < 32) (v : Word) (p : Bool) : (h.wr n v p).rd n = v := by
  unfold Hart.wr Hart.rd
  simp only [hn, if_false]
  simp [hl]

theorem Hart.rd_wr_other (h : Hart) {m n : Nat} (hmn : m ≠ n) (v : Word) (p : Bool) : (h.wr n v p).rd m = h.rd m := by
  unfold Hart.wr Hart.rd
  by_cases hn : n = 0
  · simp only [hn, if_true]
  · by_cases hm : m = 0
    · simp only [hm, if_true]
    · simp only [hn, hm, if_false]
      rw [Vector.getElem?_setIfInBounds_ne (Ne.symm hmn)]

/-! Computations of a meaning. -/

theorem M.bind_ok {x : M α} {f : α → M β} {s t : State} {a : α} (h : x s = .ok a t) : (x >>= f) s = f a t := by
  show EStateM.bind x f s = _
  unfold EStateM.bind
  rw [h]

theorem M.bind_error {x : M α} {f : α → M β} {s t : State} {e : Stop} (h : x s = .error e t) : (x >>= f) s = .error e t := by
  show EStateM.bind x f s = _
  unfold EStateM.bind
  rw [h]

/-- A bind that answered: its first part answered, and the rest went on from there. -/
theorem M.bind_ok_inv {x : M α} {f : α → M β} {s t : State} {b : β} (h : (x >>= f) s = .ok b t) :
    ∃ a u, x s = .ok a u ∧ f a u = .ok b t := by
  have h : EStateM.bind x f s = .ok b t := h
  unfold EStateM.bind at h
  split at h
  · exact ⟨_, _, ‹_›, h⟩
  · cases h

theorem theHart_ok {s : State} {h : Hart} (hc : s.curHart = some h) : theHart s = .ok h s := by
  simp [theHart, hc]

theorem modH_ok (f : Hart → Hart) (s : State) : modH f s = .ok () (s.modHart s.cur f) := rfl

theorem rdS_ok {s : State} {h : Hart} {n : Nat} (hc : s.curHart = some h) (hn : h.owed n = false) :
    rdS n s = .ok { v := h.rd n, poison := h.rdP n } s := by
  unfold rdS
  rw [M.bind_ok (theHart_ok hc)]
  simp only [hn, Bool.false_eq_true, if_false]
  rfl

theorem useS_ok {s : State} {h : Hart} {n : Nat} (hc : s.curHart = some h) (hn : h.usable n = true) :
    useS n s = .ok (h.rd n) s := by
  simp only [Hart.usable, Bool.and_eq_true, Bool.not_eq_true'] at hn
  unfold useS
  rw [M.bind_ok (rdS_ok hc hn.1)]
  simp only [hn.2, Bool.false_eq_true, if_false]
  rfl

/-- Consumed poison is the poison trap with TVAL 0 (R38). -/
theorem useS_poison {s : State} {h : Hart} {n : Nat} (hc : s.curHart = some h) (hn : h.owed n = false) (hp : h.rdP n = true) :
    useS n s = .error (.trap { code := 0x0D, val := 0 }) s := by
  unfold useS
  rw [M.bind_ok (rdS_ok hc hn)]
  simp only [hp, if_true]
  rfl

theorem wrS_ok {s : State} {h : Hart} {n : Nat} (hc : s.curHart = some h) (hn : h.owed n = false) (v : Word) (p : Bool) :
    wrS n v p s = .ok () (s.modHart s.cur (fun h => h.wr n v p)) := by
  unfold wrS
  rw [M.bind_ok (theHart_ok hc)]
  simp only [hn, Bool.false_eq_true, if_false]
  rfl

theorem destFree_ok {s : State} {h : Hart} {n : Nat} (hc : s.curHart = some h) (hn : h.owed n = false) :
    destFree n s = .ok () s := by
  unfold destFree
  rw [M.bind_ok (theHart_ok hc)]
  simp only [hn, Bool.false_eq_true, if_false]
  rfl

theorem waitUnless_true (s : State) : waitUnless true s = .ok () s := rfl

theorem advance_ok (s : State) : advance s = .ok () s.skip := rfl

/-- A result written, then the stream goes on. -/
theorem wrS_advance {s : State} {h : Hart} {n : Nat} (hc : s.curHart = some h) (hn : h.owed n = false) (v : Word) (p : Bool) :
    (wrS n v p >>= fun _ => advance) s = .ok () (s.result n v p) := by
  rw [M.bind_ok (wrS_ok hc hn v p), advance_ok]
  simp only [State.skip, State.result, Laws.modHart_cur]
  rw [State.modHart_modHart _ _ _ _ (fun h => h.wr_id n v p)]

/-! The shared scalar forms. -/

theorem aluM_ok {s : State} {h : Hart} {d a b : Nat} (hc : s.curHart = some h) (ha : h.usable a = true) (hb : h.usable b = true)
    (hd : h.owed d = false) (f : Word → Word → Word) : aluM d a b f s = .ok () (s.result d (f (h.rd a) (h.rd b))) := by
  unfold aluM
  rw [M.bind_ok (useS_ok hc ha), M.bind_ok (useS_ok hc hb)]
  exact wrS_advance hc hd _ _

theorem unaryM_ok {s : State} {h : Hart} {d a : Nat} (hc : s.curHart = some h) (ha : h.usable a = true) (hd : h.owed d = false)
    (f : Word → Word) : unaryM d a f s = .ok () (s.result d (f (h.rd a))) := by
  unfold unaryM
  rw [M.bind_ok (useS_ok hc ha)]
  exact wrS_advance hc hd _ _

theorem branchM_ok {s : State} {h : Hart} {a b o : Nat} (hc : s.curHart = some h) (ha : h.usable a = true) (hb : h.usable b = true)
    (c : Word → Word → Bool) :
    branchM a b o c s = .ok () (s.modHart s.cur (fun x =>
      { x with pc := if c (h.rd a) (h.rd b) then branchTarget x.pc o else x.pc + 4 })) := by
  unfold branchM
  rw [M.bind_ok (useS_ok hc ha), M.bind_ok (useS_ok hc hb)]
  rfl

/-! The ends of a meaning. -/

theorem finish_ok {x : M Unit} {s t : State} (h : x s = .ok () t) : finish x s = .next t := by
  simp [finish, h]

theorem finish_trap {x : M Unit} {s t : State} {i : TrapInfo} (h : x s = .error (.trap i) t) :
    finish x s = .next ((t.takeTrap? i).getD s) := by
  simp [finish, h]

/-- A trap that must wait leaves the instruction undone. -/
theorem finish_trap_wait {x : M Unit} {s t : State} {i : TrapInfo} (h : x s = .error (.trap i) t) (hw : t.takeTrap? i = none) :
    finish x s = .next s := by
  simp [finish_trap h, hw]

/-- A trap that need not wait is taken. -/
theorem finish_trap_now {x : M Unit} {s t u : State} {i : TrapInfo} (h : x s = .error (.trap i) t) (hw : t.takeTrap? i = some u) :
    finish x s = .next u := by
  simp [finish_trap h, hw]

/-- A trap of the scalar stream that has changed nothing: it is taken, or the instruction is still to be done. -/
theorem finish_trapTo {x : M Unit} {s : State} {code sub : Nat} {val : Word}
    (h : x s = .error (.trap { code := code, sub := sub, val := val }) s) : finish x s = .next (s.trapTo code val sub) := by
  rw [finish_trap h]
  unfold State.trapTo State.takeTrap State.trapWaits
  cases s.curHart <;> rfl

/-- An access as a whole that does not wait is the access. -/
theorem whole_ok {x : M α} {s t : State} {a : α} (h : x s = .ok a t) : whole x s = .ok a t := by
  simp [whole, h]

/-- One that waits has done nothing but send and ask. -/
theorem whole_wait {x : M α} {s t : State} (h : x s = .error .wait t) : whole x s = .error .wait (s.waited t) := by
  simp [whole, h]

/-- An instruction of a unit that is done waits for nothing more. -/
theorem asUnit_ok {x : M α} {s t : State} {a : α} {n : Nat} (h : x (s.retry s.cur n) = .ok a t) :
    asUnit n x s = .ok a (t.settle t.cur n) := by
  have e : (modify (fun u => u.retry u.cur n) : M Unit) s = .ok () (s.retry s.cur n) := rfl
  unfold asUnit
  rw [M.bind_ok e, M.bind_ok h]
  rfl

theorem finish_wait {x : M Unit} {s t : State} (h : x s = .error .wait t) : finish x s = .next t := by
  simp [finish, h]

/-- A meaning that ends through `finish` answers a next state, whatever happens in it. -/
theorem finish_next (x : M Unit) (s : State) : ∃ t, finish x s = .next t := by
  unfold finish
  split <;> try exact ⟨_, rfl⟩
  split <;> exact ⟨_, rfl⟩

/-! The vector queue. -/

theorem rdOpt_ok {s : State} {h : Hart} (hc : s.curHart = some h) {o : Option Nat} (ho : h.freeOpt o = true) :
    rdOpt o s = .ok (h.operand o) s := by
  cases o with
  | none => rfl
  | some n => exact rdS_ok hc (by simpa [Hart.freeOpt] using ho)

theorem capture_ok {s : State} {h : Hart} {i : Instr} (hc : s.curHart = some h) (hi : h.capturable i = true) :
    capture i (captures i).1 (captures i).2.1 (captures i).2.2.1 (captures i).2.2.2 s = .ok (h.captured i) s := by
  simp only [Hart.capturable, Bool.and_eq_true] at hi
  obtain ⟨⟨⟨h1, h2⟩, h3⟩, h4⟩ := hi
  unfold capture
  rw [M.bind_ok (rdOpt_ok hc h1), M.bind_ok (rdOpt_ok hc h2), M.bind_ok (rdOpt_ok hc h3), M.bind_ok (rdOpt_ok hc h4),
    M.bind_ok (theHart_ok hc)]
  rfl

theorem enqueue_ok {s : State} {h : Hart} (hc : s.curHart = some h) (hq : h.queue.length < 64) (e : Entry) :
    enqueue e s = .ok () (s.placed h e) := by
  unfold enqueue
  rw [M.bind_ok (theHart_ok hc)]
  have : decide (h.queue.length < 64) = true := by simpa using hq
  rw [this, M.bind_ok (waitUnless_true s)]
  rfl

theorem State.placed_skip (s : State) (h : Hart) (e : Entry) : (s.placed h e).skip = s.queued h e := by
  unfold State.placed State.skip State.queued
  exact State.modHart_modHart s s.cur (fun x => x.placed s.dev.devtime.toNat (h.qbase + h.queue.length) e) Hart.advance (fun _ => rfl)

/-- A word whose issue only captures and enters the queue. -/
theorem enqueueI_ok {s : State} {h : Hart} {i : Instr} (hc : s.curHart = some h) (hi : h.capturable i = true)
    (hq : h.queue.length < 64) : enqueueI i s = .ok () (s.queued h { op := h.captured i }) := by
  show (capture i (captures i).1 (captures i).2.1 (captures i).2.2.1 (captures i).2.2.2 >>= fun o =>
    enqueue { op := o } >>= fun _ => advance) s = _
  rw [M.bind_ok (capture_ok hc hi), M.bind_ok (enqueue_ok hc hq _), advance_ok, State.placed_skip]

end Sys2Proof.Machine
end

