-- ==== Sys2Proof/Laws/PerInstr.lean ====
section
/-! SUPPORT. Facts about each instruction as syntax: the word the encoder gives is 32 bits long and decodes back to the instruction. -/

namespace Sys2Proof.Laws.RoundTrip

set_option Elab.async false

/-- A well-formed instruction's word fits 32 bits and decodes to it, every operand included. -/
def Statement (i : Instr) : Prop := ∀ w, i.wf = true → encode i = some w → w < 2 ^ 32 ∧ decodeWord w = some i

theorem decodeWord_of (h : decodeFields w = some i) (hw : i.wf = true) : decodeWord w = some i := by
  simp only [decodeWord, h, hw, if_true]

theorem fields01 (h : fieldAt w 26 6 = 0x01) : decodeFields w = decodeMajor01 w := by
  simp only [decodeFields, h]

theorem fields02 (h : fieldAt w 26 6 = 0x02) : decodeFields w = decodeMajor02 w := by
  simp only [decodeFields, h]

theorem fields03 (h : fieldAt w 26 6 = 0x03) : decodeFields w = decodeMajor03 w := by
  simp only [decodeFields, h]

theorem fields04 (h : fieldAt w 26 6 = 0x04) : decodeFields w = decodeMajor04 w := by
  simp only [decodeFields, h]

theorem fields05 (h : fieldAt w 26 6 = 0x05) : decodeFields w = decodeMajor05 w := by
  simp only [decodeFields, h]

theorem fields06 (h : fieldAt w 26 6 = 0x06) : decodeFields w = decodeMajor06 w := by
  simp only [decodeFields, h]

theorem fields07 (h : fieldAt w 26 6 = 0x07) : decodeFields w = decodeMajor07 w := by
  simp only [decodeFields, h]

theorem fields08 (h : fieldAt w 26 6 = 0x08) : decodeFields w = decodeMajor08 w := by
  simp only [decodeFields, h]

theorem fields09 (h : fieldAt w 26 6 = 0x09) : decodeFields w = decodeMajor09 w := by
  simp only [decodeFields, h]

theorem fields0A (h : fieldAt w 26 6 = 0x0a) : decodeFields w = decodeMajor0A w := by
  simp only [decodeFields, h]

theorem fields0B (h : fieldAt w 26 6 = 0x0b) : decodeFields w = decodeMajor0B w := by
  simp only [decodeFields, h]

theorem fields0C (h : fieldAt w 26 6 = 0x0c) : decodeFields w = decodeMajor0C w := by
  simp only [decodeFields, h]

theorem fields0D (h : fieldAt w 26 6 = 0x0d) : decodeFields w = decodeMajor0D w := by
  simp only [decodeFields, h]

theorem fields0E (h : fieldAt w 26 6 = 0x0e) : decodeFields w = decodeMajor0E w := by
  simp only [decodeFields, h]

theorem fields0F (h : fieldAt w 26 6 = 0x0f) : decodeFields w = decodeMajor0F w := by
  simp only [decodeFields, h]

theorem fields10 (h : fieldAt w 26 6 = 0x10) : decodeFields w = decodeMajor10 w := by
  simp only [decodeFields, h]

theorem fields11 (h : fieldAt w 26 6 = 0x11) : decodeFields w = decodeMajor11 w := by
  simp only [decodeFields, h]

theorem fields12 (h : fieldAt w 26 6 = 0x12) : decodeFields w = decodeMajor12 w := by
  simp only [decodeFields, h]

theorem fields13 (h : fieldAt w 26 6 = 0x13) : decodeFields w = decodeMajor13 w := by
  simp only [decodeFields, h]

theorem fields14 (h : fieldAt w 26 6 = 0x14) : decodeFields w = decodeMajor14 w := by
  simp only [decodeFields, h]

theorem fields15 (h : fieldAt w 26 6 = 0x15) : decodeFields w = decodeMajor15 w := by
  simp only [decodeFields, h]

theorem fields16 (h : fieldAt w 26 6 = 0x16) : decodeFields w = decodeMajor16 w := by
  simp only [decodeFields, h]

theorem fields17 (h : fieldAt w 26 6 = 0x17) : decodeFields w = decodeMajor17 w := by
  simp only [decodeFields, h]

theorem fields18 (h : fieldAt w 26 6 = 0x18) : decodeFields w = decodeMajor18 w := by
  simp only [decodeFields, h]

theorem fields19 (h : fieldAt w 26 6 = 0x19) : decodeFields w = decodeMajor19 w := by
  simp only [decodeFields, h]

theorem fields1A (h : fieldAt w 26 6 = 0x1a) : decodeFields w = decodeMajor1A w := by
  simp only [decodeFields, h]

theorem fields1B (h : fieldAt w 26 6 = 0x1b) : decodeFields w = decodeMajor1B w := by
  simp only [decodeFields, h]

theorem fields1C (h : fieldAt w 26 6 = 0x1c) : decodeFields w = decodeMajor1C w := by
  simp only [decodeFields, h]

theorem fields1D (h : fieldAt w 26 6 = 0x1d) : decodeFields w = decodeMajor1D w := by
  simp only [decodeFields, h]

theorem fields1E (h : fieldAt w 26 6 = 0x1e) : decodeFields w = decodeMajor1E w := by
  simp only [decodeFields, h]

theorem fields1F (h : fieldAt w 26 6 = 0x1f) : decodeFields w = decodeMajor1F w := by
  simp only [decodeFields, h]

theorem fields20 (h : fieldAt w 26 6 = 0x20) : decodeFields w = decodeMajor20 w := by
  simp only [decodeFields, h]

theorem fields21 (h : fieldAt w 26 6 = 0x21) : decodeFields w = decodeMajor21 w := by
  simp only [decodeFields, h]

theorem fields22 (h : fieldAt w 26 6 = 0x22) : decodeFields w = decodeMajor22 w := by
  simp only [decodeFields, h]

theorem fields23 (h : fieldAt w 26 6 = 0x23) : decodeFields w = decodeMajor23 w := by
  simp only [decodeFields, h]

theorem fields24 (h : fieldAt w 26 6 = 0x24) : decodeFields w = decodeMajor24 w := by
  simp only [decodeFields, h]

theorem fields25 (h : fieldAt w 26 6 = 0x25) : decodeFields w = decodeMajor25 w := by
  simp only [decodeFields, h]

theorem fields26 (h : fieldAt w 26 6 = 0x26) : decodeFields w = decodeMajor26 w := by
  simp only [decodeFields, h]

theorem fields28 (h : fieldAt w 26 6 = 0x28) : decodeFields w = decodeMajor28 w := by
  simp only [decodeFields, h]

theorem fields29 (h : fieldAt w 26 6 = 0x29) : decodeFields w = decodeMajor29 w := by
  simp only [decodeFields, h]

theorem fields2A (h : fieldAt w 26 6 = 0x2a) : decodeFields w = decodeMajor2A w := by
  simp only [decodeFields, h]

theorem fields2B (h : fieldAt w 26 6 = 0x2b) : decodeFields w = decodeMajor2B w := by
  simp only [decodeFields, h]

theorem fields2C (h : fieldAt w 26 6 = 0x2c) : decodeFields w = decodeMajor2C w := by
  simp only [decodeFields, h]

theorem fields2D (h : fieldAt w 26 6 = 0x2d) : decodeFields w = decodeMajor2D w := by
  simp only [decodeFields, h]

theorem fields2E (h : fieldAt w 26 6 = 0x2e) : decodeFields w = decodeMajor2E w := by
  simp only [decodeFields, h]

theorem fields30 (h : fieldAt w 26 6 = 0x30) : decodeFields w = decodeMajor30 w := by
  simp only [decodeFields, h]

theorem fields31 (h : fieldAt w 26 6 = 0x31) : decodeFields w = decodeMajor31 w := by
  simp only [decodeFields, h]

theorem fields34 (h : fieldAt w 26 6 = 0x34) : decodeFields w = decodeMajor34 w := by
  simp only [decodeFields, h]

theorem fields35 (h : fieldAt w 26 6 = 0x35) : decodeFields w = decodeMajor35 w := by
  simp only [decodeFields, h]

theorem fields36 (h : fieldAt w 26 6 = 0x36) : decodeFields w = decodeMajor36 w := by
  simp only [decodeFields, h]

theorem fields37 (h : fieldAt w 26 6 = 0x37) : decodeFields w = decodeMajor37 w := by
  simp only [decodeFields, h]

theorem fields38 (h : fieldAt w 26 6 = 0x38) : decodeFields w = decodeMajor38 w := by
  simp only [decodeFields, h]

theorem fields39 (h : fieldAt w 26 6 = 0x39) : decodeFields w = decodeMajor39 w := by
  simp only [decodeFields, h]

theorem fields3A (h : fieldAt w 26 6 = 0x3a) : decodeFields w = decodeMajor3A w := by
  simp only [decodeFields, h]

theorem fields3B (h : fieldAt w 26 6 = 0x3b) : decodeFields w = decodeMajor3B w := by
  simp only [decodeFields, h]

theorem fields3C (h : fieldAt w 26 6 = 0x3c) : decodeFields w = decodeMajor3C w := by
  simp only [decodeFields, h]

theorem fields3D (h : fieldAt w 26 6 = 0x3d) : decodeFields w = decodeMajor3D w := by
  simp only [decodeFields, h]

theorem fields3E (h : fieldAt w 26 6 = 0x3e) : decodeFields w = decodeMajor3E w := by
  simp only [decodeFields, h]

theorem shape0 (w x0 x1 x2 x3 x4 x5 x6 x7 : Nat) (hw : w = x0 * 67108864 + x1 * 2097152 + x2 * 65536 + x3 * 2048 + x4 * 256 + x5 * 64 + x6 * 16 + x7)
    (h0 : x0 < 64) (h1 : x1 < 32) (h2 : x2 < 32) (h3 : x3 < 32) (h4 : x4 < 8) (h5 : x5 < 4) (h6 : x6 < 4) (h7 : x7 < 16) :
    w < 2 ^ 32 ∧ fieldAt w 26 6 = x0 ∧ fieldAt w 21 5 = x1 ∧ fieldAt w 16 5 = x2 ∧ fieldAt w 11 5 = x3 ∧ fieldAt w 8 3 = x4 ∧ fieldAt w 6 2 = x5 ∧ fieldAt w 4 2 = x6 ∧ fieldAt w 0 4 = x7 := by
  simp only [fieldAt]
  omega

theorem shape1 (w x0 x1 x2 x3 x4 : Nat) (hw : w = x0 * 67108864 + x1 * 2097152 + x2 * 65536 + x3 * 64 + x4)
    (h0 : x0 < 64) (h1 : x1 < 32) (h2 : x2 < 32) (h3 : x3 < 1024) (h4 : x4 < 64) :
    w < 2 ^ 32 ∧ fieldAt w 26 6 = x0 ∧ fieldAt w 21 5 = x1 ∧ fieldAt w 16 5 = x2 ∧ fieldAt w 6 10 = x3 ∧ fieldAt w 0 6 = x4 := by
  simp only [fieldAt]
  omega

theorem shape2 (w x0 x1 x2 x3 : Nat) (hw : w = x0 * 67108864 + x1 * 2097152 + x2 * 65536 + x3)
    (h0 : x0 < 64) (h1 : x1 < 32) (h2 : x2 < 32) (h3 : x3 < 65536) :
    w < 2 ^ 32 ∧ fieldAt w 26 6 = x0 ∧ fieldAt w 21 5 = x1 ∧ fieldAt w 16 5 = x2 ∧ fieldAt w 0 16 = x3 := by
  simp only [fieldAt]
  omega

theorem shape3 (w x0 x1 x2 x3 x4 : Nat) (hw : w = x0 * 67108864 + x1 * 2097152 + x2 * 65536 + x3 * 4 + x4)
    (h0 : x0 < 64) (h1 : x1 < 32) (h2 : x2 < 32) (h3 : x3 < 16384) (h4 : x4 < 4) :
    w < 2 ^ 32 ∧ fieldAt w 26 6 = x0 ∧ fieldAt w 21 5 = x1 ∧ fieldAt w 16 5 = x2 ∧ fieldAt w 2 14 = x3 ∧ fieldAt w 0 2 = x4 := by
  simp only [fieldAt]
  omega

theorem shape4 (w x0 x1 x2 x3 x4 : Nat) (hw : w = x0 * 67108864 + x1 * 2097152 + x2 * 65536 + x3 * 256 + x4)
    (h0 : x0 < 64) (h1 : x1 < 32) (h2 : x2 < 32) (h3 : x3 < 256) (h4 : x4 < 256) :
    w < 2 ^ 32 ∧ fieldAt w 26 6 = x0 ∧ fieldAt w 21 5 = x1 ∧ fieldAt w 16 5 = x2 ∧ fieldAt w 8 8 = x3 ∧ fieldAt w 0 8 = x4 := by
  simp only [fieldAt]
  omega

theorem shape5 (w x0 x1 x2 x3 x4 x5 x6 : Nat) (hw : w = x0 * 67108864 + x1 * 2097152 + x2 * 65536 + x3 * 2048 + x4 * 64 + x5 * 8 + x6)
    (h0 : x0 < 64) (h1 : x1 < 32) (h2 : x2 < 32) (h3 : x3 < 32) (h4 : x4 < 32) (h5 : x5 < 8) (h6 : x6 < 8) :
    w < 2 ^ 32 ∧ fieldAt w 26 6 = x0 ∧ fieldAt w 21 5 = x1 ∧ fieldAt w 16 5 = x2 ∧ fieldAt w 11 5 = x3 ∧ fieldAt w 6 5 = x4 ∧ fieldAt w 3 3 = x5 ∧ fieldAt w 0 3 = x6 := by
  simp only [fieldAt]
  omega

theorem shape6 (w x0 x1 x2 x3 x4 x5 x6 x7 : Nat) (hw : w = x0 * 67108864 + x1 * 2097152 + x2 * 65536 + x3 * 2048 + x4 * 256 + x5 * 64 + x6 * 8 + x7)
    (h0 : x0 < 64) (h1 : x1 < 32) (h2 : x2 < 32) (h3 : x3 < 32) (h4 : x4 < 8) (h5 : x5 < 4) (h6 : x6 < 8) (h7 : x7 < 8) :
    w < 2 ^ 32 ∧ fieldAt w 26 6 = x0 ∧ fieldAt w 21 5 = x1 ∧ fieldAt w 16 5 = x2 ∧ fieldAt w 11 5 = x3 ∧ fieldAt w 8 3 = x4 ∧ fieldAt w 6 2 = x5 ∧ fieldAt w 3 3 = x6 ∧ fieldAt w 0 3 = x7 := by
  simp only [fieldAt]
  omega

theorem shape7 (w x0 x1 x2 x3 x4 x5 x6 x7 : Nat) (hw : w = x0 * 67108864 + x1 * 2097152 + x2 * 65536 + x3 * 4096 + x4 * 2048 + x5 * 64 + x6 * 8 + x7)
    (h0 : x0 < 64) (h1 : x1 < 32) (h2 : x2 < 32) (h3 : x3 < 16) (h4 : x4 < 2) (h5 : x5 < 32) (h6 : x6 < 8) (h7 : x7 < 8) :
    w < 2 ^ 32 ∧ fieldAt w 26 6 = x0 ∧ fieldAt w 21 5 = x1 ∧ fieldAt w 16 5 = x2 ∧ fieldAt w 12 4 = x3 ∧ fieldAt w 11 1 = x4 ∧ fieldAt w 6 5 = x5 ∧ fieldAt w 3 3 = x6 ∧ fieldAt w 0 3 = x7 := by
  simp only [fieldAt]
  omega

theorem shape8 (w x0 x1 x2 x3 x4 x5 x6 x7 x8 : Nat) (hw : w = x0 * 67108864 + x1 * 4194304 + x2 * 2097152 + x3 * 65536 + x4 * 4096 + x5 * 2048 + x6 * 64 + x7 * 8 + x8)
    (h0 : x0 < 64) (h1 : x1 < 16) (h2 : x2 < 2) (h3 : x3 < 32) (h4 : x4 < 16) (h5 : x5 < 2) (h6 : x6 < 32) (h7 : x7 < 8) (h8 : x8 < 8) :
    w < 2 ^ 32 ∧ fieldAt w 26 6 = x0 ∧ fieldAt w 22 4 = x1 ∧ fieldAt w 21 1 = x2 ∧ fieldAt w 16 5 = x3 ∧ fieldAt w 12 4 = x4 ∧ fieldAt w 11 1 = x5 ∧ fieldAt w 6 5 = x6 ∧ fieldAt w 3 3 = x7 ∧ fieldAt w 0 3 = x8 := by
  simp only [fieldAt]
  omega

theorem shape9 (w x0 x1 x2 x3 x4 x5 x6 x7 : Nat) (hw : w = x0 * 67108864 + x1 * 4194304 + x2 * 2097152 + x3 * 65536 + x4 * 2048 + x5 * 64 + x6 * 8 + x7)
    (h0 : x0 < 64) (h1 : x1 < 16) (h2 : x2 < 2) (h3 : x3 < 32) (h4 : x4 < 32) (h5 : x5 < 32) (h6 : x6 < 8) (h7 : x7 < 8) :
    w < 2 ^ 32 ∧ fieldAt w 26 6 = x0 ∧ fieldAt w 22 4 = x1 ∧ fieldAt w 21 1 = x2 ∧ fieldAt w 16 5 = x3 ∧ fieldAt w 11 5 = x4 ∧ fieldAt w 6 5 = x5 ∧ fieldAt w 3 3 = x6 ∧ fieldAt w 0 3 = x7 := by
  simp only [fieldAt]
  omega

theorem shape10 (w x0 x1 x2 x3 x4 x5 : Nat) (hw : w = x0 * 67108864 + x1 * 2097152 + x2 * 65536 + x3 * 2048 + x4 * 256 + x5)
    (h0 : x0 < 64) (h1 : x1 < 32) (h2 : x2 < 32) (h3 : x3 < 32) (h4 : x4 < 8) (h5 : x5 < 256) :
    w < 2 ^ 32 ∧ fieldAt w 26 6 = x0 ∧ fieldAt w 21 5 = x1 ∧ fieldAt w 16 5 = x2 ∧ fieldAt w 11 5 = x3 ∧ fieldAt w 8 3 = x4 ∧ fieldAt w 0 8 = x5 := by
  simp only [fieldAt]
  omega

theorem shape11 (w x0 x1 : Nat) (hw : w = x0 * 67108864 + x1)
    (h0 : x0 < 64) (h1 : x1 < 67108864) :
    w < 2 ^ 32 ∧ fieldAt w 26 6 = x0 ∧ fieldAt w 0 26 = x1 := by
  simp only [fieldAt]
  omega

theorem shape12 (w x0 x1 x2 x3 x4 x5 : Nat) (hw : w = x0 * 67108864 + x1 * 2097152 + x2 * 65536 + x3 * 2048 + x4 * 64 + x5)
    (h0 : x0 < 64) (h1 : x1 < 32) (h2 : x2 < 32) (h3 : x3 < 32) (h4 : x4 < 32) (h5 : x5 < 64) :
    w < 2 ^ 32 ∧ fieldAt w 26 6 = x0 ∧ fieldAt w 21 5 = x1 ∧ fieldAt w 16 5 = x2 ∧ fieldAt w 11 5 = x3 ∧ fieldAt w 6 5 = x4 ∧ fieldAt w 0 6 = x5 := by
  simp only [fieldAt]
  omega

theorem shape13 (w x0 x1 x2 x3 x4 : Nat) (hw : w = x0 * 67108864 + x1 * 2097152 + x2 * 65536 + x3 * 4096 + x4)
    (h0 : x0 < 64) (h1 : x1 < 32) (h2 : x2 < 32) (h3 : x3 < 16) (h4 : x4 < 4096) :
    w < 2 ^ 32 ∧ fieldAt w 26 6 = x0 ∧ fieldAt w 21 5 = x1 ∧ fieldAt w 16 5 = x2 ∧ fieldAt w 12 4 = x3 ∧ fieldAt w 0 12 = x4 := by
  simp only [fieldAt]
  omega

theorem shape14 (w x0 x1 x2 x3 : Nat) (hw : w = x0 * 67108864 + x1 * 2048 + x2 * 256 + x3)
    (h0 : x0 < 64) (h1 : x1 < 32768) (h2 : x2 < 8) (h3 : x3 < 256) :
    w < 2 ^ 32 ∧ fieldAt w 26 6 = x0 ∧ fieldAt w 11 15 = x1 ∧ fieldAt w 8 3 = x2 ∧ fieldAt w 0 8 = x3 := by
  simp only [fieldAt]
  omega

theorem ldBHW (d a w : Nat) : Statement (.ldBHW d a w) := by
  intro wd hw h
  have hb : (decide (d < 32) && decide (a < 32) && decide (w < 4) && decide (w ≤ 2)) = true := hw
  have h2 : some (0x3c000000 + put d 21 + put a 16 + put w 6) = some wd := h
  have he := (Option.some.inj h2).symm
  simp only [Bool.and_eq_true, decide_eq_true_eq] at hb
  obtain ⟨⟨⟨hb0, hb1⟩, hb2⟩, hb3⟩ := hb
  obtain ⟨hlt, e0, e1, e2, e3, e4, e5, e6, e7⟩ := shape0 wd 0x0F d a 0 0 w 0 0 (by rw [he]; first | done | (simp only [put]; done) | (simp only [put]; omega)) (by decide) (by assumption) (by assumption) (by decide) (by decide) (by assumption) (by decide) (by decide)
  refine ⟨hlt, ?_⟩
  refine decodeWord_of ((fields0F e0).trans ?_) hw
  simp only [decodeMajor0F, e1, e2, e3, e4, e5, e6, e7, if_true, and_self]

theorem ldAcq (d a s w : Nat) : Statement (.ldAcq d a s w) := by
  intro wd hw h
  have hb : (decide (d < 32) && decide (a < 32) && decide (s < 8) && decide (w < 4) && decide (s ≤ 6)) = true := hw
  have h2 : some (0x3c000010 + put d 21 + put a 16 + put s 8 + put w 6) = some wd := h
  have he := (Option.some.inj h2).symm
  simp only [Bool.and_eq_true, decide_eq_true_eq] at hb
  obtain ⟨⟨⟨⟨hb0, hb1⟩, hb2⟩, hb3⟩, hb4⟩ := hb
  obtain ⟨hlt, e0, e1, e2, e3, e4, e5, e6, e7⟩ := shape0 wd 0x0F d a 0 s w 1 0 (by rw [he]; first | done | (simp only [put]; done) | (simp only [put]; omega)) (by decide) (by assumption) (by assumption) (by decide) (by assumption) (by assumption) (by decide) (by decide)
  refine ⟨hlt, ?_⟩
  refine decodeWord_of ((fields0F e0).trans ?_) hw
  simp only [decodeMajor0F, e1, e2, e3, e4, e5, e6, e7, if_true]

theorem ldBuHuWu (d a w : Nat) : Statement (.ldBuHuWu d a w) := by
  intro wd hw h
  have hb : (decide (d < 32) && decide (a < 32) && decide (w < 4) && decide (w ≤ 2)) = true := hw
  have h2 : some (0x3c000001 + put d 21 + put a 16 + put w 6) = some wd := h
  have he := (Option.some.inj h2).symm
  simp only [Bool.and_eq_true, decide_eq_true_eq] at hb
  obtain ⟨⟨⟨hb0, hb1⟩, hb2⟩, hb3⟩ := hb
  obtain ⟨hlt, e0, e1, e2, e3, e4, e5, e6, e7⟩ := shape0 wd 0x0F d a 0 0 w 0 1 (by rw [he]; first | done | (simp only [put]; done) | (simp only [put]; omega)) (by decide) (by assumption) (by assumption) (by decide) (by decide) (by assumption) (by decide) (by decide)
  refine ⟨hlt, ?_⟩
  refine decodeWord_of ((fields0F e0).trans ?_) hw
  simp only [decodeMajor0F, e1, e2, e3, e4, e5, e6, e7, if_true, and_self]

theorem stBHW (a b w : Nat) : Statement (.stBHW a b w) := by
  intro wd hw h
  have hb : (decide (a < 32) && decide (b < 32) && decide (w < 4) && decide (w ≤ 2)) = true := hw
  have h2 : some (0x3c000002 + put a 16 + put b 11 + put w 6) = some wd := h
  have he := (Option.some.inj h2).symm
  simp only [Bool.and_eq_true, decide_eq_true_eq] at hb
  obtain ⟨⟨⟨hb0, hb1⟩, hb2⟩, hb3⟩ := hb
  obtain ⟨hlt, e0, e1, e2, e3, e4, e5, e6, e7⟩ := shape0 wd 0x0F 0 a b 0 w 0 2 (by rw [he]; first | done | (simp only [put]; done) | (simp only [put]; omega)) (by decide) (by decide) (by assumption) (by assumption) (by decide) (by assumption) (by decide) (by decide)
  refine ⟨hlt, ?_⟩
  refine decodeWord_of ((fields0F e0).trans ?_) hw
  simp only [decodeMajor0F, e1, e2, e3, e4, e5, e6, e7, if_true, and_self]

theorem stRel (a b s w : Nat) : Statement (.stRel a b s w) := by
  intro wd hw h
  have hb : (decide (a < 32) && decide (b < 32) && decide (s < 8) && decide (w < 4) && decide (s ≤ 6)) = true := hw
  have h2 : some (0x3c000022 + put a 16 + put b 11 + put s 8 + put w 6) = some wd := h
  have he := (Option.some.inj h2).symm
  simp only [Bool.and_eq_true, decide_eq_true_eq] at hb
  obtain ⟨⟨⟨⟨hb0, hb1⟩, hb2⟩, hb3⟩, hb4⟩ := hb
  obtain ⟨hlt, e0, e1, e2, e3, e4, e5, e6, e7⟩ := shape0 wd 0x0F 0 a b s w 2 2 (by rw [he]; first | done | (simp only [put]; done) | (simp only [put]; omega)) (by decide) (by decide) (by assumption) (by assumption) (by assumption) (by assumption) (by decide) (by decide)
  refine ⟨hlt, ?_⟩
  refine decodeWord_of ((fields0F e0).trans ?_) hw
  simp only [decodeMajor0F, e1, e2, e3, e4, e5, e6, e7, if_true]

theorem amoswap (d a b s w o : Nat) : Statement (.amoswap d a b s w o) := by
  intro wd hw h
  have hb : (decide (d < 32) && decide (a < 32) && decide (b < 32) && decide (s < 8) && decide (w < 4) && decide (o < 4) && decide (2 ≤ w) && decide (s ≤ 6)) = true := hw
  have h2 : some (0x3c000003 + put d 21 + put a 16 + put b 11 + put s 8 + put w 6 + put o 4) = some wd := h
  have he := (Option.some.inj h2).symm
  simp only [Bool.and_eq_true, decide_eq_true_eq] at hb
  obtain ⟨⟨⟨⟨⟨⟨⟨hb0, hb1⟩, hb2⟩, hb3⟩, hb4⟩, hb5⟩, hb6⟩, hb7⟩ := hb
  obtain ⟨hlt, e0, e1, e2, e3, e4, e5, e6, e7⟩ := shape0 wd 0x0F d a b s w o 3 (by rw [he]; first | done | (simp only [put]; done) | (simp only [put]; omega)) (by decide) (by assumption) (by assumption) (by assumption) (by assumption) (by assumption) (by assumption) (by decide)
  refine ⟨hlt, ?_⟩
  refine decodeWord_of ((fields0F e0).trans ?_) hw
  simp only [decodeMajor0F, e1, e2, e3, e4, e5, e6, e7]

theorem amoadd (d a b s w o : Nat) : Statement (.amoadd d a b s w o) := by
  intro wd hw h
  have hb : (decide (d < 32) && decide (a < 32) && decide (b < 32) && decide (s < 8) && decide (w < 4) && decide (o < 4) && decide (2 ≤ w) && decide (s ≤ 6)) = true := hw
  have h2 : some (0x3c000004 + put d 21 + put a 16 + put b 11 + put s 8 + put w 6 + put o 4) = some wd := h
  have he := (Option.some.inj h2).symm
  simp only [Bool.and_eq_true, decide_eq_true_eq] at hb
  obtain ⟨⟨⟨⟨⟨⟨⟨hb0, hb1⟩, hb2⟩, hb3⟩, hb4⟩, hb5⟩, hb6⟩, hb7⟩ := hb
  obtain ⟨hlt, e0, e1, e2, e3, e4, e5, e6, e7⟩ := shape0 wd 0x0F d a b s w o 4 (by rw [he]; first | done | (simp only [put]; done) | (simp only [put]; omega)) (by decide) (by assumption) (by assumption) (by assumption) (by assumption) (by assumption) (by assumption) (by decide)
  refine ⟨hlt, ?_⟩
  refine decodeWord_of ((fields0F e0).trans ?_) hw
  simp only [decodeMajor0F, e1, e2, e3, e4, e5, e6, e7]

theorem amoand (d a b s w o : Nat) : Statement (.amoand d a b s w o) := by
  intro wd hw h
  have hb : (decide (d < 32) && decide (a < 32) && decide (b < 32) && decide (s < 8) && decide (w < 4) && decide (o < 4) && decide (2 ≤ w) && decide (s ≤ 6)) = true := hw
  have h2 : some (0x3c000005 + put d 21 + put a 16 + put b 11 + put s 8 + put w 6 + put o 4) = some wd := h
  have he := (Option.some.inj h2).symm
  simp only [Bool.and_eq_true, decide_eq_true_eq] at hb
  obtain ⟨⟨⟨⟨⟨⟨⟨hb0, hb1⟩, hb2⟩, hb3⟩, hb4⟩, hb5⟩, hb6⟩, hb7⟩ := hb
  obtain ⟨hlt, e0, e1, e2, e3, e4, e5, e6, e7⟩ := shape0 wd 0x0F d a b s w o 5 (by rw [he]; first | done | (simp only [put]; done) | (simp only [put]; omega)) (by decide) (by assumption) (by assumption) (by assumption) (by assumption) (by assumption) (by assumption) (by decide)
  refine ⟨hlt, ?_⟩
  refine decodeWord_of ((fields0F e0).trans ?_) hw
  simp only [decodeMajor0F, e1, e2, e3, e4, e5, e6, e7]

theorem amoor (d a b s w o : Nat) : Statement (.amoor d a b s w o) := by
  intro wd hw h
  have hb : (decide (d < 32) && decide (a < 32) && decide (b < 32) && decide (s < 8) && decide (w < 4) && decide (o < 4) && decide (2 ≤ w) && decide (s ≤ 6)) = true := hw
  have h2 : some (0x3c000006 + put d 21 + put a 16 + put b 11 + put s 8 + put w 6 + put o 4) = some wd := h
  have he := (Option.some.inj h2).symm
  simp only [Bool.and_eq_true, decide_eq_true_eq] at hb
  obtain ⟨⟨⟨⟨⟨⟨⟨hb0, hb1⟩, hb2⟩, hb3⟩, hb4⟩, hb5⟩, hb6⟩, hb7⟩ := hb
  obtain ⟨hlt, e0, e1, e2, e3, e4, e5, e6, e7⟩ := shape0 wd 0x0F d a b s w o 6 (by rw [he]; first | done | (simp only [put]; done) | (simp only [put]; omega)) (by decide) (by assumption) (by assumption) (by assumption) (by assumption) (by assumption) (by assumption) (by decide)
  refine ⟨hlt, ?_⟩
  refine decodeWord_of ((fields0F e0).trans ?_) hw
  simp only [decodeMajor0F, e1, e2, e3, e4, e5, e6, e7]

theorem amoxor (d a b s w o : Nat) : Statement (.amoxor d a b s w o) := by
  intro wd hw h
  have hb : (decide (d < 32) && decide (a < 32) && decide (b < 32) && decide (s < 8) && decide (w < 4) && decide (o < 4) && decide (2 ≤ w) && decide (s ≤ 6)) = true := hw
  have h2 : some (0x3c000007 + put d 21 + put a 16 + put b 11 + put s 8 + put w 6 + put o 4) = some wd := h
  have he := (Option.some.inj h2).symm
  simp only [Bool.and_eq_true, decide_eq_true_eq] at hb
  obtain ⟨⟨⟨⟨⟨⟨⟨hb0, hb1⟩, hb2⟩, hb3⟩, hb4⟩, hb5⟩, hb6⟩, hb7⟩ := hb
  obtain ⟨hlt, e0, e1, e2, e3, e4, e5, e6, e7⟩ := shape0 wd 0x0F d a b s w o 7 (by rw [he]; first | done | (simp only [put]; done) | (simp only [put]; omega)) (by decide) (by assumption) (by assumption) (by assumption) (by assumption) (by assumption) (by assumption) (by decide)
  refine ⟨hlt, ?_⟩
  refine decodeWord_of ((fields0F e0).trans ?_) hw
  simp only [decodeMajor0F, e1, e2, e3, e4, e5, e6, e7]

theorem amomin (d a b s w o : Nat) : Statement (.amomin d a b s w o) := by
  intro wd hw h
  have hb : (decide (d < 32) && decide (a < 32) && decide (b < 32) && decide (s < 8) && decide (w < 4) && decide (o < 4) && decide (2 ≤ w) && decide (s ≤ 6)) = true := hw
  have h2 : some (0x3c000008 + put d 21 + put a 16 + put b 11 + put s 8 + put w 6 + put o 4) = some wd := h
  have he := (Option.some.inj h2).symm
  simp only [Bool.and_eq_true, decide_eq_true_eq] at hb
  obtain ⟨⟨⟨⟨⟨⟨⟨hb0, hb1⟩, hb2⟩, hb3⟩, hb4⟩, hb5⟩, hb6⟩, hb7⟩ := hb
  obtain ⟨hlt, e0, e1, e2, e3, e4, e5, e6, e7⟩ := shape0 wd 0x0F d a b s w o 8 (by rw [he]; first | done | (simp only [put]; done) | (simp only [put]; omega)) (by decide) (by assumption) (by assumption) (by assumption) (by assumption) (by assumption) (by assumption) (by decide)
  refine ⟨hlt, ?_⟩
  refine decodeWord_of ((fields0F e0).trans ?_) hw
  simp only [decodeMajor0F, e1, e2, e3, e4, e5, e6, e7]

theorem amomax (d a b s w o : Nat) : Statement (.amomax d a b s w o) := by
  intro wd hw h
  have hb : (decide (d < 32) && decide (a < 32) && decide (b < 32) && decide (s < 8) && decide (w < 4) && decide (o < 4) && decide (2 ≤ w) && decide (s ≤ 6)) = true := hw
  have h2 : some (0x3c000009 + put d 21 + put a 16 + put b 11 + put s 8 + put w 6 + put o 4) = some wd := h
  have he := (Option.some.inj h2).symm
  simp only [Bool.and_eq_true, decide_eq_true_eq] at hb
  obtain ⟨⟨⟨⟨⟨⟨⟨hb0, hb1⟩, hb2⟩, hb3⟩, hb4⟩, hb5⟩, hb6⟩, hb7⟩ := hb
  obtain ⟨hlt, e0, e1, e2, e3, e4, e5, e6, e7⟩ := shape0 wd 0x0F d a b s w o 9 (by rw [he]; first | done | (simp only [put]; done) | (simp only [put]; omega)) (by decide) (by assumption) (by assumption) (by assumption) (by assumption) (by assumption) (by assumption) (by decide)
  refine ⟨hlt, ?_⟩
  refine decodeWord_of ((fields0F e0).trans ?_) hw
  simp only [decodeMajor0F, e1, e2, e3, e4, e5, e6, e7]

theorem amominu (d a b s w o : Nat) : Statement (.amominu d a b s w o) := by
  intro wd hw h
  have hb : (decide (d < 32) && decide (a < 32) && decide (b < 32) && decide (s < 8) && decide (w < 4) && decide (o < 4) && decide (2 ≤ w) && decide (s ≤ 6)) = true := hw
  have h2 : some (0x3c00000a + put d 21 + put a 16 + put b 11 + put s 8 + put w 6 + put o 4) = some wd := h
  have he := (Option.some.inj h2).symm
  simp only [Bool.and_eq_true, decide_eq_true_eq] at hb
  obtain ⟨⟨⟨⟨⟨⟨⟨hb0, hb1⟩, hb2⟩, hb3⟩, hb4⟩, hb5⟩, hb6⟩, hb7⟩ := hb
  obtain ⟨hlt, e0, e1, e2, e3, e4, e5, e6, e7⟩ := shape0 wd 0x0F d a b s w o 10 (by rw [he]; first | done | (simp only [put]; done) | (simp only [put]; omega)) (by decide) (by assumption) (by assumption) (by assumption) (by assumption) (by assumption) (by assumption) (by decide)
  refine ⟨hlt, ?_⟩
  refine decodeWord_of ((fields0F e0).trans ?_) hw
  simp only [decodeMajor0F, e1, e2, e3, e4, e5, e6, e7]

theorem amomaxu (d a b s w o : Nat) : Statement (.amomaxu d a b s w o) := by
  intro wd hw h
  have hb : (decide (d < 32) && decide (a < 32) && decide (b < 32) && decide (s < 8) && decide (w < 4) && decide (o < 4) && decide (2 ≤ w) && decide (s ≤ 6)) = true := hw
  have h2 : some (0x3c00000b + put d 21 + put a 16 + put b 11 + put s 8 + put w 6 + put o 4) = some wd := h
  have he := (Option.some.inj h2).symm
  simp only [Bool.and_eq_true, decide_eq_true_eq] at hb
  obtain ⟨⟨⟨⟨⟨⟨⟨hb0, hb1⟩, hb2⟩, hb3⟩, hb4⟩, hb5⟩, hb6⟩, hb7⟩ := hb
  obtain ⟨hlt, e0, e1, e2, e3, e4, e5, e6, e7⟩ := shape0 wd 0x0F d a b s w o 11 (by rw [he]; first | done | (simp only [put]; done) | (simp only [put]; omega)) (by decide) (by assumption) (by assumption) (by assumption) (by assumption) (by assumption) (by assumption) (by decide)
  refine ⟨hlt, ?_⟩
  refine decodeWord_of ((fields0F e0).trans ?_) hw
  simp only [decodeMajor0F, e1, e2, e3, e4, e5, e6, e7]

theorem cas (d a b s w o : Nat) : Statement (.cas d a b s w o) := by
  intro wd hw h
  have hb : (decide (d < 32) && decide (a < 32) && decide (b < 32) && decide (s < 8) && decide (w < 4) && decide (o < 4) && decide (2 ≤ w) && decide (s ≤ 6)) = true := hw
  have h2 : some (0x3c00000c + put d 21 + put a 16 + put b 11 + put s 8 + put w 6 + put o 4) = some wd := h
  have he := (Option.some.inj h2).symm
  simp only [Bool.and_eq_true, decide_eq_true_eq] at hb
  obtain ⟨⟨⟨⟨⟨⟨⟨hb0, hb1⟩, hb2⟩, hb3⟩, hb4⟩, hb5⟩, hb6⟩, hb7⟩ := hb
  obtain ⟨hlt, e0, e1, e2, e3, e4, e5, e6, e7⟩ := shape0 wd 0x0F d a b s w o 12 (by rw [he]; first | done | (simp only [put]; done) | (simp only [put]; omega)) (by decide) (by assumption) (by assumption) (by assumption) (by assumption) (by assumption) (by assumption) (by decide)
  refine ⟨hlt, ?_⟩
  refine decodeWord_of ((fields0F e0).trans ?_) hw
  simp only [decodeMajor0F, e1, e2, e3, e4, e5, e6, e7]

theorem vsetl (d a v : Nat) : Statement (.vsetl d a v) := by
  intro wd hw h
  have hb : (decide (d < 32) && decide (a < 32) && decide (v < 64) && decide (v % 8 ≤ 3) && decide (v / 8 ≤ 3)) = true := hw
  have h2 : some (0x40000000 + put d 21 + put a 16 + v) = some wd := h
  have he := (Option.some.inj h2).symm
  simp only [Bool.and_eq_true, decide_eq_true_eq] at hb
  obtain ⟨⟨⟨⟨hb0, hb1⟩, hb2⟩, hb3⟩, hb4⟩ := hb
  obtain ⟨hlt, e0, e1, e2, e3, e4⟩ := shape1 wd 0x10 d a 0 v (by rw [he]; first | done | (simp only [put]; done) | (simp only [put]; omega)) (by decide) (by assumption) (by assumption) (by decide) (by assumption)
  refine ⟨hlt, ?_⟩
  refine decodeWord_of ((fields10 e0).trans ?_) hw
  simp only [decodeMajor10, e1, e2, e3, e4, if_true]

theorem vloop (a : Nat) : Statement (.vloop a) := by
  intro wd hw h
  have hb : (decide (a < 32)) = true := hw
  have h2 : some (0x44000000 + put a 16) = some wd := h
  have he := (Option.some.inj h2).symm
  simp only [decide_eq_true_eq] at hb
  obtain ⟨hlt, e0, e1, e2, e3⟩ := shape2 wd 0x11 0 a 0 (by rw [he]; first | done | (simp only [put]; done) | (simp only [put]; omega)) (by decide) (by decide) (by assumption) (by decide)
  refine ⟨hlt, ?_⟩
  refine decodeWord_of ((fields11 e0).trans ?_) hw
  simp only [decodeMajor11, e1, e2, e3, if_true, and_self]

theorem vnext : Statement (.vnext) := by
  intro wd hw h
  have h2 : some (0x48000000) = some wd := h
  have he := (Option.some.inj h2).symm
  obtain ⟨hlt, e0, e1, e2, e3⟩ := shape2 wd 0x12 0 0 0 (by omega) (by decide) (by decide) (by decide) (by decide)
  refine ⟨hlt, ?_⟩
  refine decodeWord_of ((fields12 e0).trans ?_) hw
  simp only [decodeMajor12, e1, e2, e3, if_true, and_self]

theorem vsettl (d a : Nat) : Statement (.vsettl d a) := by
  intro wd hw h
  have hb : (decide (d < 32) && decide (a < 32)) = true := hw
  have h2 : some (0x4c000000 + put d 21 + put a 16) = some wd := h
  have he := (Option.some.inj h2).symm
  simp only [Bool.and_eq_true, decide_eq_true_eq] at hb
  obtain ⟨hb0, hb1⟩ := hb
  obtain ⟨hlt, e0, e1, e2, e3⟩ := shape2 wd 0x13 d a 0 (by rw [he]; first | done | (simp only [put]; done) | (simp only [put]; omega)) (by decide) (by assumption) (by assumption) (by decide)
  refine ⟨hlt, ?_⟩
  refine decodeWord_of ((fields13 e0).trans ?_) hw
  simp only [decodeMajor13, e1, e2, e3, if_true]

theorem vsetmt (m : Nat) : Statement (.vsetmt m) := by
  intro wd hw h
  have hb : (decide (m < 4)) = true := hw
  have h2 : some (0x50000000 + m) = some wd := h
  have he := (Option.some.inj h2).symm
  simp only [decide_eq_true_eq] at hb
  obtain ⟨hlt, e0, e1, e2, e3, e4⟩ := shape3 wd 0x14 0 0 0 m (by omega) (by decide) (by decide) (by decide) (by decide) (by assumption)
  refine ⟨hlt, ?_⟩
  refine decodeWord_of ((fields14 e0).trans ?_) hw
  simp only [decodeMajor14, e1, e2, e3, e4, if_true, and_self]

theorem vdead (a : Nat) : Statement (.vdead a) := by
  intro wd hw h
  have hb : (decide (a < 32)) = true := hw
  have h2 : some (0x54000000 + put a 16) = some wd := h
  have he := (Option.some.inj h2).symm
  simp only [decide_eq_true_eq] at hb
  obtain ⟨hlt, e0, e1, e2, e3⟩ := shape2 wd 0x15 0 a 0 (by rw [he]; first | done | (simp only [put]; done) | (simp only [put]; omega)) (by decide) (by decide) (by assumption) (by decide)
  refine ⟨hlt, ?_⟩
  refine decodeWord_of ((fields15 e0).trans ?_) hw
  simp only [decodeMajor15, e1, e2, e3, if_true, and_self]

theorem icpf (a i : Nat) : Statement (.icpf a i) := by
  intro wd hw h
  have hb : (decide (a < 32) && decide (i < 65536)) = true := hw
  have h2 : some (0x58000000 + put a 16 + i) = some wd := h
  have he := (Option.some.inj h2).symm
  simp only [Bool.and_eq_true, decide_eq_true_eq] at hb
  obtain ⟨hb0, hb1⟩ := hb
  obtain ⟨hlt, e0, e1, e2, e3⟩ := shape2 wd 0x16 0 a i (by rw [he]; first | done | (simp only [put]; done) | (simp only [put]; omega)) (by decide) (by decide) (by assumption) (by assumption)
  refine ⟨hlt, ?_⟩
  refine decodeWord_of ((fields16 e0).trans ?_) hw
  simp only [decodeMajor16, e1, e2, e3, if_true]

theorem cwait (k : Nat) : Statement (.cwait k) := by
  intro wd hw h
  have hb : (decide (k < 256)) = true := hw
  have h2 : some (0x5c000000 + k) = some wd := h
  have he := (Option.some.inj h2).symm
  simp only [decide_eq_true_eq] at hb
  obtain ⟨hlt, e0, e1, e2, e3, e4⟩ := shape4 wd 0x17 0 0 0 k (by omega) (by decide) (by decide) (by decide) (by decide) (by assumption)
  refine ⟨hlt, ?_⟩
  refine decodeWord_of ((fields17 e0).trans ?_) hw
  simp only [decodeMajor17, e1, e2, e3, e4, if_true, and_self]

theorem vaddI (d a b f m : Nat) : Statement (.vaddI d a b f m) := by
  intro wd hw h
  have hb : (decide (d < 32) && decide (a < 32) && decide (b < 32) && decide (f < 32) && decide (m < 8)) = true := hw
  have h2 : some (0x60000000 + put d 21 + put a 16 + put b 11 + put f 6 + put m 3) = some wd := h
  have he := (Option.some.inj h2).symm
  simp only [Bool.and_eq_true, decide_eq_true_eq] at hb
  obtain ⟨⟨⟨⟨hb0, hb1⟩, hb2⟩, hb3⟩, hb4⟩ := hb
  obtain ⟨hlt, e0, e1, e2, e3, e4, e5, e6⟩ := shape5 wd 0x18 d a b f m 0 (by rw [he]; first | done | (simp only [put]; done) | (simp only [put]; omega)) (by decide) (by assumption) (by assumption) (by assumption) (by assumption) (by assumption) (by decide)
  refine ⟨hlt, ?_⟩
  refine decodeWord_of ((fields18 e0).trans ?_) hw
  simp only [decodeMajor18, e1, e2, e3, e4, e5, e6]

theorem vsubI (d a b f m : Nat) : Statement (.vsubI d a b f m) := by
  intro wd hw h
  have hb : (decide (d < 32) && decide (a < 32) && decide (b < 32) && decide (f < 32) && decide (m < 8)) = true := hw
  have h2 : some (0x60000001 + put d 21 + put a 16 + put b 11 + put f 6 + put m 3) = some wd := h
  have he := (Option.some.inj h2).symm
  simp only [Bool.and_eq_true, decide_eq_true_eq] at hb
  obtain ⟨⟨⟨⟨hb0, hb1⟩, hb2⟩, hb3⟩, hb4⟩ := hb
  obtain ⟨hlt, e0, e1, e2, e3, e4, e5, e6⟩ := shape5 wd 0x18 d a b f m 1 (by rw [he]; first | done | (simp only [put]; done) | (simp only [put]; omega)) (by decide) (by assumption) (by assumption) (by assumption) (by assumption) (by assumption) (by decide)
  refine ⟨hlt, ?_⟩
  refine decodeWord_of ((fields18 e0).trans ?_) hw
  simp only [decodeMajor18, e1, e2, e3, e4, e5, e6]

theorem vmulI (d a b f m : Nat) : Statement (.vmulI d a b f m) := by
  intro wd hw h
  have hb : (decide (d < 32) && decide (a < 32) && decide (b < 32) && decide (f < 32) && decide (m < 8)) = true := hw
  have h2 : some (0x60000002 + put d 21 + put a 16 + put b 11 + put f 6 + put m 3) = some wd := h
  have he := (Option.some.inj h2).symm
  simp only [Bool.and_eq_true, decide_eq_true_eq] at hb
  obtain ⟨⟨⟨⟨hb0, hb1⟩, hb2⟩, hb3⟩, hb4⟩ := hb
  obtain ⟨hlt, e0, e1, e2, e3, e4, e5, e6⟩ := shape5 wd 0x18 d a b f m 2 (by rw [he]; first | done | (simp only [put]; done) | (simp only [put]; omega)) (by decide) (by assumption) (by assumption) (by assumption) (by assumption) (by assumption) (by decide)
  refine ⟨hlt, ?_⟩
  refine decodeWord_of ((fields18 e0).trans ?_) hw
  simp only [decodeMajor18, e1, e2, e3, e4, e5, e6]

theorem vmulhI (d a b f m : Nat) : Statement (.vmulhI d a b f m) := by
  intro wd hw h
  have hb : (decide (d < 32) && decide (a < 32) && decide (b < 32) && decide (f < 32) && decide (m < 8)) = true := hw
  have h2 : some (0x60000003 + put d 21 + put a 16 + put b 11 + put f 6 + put m 3) = some wd := h
  have he := (Option.some.inj h2).symm
  simp only [Bool.and_eq_true, decide_eq_true_eq] at hb
  obtain ⟨⟨⟨⟨hb0, hb1⟩, hb2⟩, hb3⟩, hb4⟩ := hb
  obtain ⟨hlt, e0, e1, e2, e3, e4, e5, e6⟩ := shape5 wd 0x18 d a b f m 3 (by rw [he]; first | done | (simp only [put]; done) | (simp only [put]; omega)) (by decide) (by assumption) (by assumption) (by assumption) (by assumption) (by assumption) (by decide)
  refine ⟨hlt, ?_⟩
  refine decodeWord_of ((fields18 e0).trans ?_) hw
  simp only [decodeMajor18, e1, e2, e3, e4, e5, e6]

theorem vminI (d a b f m : Nat) : Statement (.vminI d a b f m) := by
  intro wd hw h
  have hb : (decide (d < 32) && decide (a < 32) && decide (b < 32) && decide (f < 32) && decide (m < 8)) = true := hw
  have h2 : some (0x60000004 + put d 21 + put a 16 + put b 11 + put f 6 + put m 3) = some wd := h
  have he := (Option.some.inj h2).symm
  simp only [Bool.and_eq_true, decide_eq_true_eq] at hb
  obtain ⟨⟨⟨⟨hb0, hb1⟩, hb2⟩, hb3⟩, hb4⟩ := hb
  obtain ⟨hlt, e0, e1, e2, e3, e4, e5, e6⟩ := shape5 wd 0x18 d a b f m 4 (by rw [he]; first | done | (simp only [put]; done) | (simp only [put]; omega)) (by decide) (by assumption) (by assumption) (by assumption) (by assumption) (by assumption) (by decide)
  refine ⟨hlt, ?_⟩
  refine decodeWord_of ((fields18 e0).trans ?_) hw
  simp only [decodeMajor18, e1, e2, e3, e4, e5, e6]

theorem vmaxI (d a b f m : Nat) : Statement (.vmaxI d a b f m) := by
  intro wd hw h
  have hb : (decide (d < 32) && decide (a < 32) && decide (b < 32) && decide (f < 32) && decide (m < 8)) = true := hw
  have h2 : some (0x60000005 + put d 21 + put a 16 + put b 11 + put f 6 + put m 3) = some wd := h
  have he := (Option.some.inj h2).symm
  simp only [Bool.and_eq_true, decide_eq_true_eq] at hb
  obtain ⟨⟨⟨⟨hb0, hb1⟩, hb2⟩, hb3⟩, hb4⟩ := hb
  obtain ⟨hlt, e0, e1, e2, e3, e4, e5, e6⟩ := shape5 wd 0x18 d a b f m 5 (by rw [he]; first | done | (simp only [put]; done) | (simp only [put]; omega)) (by decide) (by assumption) (by assumption) (by assumption) (by assumption) (by assumption) (by decide)
  refine ⟨hlt, ?_⟩
  refine decodeWord_of ((fields18 e0).trans ?_) hw
  simp only [decodeMajor18, e1, e2, e3, e4, e5, e6]

theorem vmaccI (d a b f m : Nat) : Statement (.vmaccI d a b f m) := by
  intro wd hw h
  have hb : (decide (d < 32) && decide (a < 32) && decide (b < 32) && decide (f < 32) && decide (m < 8)) = true := hw
  have h2 : some (0x60000006 + put d 21 + put a 16 + put b 11 + put f 6 + put m 3) = some wd := h
  have he := (Option.some.inj h2).symm
  simp only [Bool.and_eq_true, decide_eq_true_eq] at hb
  obtain ⟨⟨⟨⟨hb0, hb1⟩, hb2⟩, hb3⟩, hb4⟩ := hb
  obtain ⟨hlt, e0, e1, e2, e3, e4, e5, e6⟩ := shape5 wd 0x18 d a b f m 6 (by rw [he]; first | done | (simp only [put]; done) | (simp only [put]; omega)) (by decide) (by assumption) (by assumption) (by assumption) (by assumption) (by assumption) (by decide)
  refine ⟨hlt, ?_⟩
  refine decodeWord_of ((fields18 e0).trans ?_) hw
  simp only [decodeMajor18, e1, e2, e3, e4, e5, e6]

theorem vdivI (d a b f m : Nat) : Statement (.vdivI d a b f m) := by
  intro wd hw h
  have hb : (decide (d < 32) && decide (a < 32) && decide (b < 32) && decide (f < 32) && decide (m < 8)) = true := hw
  have h2 : some (0x60000007 + put d 21 + put a 16 + put b 11 + put f 6 + put m 3) = some wd := h
  have he := (Option.some.inj h2).symm
  simp only [Bool.and_eq_true, decide_eq_true_eq] at hb
  obtain ⟨⟨⟨⟨hb0, hb1⟩, hb2⟩, hb3⟩, hb4⟩ := hb
  obtain ⟨hlt, e0, e1, e2, e3, e4, e5, e6⟩ := shape5 wd 0x18 d a b f m 7 (by rw [he]; first | done | (simp only [put]; done) | (simp only [put]; omega)) (by decide) (by assumption) (by assumption) (by assumption) (by assumption) (by assumption) (by decide)
  refine ⟨hlt, ?_⟩
  refine decodeWord_of ((fields18 e0).trans ?_) hw
  simp only [decodeMajor18, e1, e2, e3, e4, e5, e6]

theorem vaddIS (d a b f m : Nat) : Statement (.vaddIS d a b f m) := by
  intro wd hw h
  have hb : (decide (d < 32) && decide (a < 32) && decide (b < 32) && decide (f < 32) && decide (m < 8)) = true := hw
  have h2 : some (0x64000000 + put d 21 + put a 16 + put b 11 + put f 6 + put m 3) = some wd := h
  have he := (Option.some.inj h2).symm
  simp only [Bool.and_eq_true, decide_eq_true_eq] at hb
  obtain ⟨⟨⟨⟨hb0, hb1⟩, hb2⟩, hb3⟩, hb4⟩ := hb
  obtain ⟨hlt, e0, e1, e2, e3, e4, e5, e6⟩ := shape5 wd 0x19 d a b f m 0 (by rw [he]; first | done | (simp only [put]; done) | (simp only [put]; omega)) (by decide) (by assumption) (by assumption) (by assumption) (by assumption) (by assumption) (by decide)
  refine ⟨hlt, ?_⟩
  refine decodeWord_of ((fields19 e0).trans ?_) hw
  simp only [decodeMajor19, e1, e2, e3, e4, e5, e6]

theorem vsubIS (d a b f m : Nat) : Statement (.vsubIS d a b f m) := by
  intro wd hw h
  have hb : (decide (d < 32) && decide (a < 32) && decide (b < 32) && decide (f < 32) && decide (m < 8)) = true := hw
  have h2 : some (0x64000001 + put d 21 + put a 16 + put b 11 + put f 6 + put m 3) = some wd := h
  have he := (Option.some.inj h2).symm
  simp only [Bool.and_eq_true, decide_eq_true_eq] at hb
  obtain ⟨⟨⟨⟨hb0, hb1⟩, hb2⟩, hb3⟩, hb4⟩ := hb
  obtain ⟨hlt, e0, e1, e2, e3, e4, e5, e6⟩ := shape5 wd 0x19 d a b f m 1 (by rw [he]; first | done | (simp only [put]; done) | (simp only [put]; omega)) (by decide) (by assumption) (by assumption) (by assumption) (by assumption) (by assumption) (by decide)
  refine ⟨hlt, ?_⟩
  refine decodeWord_of ((fields19 e0).trans ?_) hw
  simp only [decodeMajor19, e1, e2, e3, e4, e5, e6]

theorem vmulIS (d a b f m : Nat) : Statement (.vmulIS d a b f m) := by
  intro wd hw h
  have hb : (decide (d < 32) && decide (a < 32) && decide (b < 32) && decide (f < 32) && decide (m < 8)) = true := hw
  have h2 : some (0x64000002 + put d 21 + put a 16 + put b 11 + put f 6 + put m 3) = some wd := h
  have he := (Option.some.inj h2).symm
  simp only [Bool.and_eq_true, decide_eq_true_eq] at hb
  obtain ⟨⟨⟨⟨hb0, hb1⟩, hb2⟩, hb3⟩, hb4⟩ := hb
  obtain ⟨hlt, e0, e1, e2, e3, e4, e5, e6⟩ := shape5 wd 0x19 d a b f m 2 (by rw [he]; first | done | (simp only [put]; done) | (simp only [put]; omega)) (by decide) (by assumption) (by assumption) (by assumption) (by assumption) (by assumption) (by decide)
  refine ⟨hlt, ?_⟩
  refine decodeWord_of ((fields19 e0).trans ?_) hw
  simp only [decodeMajor19, e1, e2, e3, e4, e5, e6]

theorem vmulhIS (d a b f m : Nat) : Statement (.vmulhIS d a b f m) := by
  intro wd hw h
  have hb : (decide (d < 32) && decide (a < 32) && decide (b < 32) && decide (f < 32) && decide (m < 8)) = true := hw
  have h2 : some (0x64000003 + put d 21 + put a 16 + put b 11 + put f 6 + put m 3) = some wd := h
  have he := (Option.some.inj h2).symm
  simp only [Bool.and_eq_true, decide_eq_true_eq] at hb
  obtain ⟨⟨⟨⟨hb0, hb1⟩, hb2⟩, hb3⟩, hb4⟩ := hb
  obtain ⟨hlt, e0, e1, e2, e3, e4, e5, e6⟩ := shape5 wd 0x19 d a b f m 3 (by rw [he]; first | done | (simp only [put]; done) | (simp only [put]; omega)) (by decide) (by assumption) (by assumption) (by assumption) (by assumption) (by assumption) (by decide)
  refine ⟨hlt, ?_⟩
  refine decodeWord_of ((fields19 e0).trans ?_) hw
  simp only [decodeMajor19, e1, e2, e3, e4, e5, e6]

theorem vminIS (d a b f m : Nat) : Statement (.vminIS d a b f m) := by
  intro wd hw h
  have hb : (decide (d < 32) && decide (a < 32) && decide (b < 32) && decide (f < 32) && decide (m < 8)) = true := hw
  have h2 : some (0x64000004 + put d 21 + put a 16 + put b 11 + put f 6 + put m 3) = some wd := h
  have he := (Option.some.inj h2).symm
  simp only [Bool.and_eq_true, decide_eq_true_eq] at hb
  obtain ⟨⟨⟨⟨hb0, hb1⟩, hb2⟩, hb3⟩, hb4⟩ := hb
  obtain ⟨hlt, e0, e1, e2, e3, e4, e5, e6⟩ := shape5 wd 0x19 d a b f m 4 (by rw [he]; first | done | (simp only [put]; done) | (simp only [put]; omega)) (by decide) (by assumption) (by assumption) (by assumption) (by assumption) (by assumption) (by decide)
  refine ⟨hlt, ?_⟩
  refine decodeWord_of ((fields19 e0).trans ?_) hw
  simp only [decodeMajor19, e1, e2, e3, e4, e5, e6]

theorem vmaxIS (d a b f m : Nat) : Statement (.vmaxIS d a b f m) := by
  intro wd hw h
  have hb : (decide (d < 32) && decide (a < 32) && decide (b < 32) && decide (f < 32) && decide (m < 8)) = true := hw
  have h2 : some (0x64000005 + put d 21 + put a 16 + put b 11 + put f 6 + put m 3) = some wd := h
  have he := (Option.some.inj h2).symm
  simp only [Bool.and_eq_true, decide_eq_true_eq] at hb
  obtain ⟨⟨⟨⟨hb0, hb1⟩, hb2⟩, hb3⟩, hb4⟩ := hb
  obtain ⟨hlt, e0, e1, e2, e3, e4, e5, e6⟩ := shape5 wd 0x19 d a b f m 5 (by rw [he]; first | done | (simp only [put]; done) | (simp only [put]; omega)) (by decide) (by assumption) (by assumption) (by assumption) (by assumption) (by assumption) (by decide)
  refine ⟨hlt, ?_⟩
  refine decodeWord_of ((fields19 e0).trans ?_) hw
  simp only [decodeMajor19, e1, e2, e3, e4, e5, e6]

theorem vmaccIS (d a b f m : Nat) : Statement (.vmaccIS d a b f m) := by
  intro wd hw h
  have hb : (decide (d < 32) && decide (a < 32) && decide (b < 32) && decide (f < 32) && decide (m < 8)) = true := hw
  have h2 : some (0x64000006 + put d 21 + put a 16 + put b 11 + put f 6 + put m 3) = some wd := h
  have he := (Option.some.inj h2).symm
  simp only [Bool.and_eq_true, decide_eq_true_eq] at hb
  obtain ⟨⟨⟨⟨hb0, hb1⟩, hb2⟩, hb3⟩, hb4⟩ := hb
  obtain ⟨hlt, e0, e1, e2, e3, e4, e5, e6⟩ := shape5 wd 0x19 d a b f m 6 (by rw [he]; first | done | (simp only [put]; done) | (simp only [put]; omega)) (by decide) (by assumption) (by assumption) (by assumption) (by assumption) (by assumption) (by decide)
  refine ⟨hlt, ?_⟩
  refine decodeWord_of ((fields19 e0).trans ?_) hw
  simp only [decodeMajor19, e1, e2, e3, e4, e5, e6]

theorem vdivIS (d a b f m : Nat) : Statement (.vdivIS d a b f m) := by
  intro wd hw h
  have hb : (decide (d < 32) && decide (a < 32) && decide (b < 32) && decide (f < 32) && decide (m < 8)) = true := hw
  have h2 : some (0x64000007 + put d 21 + put a 16 + put b 11 + put f 6 + put m 3) = some wd := h
  have he := (Option.some.inj h2).symm
  simp only [Bool.and_eq_true, decide_eq_true_eq] at hb
  obtain ⟨⟨⟨⟨hb0, hb1⟩, hb2⟩, hb3⟩, hb4⟩ := hb
  obtain ⟨hlt, e0, e1, e2, e3, e4, e5, e6⟩ := shape5 wd 0x19 d a b f m 7 (by rw [he]; first | done | (simp only [put]; done) | (simp only [put]; omega)) (by decide) (by assumption) (by assumption) (by assumption) (by assumption) (by assumption) (by decide)
  refine ⟨hlt, ?_⟩
  refine decodeWord_of ((fields19 e0).trans ?_) hw
  simp only [decodeMajor19, e1, e2, e3, e4, e5, e6]

theorem vaddF (d a b f m : Nat) : Statement (.vaddF d a b f m) := by
  intro wd hw h
  have hb : (decide (d < 32) && decide (a < 32) && decide (b < 32) && decide (f < 32) && decide (m < 8)) = true := hw
  have h2 : some (0x68000000 + put d 21 + put a 16 + put b 11 + put f 6 + put m 3) = some wd := h
  have he := (Option.some.inj h2).symm
  simp only [Bool.and_eq_true, decide_eq_true_eq] at hb
  obtain ⟨⟨⟨⟨hb0, hb1⟩, hb2⟩, hb3⟩, hb4⟩ := hb
  obtain ⟨hlt, e0, e1, e2, e3, e4, e5, e6⟩ := shape5 wd 0x1A d a b f m 0 (by rw [he]; first | done | (simp only [put]; done) | (simp only [put]; omega)) (by decide) (by assumption) (by assumption) (by assumption) (by assumption) (by assumption) (by decide)
  refine ⟨hlt, ?_⟩
  refine decodeWord_of ((fields1A e0).trans ?_) hw
  simp only [decodeMajor1A, e1, e2, e3, e4, e5, e6]

theorem vsubF (d a b f m : Nat) : Statement (.vsubF d a b f m) := by
  intro wd hw h
  have hb : (decide (d < 32) && decide (a < 32) && decide (b < 32) && decide (f < 32) && decide (m < 8)) = true := hw
  have h2 : some (0x68000001 + put d 21 + put a 16 + put b 11 + put f 6 + put m 3) = some wd := h
  have he := (Option.some.inj h2).symm
  simp only [Bool.and_eq_true, decide_eq_true_eq] at hb
  obtain ⟨⟨⟨⟨hb0, hb1⟩, hb2⟩, hb3⟩, hb4⟩ := hb
  obtain ⟨hlt, e0, e1, e2, e3, e4, e5, e6⟩ := shape5 wd 0x1A d a b f m 1 (by rw [he]; first | done | (simp only [put]; done) | (simp only [put]; omega)) (by decide) (by assumption) (by assumption) (by assumption) (by assumption) (by assumption) (by decide)
  refine ⟨hlt, ?_⟩
  refine decodeWord_of ((fields1A e0).trans ?_) hw
  simp only [decodeMajor1A, e1, e2, e3, e4, e5, e6]

theorem vmulF (d a b f m : Nat) : Statement (.vmulF d a b f m) := by
  intro wd hw h
  have hb : (decide (d < 32) && decide (a < 32) && decide (b < 32) && decide (f < 32) && decide (m < 8)) = true := hw
  have h2 : some (0x68000002 + put d 21 + put a 16 + put b 11 + put f 6 + put m 3) = some wd := h
  have he := (Option.some.inj h2).symm
  simp only [Bool.and_eq_true, decide_eq_true_eq] at hb
  obtain ⟨⟨⟨⟨hb0, hb1⟩, hb2⟩, hb3⟩, hb4⟩ := hb
  obtain ⟨hlt, e0, e1, e2, e3, e4, e5, e6⟩ := shape5 wd 0x1A d a b f m 2 (by rw [he]; first | done | (simp only [put]; done) | (simp only [put]; omega)) (by decide) (by assumption) (by assumption) (by assumption) (by assumption) (by assumption) (by decide)
  refine ⟨hlt, ?_⟩
  refine decodeWord_of ((fields1A e0).trans ?_) hw
  simp only [decodeMajor1A, e1, e2, e3, e4, e5, e6]

theorem vdivF (d a b f m : Nat) : Statement (.vdivF d a b f m) := by
  intro wd hw h
  have hb : (decide (d < 32) && decide (a < 32) && decide (b < 32) && decide (f < 32) && decide (m < 8)) = true := hw
  have h2 : some (0x68000003 + put d 21 + put a 16 + put b 11 + put f 6 + put m 3) = some wd := h
  have he := (Option.some.inj h2).symm
  simp only [Bool.and_eq_true, decide_eq_true_eq] at hb
  obtain ⟨⟨⟨⟨hb0, hb1⟩, hb2⟩, hb3⟩, hb4⟩ := hb
  obtain ⟨hlt, e0, e1, e2, e3, e4, e5, e6⟩ := shape5 wd 0x1A d a b f m 3 (by rw [he]; first | done | (simp only [put]; done) | (simp only [put]; omega)) (by decide) (by assumption) (by assumption) (by assumption) (by assumption) (by assumption) (by decide)
  refine ⟨hlt, ?_⟩
  refine decodeWord_of ((fields1A e0).trans ?_) hw
  simp only [decodeMajor1A, e1, e2, e3, e4, e5, e6]

theorem vminF (d a b f m : Nat) : Statement (.vminF d a b f m) := by
  intro wd hw h
  have hb : (decide (d < 32) && decide (a < 32) && decide (b < 32) && decide (f < 32) && decide (m < 8)) = true := hw
  have h2 : some (0x68000004 + put d 21 + put a 16 + put b 11 + put f 6 + put m 3) = some wd := h
  have he := (Option.some.inj h2).symm
  simp only [Bool.and_eq_true, decide_eq_true_eq] at hb
  obtain ⟨⟨⟨⟨hb0, hb1⟩, hb2⟩, hb3⟩, hb4⟩ := hb
  obtain ⟨hlt, e0, e1, e2, e3, e4, e5, e6⟩ := shape5 wd 0x1A d a b f m 4 (by rw [he]; first | done | (simp only [put]; done) | (simp only [put]; omega)) (by decide) (by assumption) (by assumption) (by assumption) (by assumption) (by assumption) (by decide)
  refine ⟨hlt, ?_⟩
  refine decodeWord_of ((fields1A e0).trans ?_) hw
  simp only [decodeMajor1A, e1, e2, e3, e4, e5, e6]

theorem vmaxF (d a b f m : Nat) : Statement (.vmaxF d a b f m) := by
  intro wd hw h
  have hb : (decide (d < 32) && decide (a < 32) && decide (b < 32) && decide (f < 32) && decide (m < 8)) = true := hw
  have h2 : some (0x68000005 + put d 21 + put a 16 + put b 11 + put f 6 + put m 3) = some wd := h
  have he := (Option.some.inj h2).symm
  simp only [Bool.and_eq_true, decide_eq_true_eq] at hb
  obtain ⟨⟨⟨⟨hb0, hb1⟩, hb2⟩, hb3⟩, hb4⟩ := hb
  obtain ⟨hlt, e0, e1, e2, e3, e4, e5, e6⟩ := shape5 wd 0x1A d a b f m 5 (by rw [he]; first | done | (simp only [put]; done) | (simp only [put]; omega)) (by decide) (by assumption) (by assumption) (by assumption) (by assumption) (by assumption) (by decide)
  refine ⟨hlt, ?_⟩
  refine decodeWord_of ((fields1A e0).trans ?_) hw
  simp only [decodeMajor1A, e1, e2, e3, e4, e5, e6]

theorem vfmaF (d a b f m : Nat) : Statement (.vfmaF d a b f m) := by
  intro wd hw h
  have hb : (decide (d < 32) && decide (a < 32) && decide (b < 32) && decide (f < 32) && decide (m < 8)) = true := hw
  have h2 : some (0x68000006 + put d 21 + put a 16 + put b 11 + put f 6 + put m 3) = some wd := h
  have he := (Option.some.inj h2).symm
  simp only [Bool.and_eq_true, decide_eq_true_eq] at hb
  obtain ⟨⟨⟨⟨hb0, hb1⟩, hb2⟩, hb3⟩, hb4⟩ := hb
  obtain ⟨hlt, e0, e1, e2, e3, e4, e5, e6⟩ := shape5 wd 0x1A d a b f m 6 (by rw [he]; first | done | (simp only [put]; done) | (simp only [put]; omega)) (by decide) (by assumption) (by assumption) (by assumption) (by assumption) (by assumption) (by decide)
  refine ⟨hlt, ?_⟩
  refine decodeWord_of ((fields1A e0).trans ?_) hw
  simp only [decodeMajor1A, e1, e2, e3, e4, e5, e6]

theorem vsqrtF (d a f m : Nat) : Statement (.vsqrtF d a f m) := by
  intro wd hw h
  have hb : (decide (d < 32) && decide (a < 32) && decide (f < 32) && decide (m < 8)) = true := hw
  have h2 : some (0x68000007 + put d 21 + put a 16 + put f 6 + put m 3) = some wd := h
  have he := (Option.some.inj h2).symm
  simp only [Bool.and_eq_true, decide_eq_true_eq] at hb
  obtain ⟨⟨⟨hb0, hb1⟩, hb2⟩, hb3⟩ := hb
  obtain ⟨hlt, e0, e1, e2, e3, e4, e5, e6⟩ := shape5 wd 0x1A d a 0 f m 7 (by rw [he]; first | done | (simp only [put]; done) | (simp only [put]; omega)) (by decide) (by assumption) (by assumption) (by decide) (by assumption) (by assumption) (by decide)
  refine ⟨hlt, ?_⟩
  refine decodeWord_of ((fields1A e0).trans ?_) hw
  simp only [decodeMajor1A, e1, e2, e3, e4, e5, e6, if_true]

theorem vaddFS (d a b f m : Nat) : Statement (.vaddFS d a b f m) := by
  intro wd hw h
  have hb : (decide (d < 32) && decide (a < 32) && decide (b < 32) && decide (f < 32) && decide (m < 8)) = true := hw
  have h2 : some (0x6c000000 + put d 21 + put a 16 + put b 11 + put f 6 + put m 3) = some wd := h
  have he := (Option.some.inj h2).symm
  simp only [Bool.and_eq_true, decide_eq_true_eq] at hb
  obtain ⟨⟨⟨⟨hb0, hb1⟩, hb2⟩, hb3⟩, hb4⟩ := hb
  obtain ⟨hlt, e0, e1, e2, e3, e4, e5, e6⟩ := shape5 wd 0x1B d a b f m 0 (by rw [he]; first | done | (simp only [put]; done) | (simp only [put]; omega)) (by decide) (by assumption) (by assumption) (by assumption) (by assumption) (by assumption) (by decide)
  refine ⟨hlt, ?_⟩
  refine decodeWord_of ((fields1B e0).trans ?_) hw
  simp only [decodeMajor1B, e1, e2, e3, e4, e5, e6]

theorem vsubFS (d a b f m : Nat) : Statement (.vsubFS d a b f m) := by
  intro wd hw h
  have hb : (decide (d < 32) && decide (a < 32) && decide (b < 32) && decide (f < 32) && decide (m < 8)) = true := hw
  have h2 : some (0x6c000001 + put d 21 + put a 16 + put b 11 + put f 6 + put m 3) = some wd := h
  have he := (Option.some.inj h2).symm
  simp only [Bool.and_eq_true, decide_eq_true_eq] at hb
  obtain ⟨⟨⟨⟨hb0, hb1⟩, hb2⟩, hb3⟩, hb4⟩ := hb
  obtain ⟨hlt, e0, e1, e2, e3, e4, e5, e6⟩ := shape5 wd 0x1B d a b f m 1 (by rw [he]; first | done | (simp only [put]; done) | (simp only [put]; omega)) (by decide) (by assumption) (by assumption) (by assumption) (by assumption) (by assumption) (by decide)
  refine ⟨hlt, ?_⟩
  refine decodeWord_of ((fields1B e0).trans ?_) hw
  simp only [decodeMajor1B, e1, e2, e3, e4, e5, e6]

theorem vmulFS (d a b f m : Nat) : Statement (.vmulFS d a b f m) := by
  intro wd hw h
  have hb : (decide (d < 32) && decide (a < 32) && decide (b < 32) && decide (f < 32) && decide (m < 8)) = true := hw
  have h2 : some (0x6c000002 + put d 21 + put a 16 + put b 11 + put f 6 + put m 3) = some wd := h
  have he := (Option.some.inj h2).symm
  simp only [Bool.and_eq_true, decide_eq_true_eq] at hb
  obtain ⟨⟨⟨⟨hb0, hb1⟩, hb2⟩, hb3⟩, hb4⟩ := hb
  obtain ⟨hlt, e0, e1, e2, e3, e4, e5, e6⟩ := shape5 wd 0x1B d a b f m 2 (by rw [he]; first | done | (simp only [put]; done) | (simp only [put]; omega)) (by decide) (by assumption) (by assumption) (by assumption) (by assumption) (by assumption) (by decide)
  refine ⟨hlt, ?_⟩
  refine decodeWord_of ((fields1B e0).trans ?_) hw
  simp only [decodeMajor1B, e1, e2, e3, e4, e5, e6]

theorem vdivFS (d a b f m : Nat) : Statement (.vdivFS d a b f m) := by
  intro wd hw h
  have hb : (decide (d < 32) && decide (a < 32) && decide (b < 32) && decide (f < 32) && decide (m < 8)) = true := hw
  have h2 : some (0x6c000003 + put d 21 + put a 16 + put b 11 + put f 6 + put m 3) = some wd := h
  have he := (Option.some.inj h2).symm
  simp only [Bool.and_eq_true, decide_eq_true_eq] at hb
  obtain ⟨⟨⟨⟨hb0, hb1⟩, hb2⟩, hb3⟩, hb4⟩ := hb
  obtain ⟨hlt, e0, e1, e2, e3, e4, e5, e6⟩ := shape5 wd 0x1B d a b f m 3 (by rw [he]; first | done | (simp only [put]; done) | (simp only [put]; omega)) (by decide) (by assumption) (by assumption) (by assumption) (by assumption) (by assumption) (by decide)
  refine ⟨hlt, ?_⟩
  refine decodeWord_of ((fields1B e0).trans ?_) hw
  simp only [decodeMajor1B, e1, e2, e3, e4, e5, e6]

theorem vminFS (d a b f m : Nat) : Statement (.vminFS d a b f m) := by
  intro wd hw h
  have hb : (decide (d < 32) && decide (a < 32) && decide (b < 32) && decide (f < 32) && decide (m < 8)) = true := hw
  have h2 : some (0x6c000004 + put d 21 + put a 16 + put b 11 + put f 6 + put m 3) = some wd := h
  have he := (Option.some.inj h2).symm
  simp only [Bool.and_eq_true, decide_eq_true_eq] at hb
  obtain ⟨⟨⟨⟨hb0, hb1⟩, hb2⟩, hb3⟩, hb4⟩ := hb
  obtain ⟨hlt, e0, e1, e2, e3, e4, e5, e6⟩ := shape5 wd 0x1B d a b f m 4 (by rw [he]; first | done | (simp only [put]; done) | (simp only [put]; omega)) (by decide) (by assumption) (by assumption) (by assumption) (by assumption) (by assumption) (by decide)
  refine ⟨hlt, ?_⟩
  refine decodeWord_of ((fields1B e0).trans ?_) hw
  simp only [decodeMajor1B, e1, e2, e3, e4, e5, e6]

theorem vmaxFS (d a b f m : Nat) : Statement (.vmaxFS d a b f m) := by
  intro wd hw h
  have hb : (decide (d < 32) && decide (a < 32) && decide (b < 32) && decide (f < 32) && decide (m < 8)) = true := hw
  have h2 : some (0x6c000005 + put d 21 + put a 16 + put b 11 + put f 6 + put m 3) = some wd := h
  have he := (Option.some.inj h2).symm
  simp only [Bool.and_eq_true, decide_eq_true_eq] at hb
  obtain ⟨⟨⟨⟨hb0, hb1⟩, hb2⟩, hb3⟩, hb4⟩ := hb
  obtain ⟨hlt, e0, e1, e2, e3, e4, e5, e6⟩ := shape5 wd 0x1B d a b f m 5 (by rw [he]; first | done | (simp only [put]; done) | (simp only [put]; omega)) (by decide) (by assumption) (by assumption) (by assumption) (by assumption) (by assumption) (by decide)
  refine ⟨hlt, ?_⟩
  refine decodeWord_of ((fields1B e0).trans ?_) hw
  simp only [decodeMajor1B, e1, e2, e3, e4, e5, e6]

theorem vfmaFS (d a b f m : Nat) : Statement (.vfmaFS d a b f m) := by
  intro wd hw h
  have hb : (decide (d < 32) && decide (a < 32) && decide (b < 32) && decide (f < 32) && decide (m < 8)) = true := hw
  have h2 : some (0x6c000006 + put d 21 + put a 16 + put b 11 + put f 6 + put m 3) = some wd := h
  have he := (Option.some.inj h2).symm
  simp only [Bool.and_eq_true, decide_eq_true_eq] at hb
  obtain ⟨⟨⟨⟨hb0, hb1⟩, hb2⟩, hb3⟩, hb4⟩ := hb
  obtain ⟨hlt, e0, e1, e2, e3, e4, e5, e6⟩ := shape5 wd 0x1B d a b f m 6 (by rw [he]; first | done | (simp only [put]; done) | (simp only [put]; omega)) (by decide) (by assumption) (by assumption) (by assumption) (by assumption) (by assumption) (by decide)
  refine ⟨hlt, ?_⟩
  refine decodeWord_of ((fields1B e0).trans ?_) hw
  simp only [decodeMajor1B, e1, e2, e3, e4, e5, e6]

theorem vand (d a b m : Nat) : Statement (.vand d a b m) := by
  intro wd hw h
  have hb : (decide (d < 32) && decide (a < 32) && decide (b < 32) && decide (m < 8)) = true := hw
  have h2 : some (0x70000000 + put d 21 + put a 16 + put b 11 + put m 3) = some wd := h
  have he := (Option.some.inj h2).symm
  simp only [Bool.and_eq_true, decide_eq_true_eq] at hb
  obtain ⟨⟨⟨hb0, hb1⟩, hb2⟩, hb3⟩ := hb
  obtain ⟨hlt, e0, e1, e2, e3, e4, e5, e6⟩ := shape5 wd 0x1C d a b 0 m 0 (by rw [he]; first | done | (simp only [put]; done) | (simp only [put]; omega)) (by decide) (by assumption) (by assumption) (by assumption) (by decide) (by assumption) (by decide)
  refine ⟨hlt, ?_⟩
  refine decodeWord_of ((fields1C e0).trans ?_) hw
  simp only [decodeMajor1C, e1, e2, e3, e4, e5, e6, if_true]

theorem vor (d a b m : Nat) : Statement (.vor d a b m) := by
  intro wd hw h
  have hb : (decide (d < 32) && decide (a < 32) && decide (b < 32) && decide (m < 8)) = true := hw
  have h2 : some (0x70000001 + put d 21 + put a 16 + put b 11 + put m 3) = some wd := h
  have he := (Option.some.inj h2).symm
  simp only [Bool.and_eq_true, decide_eq_true_eq] at hb
  obtain ⟨⟨⟨hb0, hb1⟩, hb2⟩, hb3⟩ := hb
  obtain ⟨hlt, e0, e1, e2, e3, e4, e5, e6⟩ := shape5 wd 0x1C d a b 0 m 1 (by rw [he]; first | done | (simp only [put]; done) | (simp only [put]; omega)) (by decide) (by assumption) (by assumption) (by assumption) (by decide) (by assumption) (by decide)
  refine ⟨hlt, ?_⟩
  refine decodeWord_of ((fields1C e0).trans ?_) hw
  simp only [decodeMajor1C, e1, e2, e3, e4, e5, e6, if_true]

theorem vxor (d a b m : Nat) : Statement (.vxor d a b m) := by
  intro wd hw h
  have hb : (decide (d < 32) && decide (a < 32) && decide (b < 32) && decide (m < 8)) = true := hw
  have h2 : some (0x70000002 + put d 21 + put a 16 + put b 11 + put m 3) = some wd := h
  have he := (Option.some.inj h2).symm
  simp only [Bool.and_eq_true, decide_eq_true_eq] at hb
  obtain ⟨⟨⟨hb0, hb1⟩, hb2⟩, hb3⟩ := hb
  obtain ⟨hlt, e0, e1, e2, e3, e4, e5, e6⟩ := shape5 wd 0x1C d a b 0 m 2 (by rw [he]; first | done | (simp only [put]; done) | (simp only [put]; omega)) (by decide) (by assumption) (by assumption) (by assumption) (by decide) (by assumption) (by decide)
  refine ⟨hlt, ?_⟩
  refine decodeWord_of ((fields1C e0).trans ?_) hw
  simp only [decodeMajor1C, e1, e2, e3, e4, e5, e6, if_true]

theorem vnot (d a m : Nat) : Statement (.vnot d a m) := by
  intro wd hw h
  have hb : (decide (d < 32) && decide (a < 32) && decide (m < 8)) = true := hw
  have h2 : some (0x70000003 + put d 21 + put a 16 + put m 3) = some wd := h
  have he := (Option.some.inj h2).symm
  simp only [Bool.and_eq_true, decide_eq_true_eq] at hb
  obtain ⟨⟨hb0, hb1⟩, hb2⟩ := hb
  obtain ⟨hlt, e0, e1, e2, e3, e4, e5, e6⟩ := shape5 wd 0x1C d a 0 0 m 3 (by rw [he]; first | done | (simp only [put]; done) | (simp only [put]; omega)) (by decide) (by assumption) (by assumption) (by decide) (by decide) (by assumption) (by decide)
  refine ⟨hlt, ?_⟩
  refine decodeWord_of ((fields1C e0).trans ?_) hw
  simp only [decodeMajor1C, e1, e2, e3, e4, e5, e6, if_true, and_self]

theorem vsll (d a b m : Nat) : Statement (.vsll d a b m) := by
  intro wd hw h
  have hb : (decide (d < 32) && decide (a < 32) && decide (b < 32) && decide (m < 8)) = true := hw
  have h2 : some (0x70000004 + put d 21 + put a 16 + put b 11 + put m 3) = some wd := h
  have he := (Option.some.inj h2).symm
  simp only [Bool.and_eq_true, decide_eq_true_eq] at hb
  obtain ⟨⟨⟨hb0, hb1⟩, hb2⟩, hb3⟩ := hb
  obtain ⟨hlt, e0, e1, e2, e3, e4, e5, e6⟩ := shape5 wd 0x1C d a b 0 m 4 (by rw [he]; first | done | (simp only [put]; done) | (simp only [put]; omega)) (by decide) (by assumption) (by assumption) (by assumption) (by decide) (by assumption) (by decide)
  refine ⟨hlt, ?_⟩
  refine decodeWord_of ((fields1C e0).trans ?_) hw
  simp only [decodeMajor1C, e1, e2, e3, e4, e5, e6, if_true]

theorem vsrl (d a b m : Nat) : Statement (.vsrl d a b m) := by
  intro wd hw h
  have hb : (decide (d < 32) && decide (a < 32) && decide (b < 32) && decide (m < 8)) = true := hw
  have h2 : some (0x70000005 + put d 21 + put a 16 + put b 11 + put m 3) = some wd := h
  have he := (Option.some.inj h2).symm
  simp only [Bool.and_eq_true, decide_eq_true_eq] at hb
  obtain ⟨⟨⟨hb0, hb1⟩, hb2⟩, hb3⟩ := hb
  obtain ⟨hlt, e0, e1, e2, e3, e4, e5, e6⟩ := shape5 wd 0x1C d a b 0 m 5 (by rw [he]; first | done | (simp only [put]; done) | (simp only [put]; omega)) (by decide) (by assumption) (by assumption) (by assumption) (by decide) (by assumption) (by decide)
  refine ⟨hlt, ?_⟩
  refine decodeWord_of ((fields1C e0).trans ?_) hw
  simp only [decodeMajor1C, e1, e2, e3, e4, e5, e6, if_true]

theorem vsra (d a b m : Nat) : Statement (.vsra d a b m) := by
  intro wd hw h
  have hb : (decide (d < 32) && decide (a < 32) && decide (b < 32) && decide (m < 8)) = true := hw
  have h2 : some (0x70000006 + put d 21 + put a 16 + put b 11 + put m 3) = some wd := h
  have he := (Option.some.inj h2).symm
  simp only [Bool.and_eq_true, decide_eq_true_eq] at hb
  obtain ⟨⟨⟨hb0, hb1⟩, hb2⟩, hb3⟩ := hb
  obtain ⟨hlt, e0, e1, e2, e3, e4, e5, e6⟩ := shape5 wd 0x1C d a b 0 m 6 (by rw [he]; first | done | (simp only [put]; done) | (simp only [put]; omega)) (by decide) (by assumption) (by assumption) (by assumption) (by decide) (by assumption) (by decide)
  refine ⟨hlt, ?_⟩
  refine decodeWord_of ((fields1C e0).trans ?_) hw
  simp only [decodeMajor1C, e1, e2, e3, e4, e5, e6, if_true]

theorem vandS (d a b m : Nat) : Statement (.vandS d a b m) := by
  intro wd hw h
  have hb : (decide (d < 32) && decide (a < 32) && decide (b < 32) && decide (m < 8)) = true := hw
  have h2 : some (0x74000000 + put d 21 + put a 16 + put b 11 + put m 3) = some wd := h
  have he := (Option.some.inj h2).symm
  simp only [Bool.and_eq_true, decide_eq_true_eq] at hb
  obtain ⟨⟨⟨hb0, hb1⟩, hb2⟩, hb3⟩ := hb
  obtain ⟨hlt, e0, e1, e2, e3, e4, e5, e6⟩ := shape5 wd 0x1D d a b 0 m 0 (by rw [he]; first | done | (simp only [put]; done) | (simp only [put]; omega)) (by decide) (by assumption) (by assumption) (by assumption) (by decide) (by assumption) (by decide)
  refine ⟨hlt, ?_⟩
  refine decodeWord_of ((fields1D e0).trans ?_) hw
  simp only [decodeMajor1D, e1, e2, e3, e4, e5, e6, if_true]

theorem vorS (d a b m : Nat) : Statement (.vorS d a b m) := by
  intro wd hw h
  have hb : (decide (d < 32) && decide (a < 32) && decide (b < 32) && decide (m < 8)) = true := hw
  have h2 : some (0x74000001 + put d 21 + put a 16 + put b 11 + put m 3) = some wd := h
  have he := (Option.some.inj h2).symm
  simp only [Bool.and_eq_true, decide_eq_true_eq] at hb
  obtain ⟨⟨⟨hb0, hb1⟩, hb2⟩, hb3⟩ := hb
  obtain ⟨hlt, e0, e1, e2, e3, e4, e5, e6⟩ := shape5 wd 0x1D d a b 0 m 1 (by rw [he]; first | done | (simp only [put]; done) | (simp only [put]; omega)) (by decide) (by assumption) (by assumption) (by assumption) (by decide) (by assumption) (by decide)
  refine ⟨hlt, ?_⟩
  refine decodeWord_of ((fields1D e0).trans ?_) hw
  simp only [decodeMajor1D, e1, e2, e3, e4, e5, e6, if_true]

theorem vxorS (d a b m : Nat) : Statement (.vxorS d a b m) := by
  intro wd hw h
  have hb : (decide (d < 32) && decide (a < 32) && decide (b < 32) && decide (m < 8)) = true := hw
  have h2 : some (0x74000002 + put d 21 + put a 16 + put b 11 + put m 3) = some wd := h
  have he := (Option.some.inj h2).symm
  simp only [Bool.and_eq_true, decide_eq_true_eq] at hb
  obtain ⟨⟨⟨hb0, hb1⟩, hb2⟩, hb3⟩ := hb
  obtain ⟨hlt, e0, e1, e2, e3, e4, e5, e6⟩ := shape5 wd 0x1D d a b 0 m 2 (by rw [he]; first | done | (simp only [put]; done) | (simp only [put]; omega)) (by decide) (by assumption) (by assumption) (by assumption) (by decide) (by assumption) (by decide)
  refine ⟨hlt, ?_⟩
  refine decodeWord_of ((fields1D e0).trans ?_) hw
  simp only [decodeMajor1D, e1, e2, e3, e4, e5, e6, if_true]

theorem vsllS (d a b m : Nat) : Statement (.vsllS d a b m) := by
  intro wd hw h
  have hb : (decide (d < 32) && decide (a < 32) && decide (b < 32) && decide (m < 8)) = true := hw
  have h2 : some (0x74000004 + put d 21 + put a 16 + put b 11 + put m 3) = some wd := h
  have he := (Option.some.inj h2).symm
  simp only [Bool.and_eq_true, decide_eq_true_eq] at hb
  obtain ⟨⟨⟨hb0, hb1⟩, hb2⟩, hb3⟩ := hb
  obtain ⟨hlt, e0, e1, e2, e3, e4, e5, e6⟩ := shape5 wd 0x1D d a b 0 m 4 (by rw [he]; first | done | (simp only [put]; done) | (simp only [put]; omega)) (by decide) (by assumption) (by assumption) (by assumption) (by decide) (by assumption) (by decide)
  refine ⟨hlt, ?_⟩
  refine decodeWord_of ((fields1D e0).trans ?_) hw
  simp only [decodeMajor1D, e1, e2, e3, e4, e5, e6, if_true]

theorem vsrlS (d a b m : Nat) : Statement (.vsrlS d a b m) := by
  intro wd hw h
  have hb : (decide (d < 32) && decide (a < 32) && decide (b < 32) && decide (m < 8)) = true := hw
  have h2 : some (0x74000005 + put d 21 + put a 16 + put b 11 + put m 3) = some wd := h
  have he := (Option.some.inj h2).symm
  simp only [Bool.and_eq_true, decide_eq_true_eq] at hb
  obtain ⟨⟨⟨hb0, hb1⟩, hb2⟩, hb3⟩ := hb
  obtain ⟨hlt, e0, e1, e2, e3, e4, e5, e6⟩ := shape5 wd 0x1D d a b 0 m 5 (by rw [he]; first | done | (simp only [put]; done) | (simp only [put]; omega)) (by decide) (by assumption) (by assumption) (by assumption) (by decide) (by assumption) (by decide)
  refine ⟨hlt, ?_⟩
  refine decodeWord_of ((fields1D e0).trans ?_) hw
  simp only [decodeMajor1D, e1, e2, e3, e4, e5, e6, if_true]

theorem vsraS (d a b m : Nat) : Statement (.vsraS d a b m) := by
  intro wd hw h
  have hb : (decide (d < 32) && decide (a < 32) && decide (b < 32) && decide (m < 8)) = true := hw
  have h2 : some (0x74000006 + put d 21 + put a 16 + put b 11 + put m 3) = some wd := h
  have he := (Option.some.inj h2).symm
  simp only [Bool.and_eq_true, decide_eq_true_eq] at hb
  obtain ⟨⟨⟨hb0, hb1⟩, hb2⟩, hb3⟩ := hb
  obtain ⟨hlt, e0, e1, e2, e3, e4, e5, e6⟩ := shape5 wd 0x1D d a b 0 m 6 (by rw [he]; first | done | (simp only [put]; done) | (simp only [put]; omega)) (by decide) (by assumption) (by assumption) (by assumption) (by decide) (by assumption) (by decide)
  refine ⟨hlt, ?_⟩
  refine decodeWord_of ((fields1D e0).trans ?_) hw
  simp only [decodeMajor1D, e1, e2, e3, e4, e5, e6, if_true]

theorem vcmpeq (d a b f m : Nat) : Statement (.vcmpeq d a b f m) := by
  intro wd hw h
  have hb : (decide (d < 32) && decide (a < 32) && decide (b < 32) && decide (f < 32) && decide (m < 8) && decide (1 ≤ d) && decide (d ≤ 7)) = true := hw
  have h2 : some (0x78000000 + put d 21 + put a 16 + put b 11 + put f 6 + put m 3) = some wd := h
  have he := (Option.some.inj h2).symm
  simp only [Bool.and_eq_true, decide_eq_true_eq] at hb
  obtain ⟨⟨⟨⟨⟨⟨hb0, hb1⟩, hb2⟩, hb3⟩, hb4⟩, hb5⟩, hb6⟩ := hb
  obtain ⟨hlt, e0, e1, e2, e3, e4, e5, e6⟩ := shape5 wd 0x1E d a b f m 0 (by rw [he]; first | done | (simp only [put]; done) | (simp only [put]; omega)) (by decide) (by assumption) (by assumption) (by assumption) (by assumption) (by assumption) (by decide)
  refine ⟨hlt, ?_⟩
  refine decodeWord_of ((fields1E e0).trans ?_) hw
  simp only [decodeMajor1E, e1, e2, e3, e4, e5, e6]

theorem vcmpne (d a b f m : Nat) : Statement (.vcmpne d a b f m) := by
  intro wd hw h
  have hb : (decide (d < 32) && decide (a < 32) && decide (b < 32) && decide (f < 32) && decide (m < 8) && decide (1 ≤ d) && decide (d ≤ 7)) = true := hw
  have h2 : some (0x78000001 + put d 21 + put a 16 + put b 11 + put f 6 + put m 3) = some wd := h
  have he := (Option.some.inj h2).symm
  simp only [Bool.and_eq_true, decide_eq_true_eq] at hb
  obtain ⟨⟨⟨⟨⟨⟨hb0, hb1⟩, hb2⟩, hb3⟩, hb4⟩, hb5⟩, hb6⟩ := hb
  obtain ⟨hlt, e0, e1, e2, e3, e4, e5, e6⟩ := shape5 wd 0x1E d a b f m 1 (by rw [he]; first | done | (simp only [put]; done) | (simp only [put]; omega)) (by decide) (by assumption) (by assumption) (by assumption) (by assumption) (by assumption) (by decide)
  refine ⟨hlt, ?_⟩
  refine decodeWord_of ((fields1E e0).trans ?_) hw
  simp only [decodeMajor1E, e1, e2, e3, e4, e5, e6]

theorem vcmplt (d a b f m : Nat) : Statement (.vcmplt d a b f m) := by
  intro wd hw h
  have hb : (decide (d < 32) && decide (a < 32) && decide (b < 32) && decide (f < 32) && decide (m < 8) && decide (1 ≤ d) && decide (d ≤ 7)) = true := hw
  have h2 : some (0x78000002 + put d 21 + put a 16 + put b 11 + put f 6 + put m 3) = some wd := h
  have he := (Option.some.inj h2).symm
  simp only [Bool.and_eq_true, decide_eq_true_eq] at hb
  obtain ⟨⟨⟨⟨⟨⟨hb0, hb1⟩, hb2⟩, hb3⟩, hb4⟩, hb5⟩, hb6⟩ := hb
  obtain ⟨hlt, e0, e1, e2, e3, e4, e5, e6⟩ := shape5 wd 0x1E d a b f m 2 (by rw [he]; first | done | (simp only [put]; done) | (simp only [put]; omega)) (by decide) (by assumption) (by assumption) (by assumption) (by assumption) (by assumption) (by decide)
  refine ⟨hlt, ?_⟩
  refine decodeWord_of ((fields1E e0).trans ?_) hw
  simp only [decodeMajor1E, e1, e2, e3, e4, e5, e6]

theorem vcmple (d a b f m : Nat) : Statement (.vcmple d a b f m) := by
  intro wd hw h
  have hb : (decide (d < 32) && decide (a < 32) && decide (b < 32) && decide (f < 32) && decide (m < 8) && decide (1 ≤ d) && decide (d ≤ 7)) = true := hw
  have h2 : some (0x78000003 + put d 21 + put a 16 + put b 11 + put f 6 + put m 3) = some wd := h
  have he := (Option.some.inj h2).symm
  simp only [Bool.and_eq_true, decide_eq_true_eq] at hb
  obtain ⟨⟨⟨⟨⟨⟨hb0, hb1⟩, hb2⟩, hb3⟩, hb4⟩, hb5⟩, hb6⟩ := hb
  obtain ⟨hlt, e0, e1, e2, e3, e4, e5, e6⟩ := shape5 wd 0x1E d a b f m 3 (by rw [he]; first | done | (simp only [put]; done) | (simp only [put]; omega)) (by decide) (by assumption) (by assumption) (by assumption) (by assumption) (by assumption) (by decide)
  refine ⟨hlt, ?_⟩
  refine decodeWord_of ((fields1E e0).trans ?_) hw
  simp only [decodeMajor1E, e1, e2, e3, e4, e5, e6]

theorem vcmpgt (d a b f m : Nat) : Statement (.vcmpgt d a b f m) := by
  intro wd hw h
  have hb : (decide (d < 32) && decide (a < 32) && decide (b < 32) && decide (f < 32) && decide (m < 8) && decide (1 ≤ d) && decide (d ≤ 7)) = true := hw
  have h2 : some (0x78000004 + put d 21 + put a 16 + put b 11 + put f 6 + put m 3) = some wd := h
  have he := (Option.some.inj h2).symm
  simp only [Bool.and_eq_true, decide_eq_true_eq] at hb
  obtain ⟨⟨⟨⟨⟨⟨hb0, hb1⟩, hb2⟩, hb3⟩, hb4⟩, hb5⟩, hb6⟩ := hb
  obtain ⟨hlt, e0, e1, e2, e3, e4, e5, e6⟩ := shape5 wd 0x1E d a b f m 4 (by rw [he]; first | done | (simp only [put]; done) | (simp only [put]; omega)) (by decide) (by assumption) (by assumption) (by assumption) (by assumption) (by assumption) (by decide)
  refine ⟨hlt, ?_⟩
  refine decodeWord_of ((fields1E e0).trans ?_) hw
  simp only [decodeMajor1E, e1, e2, e3, e4, e5, e6]

theorem vcmpge (d a b f m : Nat) : Statement (.vcmpge d a b f m) := by
  intro wd hw h
  have hb : (decide (d < 32) && decide (a < 32) && decide (b < 32) && decide (f < 32) && decide (m < 8) && decide (1 ≤ d) && decide (d ≤ 7)) = true := hw
  have h2 : some (0x78000005 + put d 21 + put a 16 + put b 11 + put f 6 + put m 3) = some wd := h
  have he := (Option.some.inj h2).symm
  simp only [Bool.and_eq_true, decide_eq_true_eq] at hb
  obtain ⟨⟨⟨⟨⟨⟨hb0, hb1⟩, hb2⟩, hb3⟩, hb4⟩, hb5⟩, hb6⟩ := hb
  obtain ⟨hlt, e0, e1, e2, e3, e4, e5, e6⟩ := shape5 wd 0x1E d a b f m 5 (by rw [he]; first | done | (simp only [put]; done) | (simp only [put]; omega)) (by decide) (by assumption) (by assumption) (by assumption) (by assumption) (by assumption) (by decide)
  refine ⟨hlt, ?_⟩
  refine decodeWord_of ((fields1E e0).trans ?_) hw
  simp only [decodeMajor1E, e1, e2, e3, e4, e5, e6]

theorem vcmpun (d a b f m : Nat) : Statement (.vcmpun d a b f m) := by
  intro wd hw h
  have hb : (decide (d < 32) && decide (a < 32) && decide (b < 32) && decide (f < 32) && decide (m < 8) && decide (1 ≤ d) && decide (d ≤ 7)) = true := hw
  have h2 : some (0x78000006 + put d 21 + put a 16 + put b 11 + put f 6 + put m 3) = some wd := h
  have he := (Option.some.inj h2).symm
  simp only [Bool.and_eq_true, decide_eq_true_eq] at hb
  obtain ⟨⟨⟨⟨⟨⟨hb0, hb1⟩, hb2⟩, hb3⟩, hb4⟩, hb5⟩, hb6⟩ := hb
  obtain ⟨hlt, e0, e1, e2, e3, e4, e5, e6⟩ := shape5 wd 0x1E d a b f m 6 (by rw [he]; first | done | (simp only [put]; done) | (simp only [put]; omega)) (by decide) (by assumption) (by assumption) (by assumption) (by assumption) (by assumption) (by decide)
  refine ⟨hlt, ?_⟩
  refine decodeWord_of ((fields1E e0).trans ?_) hw
  simp only [decodeMajor1E, e1, e2, e3, e4, e5, e6]

theorem vcmpeqS (d a b f m : Nat) : Statement (.vcmpeqS d a b f m) := by
  intro wd hw h
  have hb : (decide (d < 32) && decide (a < 32) && decide (b < 32) && decide (f < 32) && decide (m < 8) && decide (1 ≤ d) && decide (d ≤ 7)) = true := hw
  have h2 : some (0x7c000000 + put d 21 + put a 16 + put b 11 + put f 6 + put m 3) = some wd := h
  have he := (Option.some.inj h2).symm
  simp only [Bool.and_eq_true, decide_eq_true_eq] at hb
  obtain ⟨⟨⟨⟨⟨⟨hb0, hb1⟩, hb2⟩, hb3⟩, hb4⟩, hb5⟩, hb6⟩ := hb
  obtain ⟨hlt, e0, e1, e2, e3, e4, e5, e6⟩ := shape5 wd 0x1F d a b f m 0 (by rw [he]; first | done | (simp only [put]; done) | (simp only [put]; omega)) (by decide) (by assumption) (by assumption) (by assumption) (by assumption) (by assumption) (by decide)
  refine ⟨hlt, ?_⟩
  refine decodeWord_of ((fields1F e0).trans ?_) hw
  simp only [decodeMajor1F, e1, e2, e3, e4, e5, e6]

theorem vcmpneS (d a b f m : Nat) : Statement (.vcmpneS d a b f m) := by
  intro wd hw h
  have hb : (decide (d < 32) && decide (a < 32) && decide (b < 32) && decide (f < 32) && decide (m < 8) && decide (1 ≤ d) && decide (d ≤ 7)) = true := hw
  have h2 : some (0x7c000001 + put d 21 + put a 16 + put b 11 + put f 6 + put m 3) = some wd := h
  have he := (Option.some.inj h2).symm
  simp only [Bool.and_eq_true, decide_eq_true_eq] at hb
  obtain ⟨⟨⟨⟨⟨⟨hb0, hb1⟩, hb2⟩, hb3⟩, hb4⟩, hb5⟩, hb6⟩ := hb
  obtain ⟨hlt, e0, e1, e2, e3, e4, e5, e6⟩ := shape5 wd 0x1F d a b f m 1 (by rw [he]; first | done | (simp only [put]; done) | (simp only [put]; omega)) (by decide) (by assumption) (by assumption) (by assumption) (by assumption) (by assumption) (by decide)
  refine ⟨hlt, ?_⟩
  refine decodeWord_of ((fields1F e0).trans ?_) hw
  simp only [decodeMajor1F, e1, e2, e3, e4, e5, e6]

theorem vcmpltS (d a b f m : Nat) : Statement (.vcmpltS d a b f m) := by
  intro wd hw h
  have hb : (decide (d < 32) && decide (a < 32) && decide (b < 32) && decide (f < 32) && decide (m < 8) && decide (1 ≤ d) && decide (d ≤ 7)) = true := hw
  have h2 : some (0x7c000002 + put d 21 + put a 16 + put b 11 + put f 6 + put m 3) = some wd := h
  have he := (Option.some.inj h2).symm
  simp only [Bool.and_eq_true, decide_eq_true_eq] at hb
  obtain ⟨⟨⟨⟨⟨⟨hb0, hb1⟩, hb2⟩, hb3⟩, hb4⟩, hb5⟩, hb6⟩ := hb
  obtain ⟨hlt, e0, e1, e2, e3, e4, e5, e6⟩ := shape5 wd 0x1F d a b f m 2 (by rw [he]; first | done | (simp only [put]; done) | (simp only [put]; omega)) (by decide) (by assumption) (by assumption) (by assumption) (by assumption) (by assumption) (by decide)
  refine ⟨hlt, ?_⟩
  refine decodeWord_of ((fields1F e0).trans ?_) hw
  simp only [decodeMajor1F, e1, e2, e3, e4, e5, e6]

theorem vcmpleS (d a b f m : Nat) : Statement (.vcmpleS d a b f m) := by
  intro wd hw h
  have hb : (decide (d < 32) && decide (a < 32) && decide (b < 32) && decide (f < 32) && decide (m < 8) && decide (1 ≤ d) && decide (d ≤ 7)) = true := hw
  have h2 : some (0x7c000003 + put d 21 + put a 16 + put b 11 + put f 6 + put m 3) = some wd := h
  have he := (Option.some.inj h2).symm
  simp only [Bool.and_eq_true, decide_eq_true_eq] at hb
  obtain ⟨⟨⟨⟨⟨⟨hb0, hb1⟩, hb2⟩, hb3⟩, hb4⟩, hb5⟩, hb6⟩ := hb
  obtain ⟨hlt, e0, e1, e2, e3, e4, e5, e6⟩ := shape5 wd 0x1F d a b f m 3 (by rw [he]; first | done | (simp only [put]; done) | (simp only [put]; omega)) (by decide) (by assumption) (by assumption) (by assumption) (by assumption) (by assumption) (by decide)
  refine ⟨hlt, ?_⟩
  refine decodeWord_of ((fields1F e0).trans ?_) hw
  simp only [decodeMajor1F, e1, e2, e3, e4, e5, e6]

theorem vcmpgtS (d a b f m : Nat) : Statement (.vcmpgtS d a b f m) := by
  intro wd hw h
  have hb : (decide (d < 32) && decide (a < 32) && decide (b < 32) && decide (f < 32) && decide (m < 8) && decide (1 ≤ d) && decide (d ≤ 7)) = true := hw
  have h2 : some (0x7c000004 + put d 21 + put a 16 + put b 11 + put f 6 + put m 3) = some wd := h
  have he := (Option.some.inj h2).symm
  simp only [Bool.and_eq_true, decide_eq_true_eq] at hb
  obtain ⟨⟨⟨⟨⟨⟨hb0, hb1⟩, hb2⟩, hb3⟩, hb4⟩, hb5⟩, hb6⟩ := hb
  obtain ⟨hlt, e0, e1, e2, e3, e4, e5, e6⟩ := shape5 wd 0x1F d a b f m 4 (by rw [he]; first | done | (simp only [put]; done) | (simp only [put]; omega)) (by decide) (by assumption) (by assumption) (by assumption) (by assumption) (by assumption) (by decide)
  refine ⟨hlt, ?_⟩
  refine decodeWord_of ((fields1F e0).trans ?_) hw
  simp only [decodeMajor1F, e1, e2, e3, e4, e5, e6]

theorem vcmpgeS (d a b f m : Nat) : Statement (.vcmpgeS d a b f m) := by
  intro wd hw h
  have hb : (decide (d < 32) && decide (a < 32) && decide (b < 32) && decide (f < 32) && decide (m < 8) && decide (1 ≤ d) && decide (d ≤ 7)) = true := hw
  have h2 : some (0x7c000005 + put d 21 + put a 16 + put b 11 + put f 6 + put m 3) = some wd := h
  have he := (Option.some.inj h2).symm
  simp only [Bool.and_eq_true, decide_eq_true_eq] at hb
  obtain ⟨⟨⟨⟨⟨⟨hb0, hb1⟩, hb2⟩, hb3⟩, hb4⟩, hb5⟩, hb6⟩ := hb
  obtain ⟨hlt, e0, e1, e2, e3, e4, e5, e6⟩ := shape5 wd 0x1F d a b f m 5 (by rw [he]; first | done | (simp only [put]; done) | (simp only [put]; omega)) (by decide) (by assumption) (by assumption) (by assumption) (by assumption) (by assumption) (by decide)
  refine ⟨hlt, ?_⟩
  refine decodeWord_of ((fields1F e0).trans ?_) hw
  simp only [decodeMajor1F, e1, e2, e3, e4, e5, e6]

theorem vcmpunS (d a b f m : Nat) : Statement (.vcmpunS d a b f m) := by
  intro wd hw h
  have hb : (decide (d < 32) && decide (a < 32) && decide (b < 32) && decide (f < 32) && decide (m < 8) && decide (1 ≤ d) && decide (d ≤ 7)) = true := hw
  have h2 : some (0x7c000006 + put d 21 + put a 16 + put b 11 + put f 6 + put m 3) = some wd := h
  have he := (Option.some.inj h2).symm
  simp only [Bool.and_eq_true, decide_eq_true_eq] at hb
  obtain ⟨⟨⟨⟨⟨⟨hb0, hb1⟩, hb2⟩, hb3⟩, hb4⟩, hb5⟩, hb6⟩ := hb
  obtain ⟨hlt, e0, e1, e2, e3, e4, e5, e6⟩ := shape5 wd 0x1F d a b f m 6 (by rw [he]; first | done | (simp only [put]; done) | (simp only [put]; omega)) (by decide) (by assumption) (by assumption) (by assumption) (by assumption) (by assumption) (by decide)
  refine ⟨hlt, ?_⟩
  refine decodeWord_of ((fields1F e0).trans ?_) hw
  simp only [decodeMajor1F, e1, e2, e3, e4, e5, e6]

theorem mand (d a b : Nat) : Statement (.mand d a b) := by
  intro wd hw h
  have hb : (decide (d < 32) && decide (a < 32) && decide (b < 32) && decide (1 ≤ d) && decide (d ≤ 7) && decide (a ≤ 7) && decide (b ≤ 7)) = true := hw
  have h2 : some (0x80000000 + put d 21 + put a 16 + put b 11) = some wd := h
  have he := (Option.some.inj h2).symm
  simp only [Bool.and_eq_true, decide_eq_true_eq] at hb
  obtain ⟨⟨⟨⟨⟨⟨hb0, hb1⟩, hb2⟩, hb3⟩, hb4⟩, hb5⟩, hb6⟩ := hb
  obtain ⟨hlt, e0, e1, e2, e3, e4, e5, e6⟩ := shape5 wd 0x20 d a b 0 0 0 (by rw [he]; first | done | (simp only [put]; done) | (simp only [put]; omega)) (by decide) (by assumption) (by assumption) (by assumption) (by decide) (by decide) (by decide)
  refine ⟨hlt, ?_⟩
  refine decodeWord_of ((fields20 e0).trans ?_) hw
  simp only [decodeMajor20, e1, e2, e3, e4, e5, e6, if_true, and_self]

theorem mor (d a b : Nat) : Statement (.mor d a b) := by
  intro wd hw h
  have hb : (decide (d < 32) && decide (a < 32) && decide (b < 32) && decide (1 ≤ d) && decide (d ≤ 7) && decide (a ≤ 7) && decide (b ≤ 7)) = true := hw
  have h2 : some (0x80000001 + put d 21 + put a 16 + put b 11) = some wd := h
  have he := (Option.some.inj h2).symm
  simp only [Bool.and_eq_true, decide_eq_true_eq] at hb
  obtain ⟨⟨⟨⟨⟨⟨hb0, hb1⟩, hb2⟩, hb3⟩, hb4⟩, hb5⟩, hb6⟩ := hb
  obtain ⟨hlt, e0, e1, e2, e3, e4, e5, e6⟩ := shape5 wd 0x20 d a b 0 0 1 (by rw [he]; first | done | (simp only [put]; done) | (simp only [put]; omega)) (by decide) (by assumption) (by assumption) (by assumption) (by decide) (by decide) (by decide)
  refine ⟨hlt, ?_⟩
  refine decodeWord_of ((fields20 e0).trans ?_) hw
  simp only [decodeMajor20, e1, e2, e3, e4, e5, e6, if_true, and_self]

theorem mxor (d a b : Nat) : Statement (.mxor d a b) := by
  intro wd hw h
  have hb : (decide (d < 32) && decide (a < 32) && decide (b < 32) && decide (1 ≤ d) && decide (d ≤ 7) && decide (a ≤ 7) && decide (b ≤ 7)) = true := hw
  have h2 : some (0x80000002 + put d 21 + put a 16 + put b 11) = some wd := h
  have he := (Option.some.inj h2).symm
  simp only [Bool.and_eq_true, decide_eq_true_eq] at hb
  obtain ⟨⟨⟨⟨⟨⟨hb0, hb1⟩, hb2⟩, hb3⟩, hb4⟩, hb5⟩, hb6⟩ := hb
  obtain ⟨hlt, e0, e1, e2, e3, e4, e5, e6⟩ := shape5 wd 0x20 d a b 0 0 2 (by rw [he]; first | done | (simp only [put]; done) | (simp only [put]; omega)) (by decide) (by assumption) (by assumption) (by assumption) (by decide) (by decide) (by decide)
  refine ⟨hlt, ?_⟩
  refine decodeWord_of ((fields20 e0).trans ?_) hw
  simp only [decodeMajor20, e1, e2, e3, e4, e5, e6, if_true, and_self]

theorem mandn (d a b : Nat) : Statement (.mandn d a b) := by
  intro wd hw h
  have hb : (decide (d < 32) && decide (a < 32) && decide (b < 32) && decide (1 ≤ d) && decide (d ≤ 7) && decide (a ≤ 7) && decide (b ≤ 7)) = true := hw
  have h2 : some (0x80000003 + put d 21 + put a 16 + put b 11) = some wd := h
  have he := (Option.some.inj h2).symm
  simp only [Bool.and_eq_true, decide_eq_true_eq] at hb
  obtain ⟨⟨⟨⟨⟨⟨hb0, hb1⟩, hb2⟩, hb3⟩, hb4⟩, hb5⟩, hb6⟩ := hb
  obtain ⟨hlt, e0, e1, e2, e3, e4, e5, e6⟩ := shape5 wd 0x20 d a b 0 0 3 (by rw [he]; first | done | (simp only [put]; done) | (simp only [put]; omega)) (by decide) (by assumption) (by assumption) (by assumption) (by decide) (by decide) (by decide)
  refine ⟨hlt, ?_⟩
  refine decodeWord_of ((fields20 e0).trans ?_) hw
  simp only [decodeMajor20, e1, e2, e3, e4, e5, e6, if_true, and_self]

theorem mnot (d a : Nat) : Statement (.mnot d a) := by
  intro wd hw h
  have hb : (decide (d < 32) && decide (a < 32) && decide (1 ≤ d) && decide (d ≤ 7) && decide (a ≤ 7)) = true := hw
  have h2 : some (0x80000004 + put d 21 + put a 16) = some wd := h
  have he := (Option.some.inj h2).symm
  simp only [Bool.and_eq_true, decide_eq_true_eq] at hb
  obtain ⟨⟨⟨⟨hb0, hb1⟩, hb2⟩, hb3⟩, hb4⟩ := hb
  obtain ⟨hlt, e0, e1, e2, e3, e4, e5, e6⟩ := shape5 wd 0x20 d a 0 0 0 4 (by rw [he]; first | done | (simp only [put]; done) | (simp only [put]; omega)) (by decide) (by assumption) (by assumption) (by decide) (by decide) (by decide) (by decide)
  refine ⟨hlt, ?_⟩
  refine decodeWord_of ((fields20 e0).trans ?_) hw
  simp only [decodeMajor20, e1, e2, e3, e4, e5, e6, if_true, and_self]

theorem mpopc (d a : Nat) : Statement (.mpopc d a) := by
  intro wd hw h
  have hb : (decide (d < 32) && decide (a < 32) && decide (a ≤ 7)) = true := hw
  have h2 : some (0x80000005 + put d 21 + put a 16) = some wd := h
  have he := (Option.some.inj h2).symm
  simp only [Bool.and_eq_true, decide_eq_true_eq] at hb
  obtain ⟨⟨hb0, hb1⟩, hb2⟩ := hb
  obtain ⟨hlt, e0, e1, e2, e3, e4, e5, e6⟩ := shape5 wd 0x20 d a 0 0 0 5 (by rw [he]; first | done | (simp only [put]; done) | (simp only [put]; omega)) (by decide) (by assumption) (by assumption) (by decide) (by decide) (by decide) (by decide)
  refine ⟨hlt, ?_⟩
  refine decodeWord_of ((fields20 e0).trans ?_) hw
  simp only [decodeMajor20, e1, e2, e3, e4, e5, e6, if_true, and_self]

theorem mfirst (d a : Nat) : Statement (.mfirst d a) := by
  intro wd hw h
  have hb : (decide (d < 32) && decide (a < 32) && decide (a ≤ 7)) = true := hw
  have h2 : some (0x80000006 + put d 21 + put a 16) = some wd := h
  have he := (Option.some.inj h2).symm
  simp only [Bool.and_eq_true, decide_eq_true_eq] at hb
  obtain ⟨⟨hb0, hb1⟩, hb2⟩ := hb
  obtain ⟨hlt, e0, e1, e2, e3, e4, e5, e6⟩ := shape5 wd 0x20 d a 0 0 0 6 (by rw [he]; first | done | (simp only [put]; done) | (simp only [put]; omega)) (by decide) (by assumption) (by assumption) (by decide) (by decide) (by decide) (by decide)
  refine ⟨hlt, ?_⟩
  refine decodeWord_of ((fields20 e0).trans ?_) hw
  simp only [decodeMajor20, e1, e2, e3, e4, e5, e6, if_true, and_self]

theorem vmerge (d a b m : Nat) : Statement (.vmerge d a b m) := by
  intro wd hw h
  have hb : (decide (d < 32) && decide (a < 32) && decide (b < 32) && decide (m < 8) && decide (1 ≤ m)) = true := hw
  have h2 : some (0x84000000 + put d 21 + put a 16 + put b 11 + put m 3) = some wd := h
  have he := (Option.some.inj h2).symm
  simp only [Bool.and_eq_true, decide_eq_true_eq] at hb
  obtain ⟨⟨⟨⟨hb0, hb1⟩, hb2⟩, hb3⟩, hb4⟩ := hb
  obtain ⟨hlt, e0, e1, e2, e3, e4, e5, e6⟩ := shape5 wd 0x21 d a b 0 m 0 (by rw [he]; first | done | (simp only [put]; done) | (simp only [put]; omega)) (by decide) (by assumption) (by assumption) (by assumption) (by decide) (by assumption) (by decide)
  refine ⟨hlt, ?_⟩
  refine decodeWord_of ((fields21 e0).trans ?_) hw
  simp only [decodeMajor21, e1, e2, e3, e4, e5, e6, if_true]

theorem vmv (d a m : Nat) : Statement (.vmv d a m) := by
  intro wd hw h
  have hb : (decide (d < 32) && decide (a < 32) && decide (m < 8)) = true := hw
  have h2 : some (0x84000001 + put d 21 + put a 16 + put m 3) = some wd := h
  have he := (Option.some.inj h2).symm
  simp only [Bool.and_eq_true, decide_eq_true_eq] at hb
  obtain ⟨⟨hb0, hb1⟩, hb2⟩ := hb
  obtain ⟨hlt, e0, e1, e2, e3, e4, e5, e6⟩ := shape5 wd 0x21 d a 0 0 m 1 (by rw [he]; first | done | (simp only [put]; done) | (simp only [put]; omega)) (by decide) (by assumption) (by assumption) (by decide) (by decide) (by assumption) (by decide)
  refine ⟨hlt, ?_⟩
  refine decodeWord_of ((fields21 e0).trans ?_) hw
  simp only [decodeMajor21, e1, e2, e3, e4, e5, e6, if_true, and_self]

theorem vbcast (d b m : Nat) : Statement (.vbcast d b m) := by
  intro wd hw h
  have hb : (decide (d < 32) && decide (b < 32) && decide (m < 8)) = true := hw
  have h2 : some (0x84000002 + put d 21 + put b 11 + put m 3) = some wd := h
  have he := (Option.some.inj h2).symm
  simp only [Bool.and_eq_true, decide_eq_true_eq] at hb
  obtain ⟨⟨hb0, hb1⟩, hb2⟩ := hb
  obtain ⟨hlt, e0, e1, e2, e3, e4, e5, e6⟩ := shape5 wd 0x21 d 0 b 0 m 2 (by rw [he]; first | done | (simp only [put]; done) | (simp only [put]; omega)) (by decide) (by assumption) (by decide) (by assumption) (by decide) (by assumption) (by decide)
  refine ⟨hlt, ?_⟩
  refine decodeWord_of ((fields21 e0).trans ?_) hw
  simp only [decodeMajor21, e1, e2, e3, e4, e5, e6, if_true, and_self]

theorem vext (d a b : Nat) : Statement (.vext d a b) := by
  intro wd hw h
  have hb : (decide (d < 32) && decide (a < 32) && decide (b < 32)) = true := hw
  have h2 : some (0x84000003 + put d 21 + put a 16 + put b 11) = some wd := h
  have he := (Option.some.inj h2).symm
  simp only [Bool.and_eq_true, decide_eq_true_eq] at hb
  obtain ⟨⟨hb0, hb1⟩, hb2⟩ := hb
  obtain ⟨hlt, e0, e1, e2, e3, e4, e5, e6⟩ := shape5 wd 0x21 d a b 0 0 3 (by rw [he]; first | done | (simp only [put]; done) | (simp only [put]; omega)) (by decide) (by assumption) (by assumption) (by assumption) (by decide) (by decide) (by decide)
  refine ⟨hlt, ?_⟩
  refine decodeWord_of ((fields21 e0).trans ?_) hw
  simp only [decodeMajor21, e1, e2, e3, e4, e5, e6, if_true, and_self]

theorem vcvt (d a f m : Nat) : Statement (.vcvt d a f m) := by
  intro wd hw h
  have hb : (decide (d < 32) && decide (a < 32) && decide (f < 32) && decide (m < 8)) = true := hw
  have h2 : some (0x84000004 + put d 21 + put a 16 + put f 6 + put m 3) = some wd := h
  have he := (Option.some.inj h2).symm
  simp only [Bool.and_eq_true, decide_eq_true_eq] at hb
  obtain ⟨⟨⟨hb0, hb1⟩, hb2⟩, hb3⟩ := hb
  obtain ⟨hlt, e0, e1, e2, e3, e4, e5, e6⟩ := shape5 wd 0x21 d a 0 f m 4 (by rw [he]; first | done | (simp only [put]; done) | (simp only [put]; omega)) (by decide) (by assumption) (by assumption) (by decide) (by assumption) (by assumption) (by decide)
  refine ⟨hlt, ?_⟩
  refine decodeWord_of ((fields21 e0).trans ?_) hw
  simp only [decodeMajor21, e1, e2, e3, e4, e5, e6, if_true]

theorem vclass (d a f m : Nat) : Statement (.vclass d a f m) := by
  intro wd hw h
  have hb : (decide (d < 32) && decide (a < 32) && decide (f < 32) && decide (m < 8)) = true := hw
  have h2 : some (0x84000005 + put d 21 + put a 16 + put f 6 + put m 3) = some wd := h
  have he := (Option.some.inj h2).symm
  simp only [Bool.and_eq_true, decide_eq_true_eq] at hb
  obtain ⟨⟨⟨hb0, hb1⟩, hb2⟩, hb3⟩ := hb
  obtain ⟨hlt, e0, e1, e2, e3, e4, e5, e6⟩ := shape5 wd 0x21 d a 0 f m 5 (by rw [he]; first | done | (simp only [put]; done) | (simp only [put]; omega)) (by decide) (by assumption) (by assumption) (by decide) (by assumption) (by assumption) (by decide)
  refine ⟨hlt, ?_⟩
  refine decodeWord_of ((fields21 e0).trans ?_) hw
  simp only [decodeMajor21, e1, e2, e3, e4, e5, e6, if_true]

theorem vrecpe (d a f m : Nat) : Statement (.vrecpe d a f m) := by
  intro wd hw h
  have hb : (decide (d < 32) && decide (a < 32) && decide (f < 32) && decide (m < 8)) = true := hw
  have h2 : some (0x84000006 + put d 21 + put a 16 + put f 6 + put m 3) = some wd := h
  have he := (Option.some.inj h2).symm
  simp only [Bool.and_eq_true, decide_eq_true_eq] at hb
  obtain ⟨⟨⟨hb0, hb1⟩, hb2⟩, hb3⟩ := hb
  obtain ⟨hlt, e0, e1, e2, e3, e4, e5, e6⟩ := shape5 wd 0x21 d a 0 f m 6 (by rw [he]; first | done | (simp only [put]; done) | (simp only [put]; omega)) (by decide) (by assumption) (by assumption) (by decide) (by assumption) (by assumption) (by decide)
  refine ⟨hlt, ?_⟩
  refine decodeWord_of ((fields21 e0).trans ?_) hw
  simp only [decodeMajor21, e1, e2, e3, e4, e5, e6, if_true]

theorem vexp2e (d a f m : Nat) : Statement (.vexp2e d a f m) := by
  intro wd hw h
  have hb : (decide (d < 32) && decide (a < 32) && decide (f < 32) && decide (m < 8)) = true := hw
  have h2 : some (0x84000007 + put d 21 + put a 16 + put f 6 + put m 3) = some wd := h
  have he := (Option.some.inj h2).symm
  simp only [Bool.and_eq_true, decide_eq_true_eq] at hb
  obtain ⟨⟨⟨hb0, hb1⟩, hb2⟩, hb3⟩ := hb
  obtain ⟨hlt, e0, e1, e2, e3, e4, e5, e6⟩ := shape5 wd 0x21 d a 0 f m 7 (by rw [he]; first | done | (simp only [put]; done) | (simp only [put]; omega)) (by decide) (by assumption) (by assumption) (by decide) (by assumption) (by assumption) (by decide)
  refine ⟨hlt, ?_⟩
  refine decodeWord_of ((fields21 e0).trans ?_) hw
  simp only [decodeMajor21, e1, e2, e3, e4, e5, e6, if_true]

theorem vsadd (d a b f m : Nat) : Statement (.vsadd d a b f m) := by
  intro wd hw h
  have hb : (decide (d < 32) && decide (a < 32) && decide (b < 32) && decide (f < 32) && decide (m < 8)) = true := hw
  have h2 : some (0x88000000 + put d 21 + put a 16 + put b 11 + put f 6 + put m 3) = some wd := h
  have he := (Option.some.inj h2).symm
  simp only [Bool.and_eq_true, decide_eq_true_eq] at hb
  obtain ⟨⟨⟨⟨hb0, hb1⟩, hb2⟩, hb3⟩, hb4⟩ := hb
  obtain ⟨hlt, e0, e1, e2, e3, e4, e5, e6⟩ := shape5 wd 0x22 d a b f m 0 (by rw [he]; first | done | (simp only [put]; done) | (simp only [put]; omega)) (by decide) (by assumption) (by assumption) (by assumption) (by assumption) (by assumption) (by decide)
  refine ⟨hlt, ?_⟩
  refine decodeWord_of ((fields22 e0).trans ?_) hw
  simp only [decodeMajor22, e1, e2, e3, e4, e5, e6]

theorem vssub (d a b f m : Nat) : Statement (.vssub d a b f m) := by
  intro wd hw h
  have hb : (decide (d < 32) && decide (a < 32) && decide (b < 32) && decide (f < 32) && decide (m < 8)) = true := hw
  have h2 : some (0x88000001 + put d 21 + put a 16 + put b 11 + put f 6 + put m 3) = some wd := h
  have he := (Option.some.inj h2).symm
  simp only [Bool.and_eq_true, decide_eq_true_eq] at hb
  obtain ⟨⟨⟨⟨hb0, hb1⟩, hb2⟩, hb3⟩, hb4⟩ := hb
  obtain ⟨hlt, e0, e1, e2, e3, e4, e5, e6⟩ := shape5 wd 0x22 d a b f m 1 (by rw [he]; first | done | (simp only [put]; done) | (simp only [put]; omega)) (by decide) (by assumption) (by assumption) (by assumption) (by assumption) (by assumption) (by decide)
  refine ⟨hlt, ?_⟩
  refine decodeWord_of ((fields22 e0).trans ?_) hw
  simp only [decodeMajor22, e1, e2, e3, e4, e5, e6]

theorem vsmul (d a b f m : Nat) : Statement (.vsmul d a b f m) := by
  intro wd hw h
  have hb : (decide (d < 32) && decide (a < 32) && decide (b < 32) && decide (f < 32) && decide (m < 8)) = true := hw
  have h2 : some (0x88000002 + put d 21 + put a 16 + put b 11 + put f 6 + put m 3) = some wd := h
  have he := (Option.some.inj h2).symm
  simp only [Bool.and_eq_true, decide_eq_true_eq] at hb
  obtain ⟨⟨⟨⟨hb0, hb1⟩, hb2⟩, hb3⟩, hb4⟩ := hb
  obtain ⟨hlt, e0, e1, e2, e3, e4, e5, e6⟩ := shape5 wd 0x22 d a b f m 2 (by rw [he]; first | done | (simp only [put]; done) | (simp only [put]; omega)) (by decide) (by assumption) (by assumption) (by assumption) (by assumption) (by assumption) (by decide)
  refine ⟨hlt, ?_⟩
  refine decodeWord_of ((fields22 e0).trans ?_) hw
  simp only [decodeMajor22, e1, e2, e3, e4, e5, e6]

theorem vsmacc (d a b f m : Nat) : Statement (.vsmacc d a b f m) := by
  intro wd hw h
  have hb : (decide (d < 32) && decide (a < 32) && decide (b < 32) && decide (f < 32) && decide (m < 8)) = true := hw
  have h2 : some (0x88000003 + put d 21 + put a 16 + put b 11 + put f 6 + put m 3) = some wd := h
  have he := (Option.some.inj h2).symm
  simp only [Bool.and_eq_true, decide_eq_true_eq] at hb
  obtain ⟨⟨⟨⟨hb0, hb1⟩, hb2⟩, hb3⟩, hb4⟩ := hb
  obtain ⟨hlt, e0, e1, e2, e3, e4, e5, e6⟩ := shape5 wd 0x22 d a b f m 3 (by rw [he]; first | done | (simp only [put]; done) | (simp only [put]; omega)) (by decide) (by assumption) (by assumption) (by assumption) (by assumption) (by assumption) (by decide)
  refine ⟨hlt, ?_⟩
  refine decodeWord_of ((fields22 e0).trans ?_) hw
  simp only [decodeMajor22, e1, e2, e3, e4, e5, e6]

theorem vssra (d a b f m : Nat) : Statement (.vssra d a b f m) := by
  intro wd hw h
  have hb : (decide (d < 32) && decide (a < 32) && decide (b < 32) && decide (f < 32) && decide (m < 8)) = true := hw
  have h2 : some (0x88000004 + put d 21 + put a 16 + put b 11 + put f 6 + put m 3) = some wd := h
  have he := (Option.some.inj h2).symm
  simp only [Bool.and_eq_true, decide_eq_true_eq] at hb
  obtain ⟨⟨⟨⟨hb0, hb1⟩, hb2⟩, hb3⟩, hb4⟩ := hb
  obtain ⟨hlt, e0, e1, e2, e3, e4, e5, e6⟩ := shape5 wd 0x22 d a b f m 4 (by rw [he]; first | done | (simp only [put]; done) | (simp only [put]; omega)) (by decide) (by assumption) (by assumption) (by assumption) (by assumption) (by assumption) (by decide)
  refine ⟨hlt, ?_⟩
  refine decodeWord_of ((fields22 e0).trans ?_) hw
  simp only [decodeMajor22, e1, e2, e3, e4, e5, e6]

theorem vssrl (d a b f m : Nat) : Statement (.vssrl d a b f m) := by
  intro wd hw h
  have hb : (decide (d < 32) && decide (a < 32) && decide (b < 32) && decide (f < 32) && decide (m < 8)) = true := hw
  have h2 : some (0x88000005 + put d 21 + put a 16 + put b 11 + put f 6 + put m 3) = some wd := h
  have he := (Option.some.inj h2).symm
  simp only [Bool.and_eq_true, decide_eq_true_eq] at hb
  obtain ⟨⟨⟨⟨hb0, hb1⟩, hb2⟩, hb3⟩, hb4⟩ := hb
  obtain ⟨hlt, e0, e1, e2, e3, e4, e5, e6⟩ := shape5 wd 0x22 d a b f m 5 (by rw [he]; first | done | (simp only [put]; done) | (simp only [put]; omega)) (by decide) (by assumption) (by assumption) (by assumption) (by assumption) (by assumption) (by decide)
  refine ⟨hlt, ?_⟩
  refine decodeWord_of ((fields22 e0).trans ?_) hw
  simp only [decodeMajor22, e1, e2, e3, e4, e5, e6]

theorem vnclip (d a b f m : Nat) : Statement (.vnclip d a b f m) := by
  intro wd hw h
  have hb : (decide (d < 32) && decide (a < 32) && decide (b < 32) && decide (f < 32) && decide (m < 8)) = true := hw
  have h2 : some (0x88000006 + put d 21 + put a 16 + put b 11 + put f 6 + put m 3) = some wd := h
  have he := (Option.some.inj h2).symm
  simp only [Bool.and_eq_true, decide_eq_true_eq] at hb
  obtain ⟨⟨⟨⟨hb0, hb1⟩, hb2⟩, hb3⟩, hb4⟩ := hb
  obtain ⟨hlt, e0, e1, e2, e3, e4, e5, e6⟩ := shape5 wd 0x22 d a b f m 6 (by rw [he]; first | done | (simp only [put]; done) | (simp only [put]; omega)) (by decide) (by assumption) (by assumption) (by assumption) (by assumption) (by assumption) (by decide)
  refine ⟨hlt, ?_⟩
  refine decodeWord_of ((fields22 e0).trans ?_) hw
  simp only [decodeMajor22, e1, e2, e3, e4, e5, e6]

theorem vavg (d a b f m : Nat) : Statement (.vavg d a b f m) := by
  intro wd hw h
  have hb : (decide (d < 32) && decide (a < 32) && decide (b < 32) && decide (f < 32) && decide (m < 8)) = true := hw
  have h2 : some (0x88000007 + put d 21 + put a 16 + put b 11 + put f 6 + put m 3) = some wd := h
  have he := (Option.some.inj h2).symm
  simp only [Bool.and_eq_true, decide_eq_true_eq] at hb
  obtain ⟨⟨⟨⟨hb0, hb1⟩, hb2⟩, hb3⟩, hb4⟩ := hb
  obtain ⟨hlt, e0, e1, e2, e3, e4, e5, e6⟩ := shape5 wd 0x22 d a b f m 7 (by rw [he]; first | done | (simp only [put]; done) | (simp only [put]; omega)) (by decide) (by assumption) (by assumption) (by assumption) (by assumption) (by assumption) (by decide)
  refine ⟨hlt, ?_⟩
  refine decodeWord_of ((fields22 e0).trans ?_) hw
  simp only [decodeMajor22, e1, e2, e3, e4, e5, e6]

theorem vsaddS (d a b f m : Nat) : Statement (.vsaddS d a b f m) := by
  intro wd hw h
  have hb : (decide (d < 32) && decide (a < 32) && decide (b < 32) && decide (f < 32) && decide (m < 8)) = true := hw
  have h2 : some (0x8c000000 + put d 21 + put a 16 + put b 11 + put f 6 + put m 3) = some wd := h
  have he := (Option.some.inj h2).symm
  simp only [Bool.and_eq_true, decide_eq_true_eq] at hb
  obtain ⟨⟨⟨⟨hb0, hb1⟩, hb2⟩, hb3⟩, hb4⟩ := hb
  obtain ⟨hlt, e0, e1, e2, e3, e4, e5, e6⟩ := shape5 wd 0x23 d a b f m 0 (by rw [he]; first | done | (simp only [put]; done) | (simp only [put]; omega)) (by decide) (by assumption) (by assumption) (by assumption) (by assumption) (by assumption) (by decide)
  refine ⟨hlt, ?_⟩
  refine decodeWord_of ((fields23 e0).trans ?_) hw
  simp only [decodeMajor23, e1, e2, e3, e4, e5, e6]

theorem vssubS (d a b f m : Nat) : Statement (.vssubS d a b f m) := by
  intro wd hw h
  have hb : (decide (d < 32) && decide (a < 32) && decide (b < 32) && decide (f < 32) && decide (m < 8)) = true := hw
  have h2 : some (0x8c000001 + put d 21 + put a 16 + put b 11 + put f 6 + put m 3) = some wd := h
  have he := (Option.some.inj h2).symm
  simp only [Bool.and_eq_true, decide_eq_true_eq] at hb
  obtain ⟨⟨⟨⟨hb0, hb1⟩, hb2⟩, hb3⟩, hb4⟩ := hb
  obtain ⟨hlt, e0, e1, e2, e3, e4, e5, e6⟩ := shape5 wd 0x23 d a b f m 1 (by rw [he]; first | done | (simp only [put]; done) | (simp only [put]; omega)) (by decide) (by assumption) (by assumption) (by assumption) (by assumption) (by assumption) (by decide)
  refine ⟨hlt, ?_⟩
  refine decodeWord_of ((fields23 e0).trans ?_) hw
  simp only [decodeMajor23, e1, e2, e3, e4, e5, e6]

theorem vsmulS (d a b f m : Nat) : Statement (.vsmulS d a b f m) := by
  intro wd hw h
  have hb : (decide (d < 32) && decide (a < 32) && decide (b < 32) && decide (f < 32) && decide (m < 8)) = true := hw
  have h2 : some (0x8c000002 + put d 21 + put a 16 + put b 11 + put f 6 + put m 3) = some wd := h
  have he := (Option.some.inj h2).symm
  simp only [Bool.and_eq_true, decide_eq_true_eq] at hb
  obtain ⟨⟨⟨⟨hb0, hb1⟩, hb2⟩, hb3⟩, hb4⟩ := hb
  obtain ⟨hlt, e0, e1, e2, e3, e4, e5, e6⟩ := shape5 wd 0x23 d a b f m 2 (by rw [he]; first | done | (simp only [put]; done) | (simp only [put]; omega)) (by decide) (by assumption) (by assumption) (by assumption) (by assumption) (by assumption) (by decide)
  refine ⟨hlt, ?_⟩
  refine decodeWord_of ((fields23 e0).trans ?_) hw
  simp only [decodeMajor23, e1, e2, e3, e4, e5, e6]

theorem vsmaccS (d a b f m : Nat) : Statement (.vsmaccS d a b f m) := by
  intro wd hw h
  have hb : (decide (d < 32) && decide (a < 32) && decide (b < 32) && decide (f < 32) && decide (m < 8)) = true := hw
  have h2 : some (0x8c000003 + put d 21 + put a 16 + put b 11 + put f 6 + put m 3) = some wd := h
  have he := (Option.some.inj h2).symm
  simp only [Bool.and_eq_true, decide_eq_true_eq] at hb
  obtain ⟨⟨⟨⟨hb0, hb1⟩, hb2⟩, hb3⟩, hb4⟩ := hb
  obtain ⟨hlt, e0, e1, e2, e3, e4, e5, e6⟩ := shape5 wd 0x23 d a b f m 3 (by rw [he]; first | done | (simp only [put]; done) | (simp only [put]; omega)) (by decide) (by assumption) (by assumption) (by assumption) (by assumption) (by assumption) (by decide)
  refine ⟨hlt, ?_⟩
  refine decodeWord_of ((fields23 e0).trans ?_) hw
  simp only [decodeMajor23, e1, e2, e3, e4, e5, e6]

theorem vssraS (d a b f m : Nat) : Statement (.vssraS d a b f m) := by
  intro wd hw h
  have hb : (decide (d < 32) && decide (a < 32) && decide (b < 32) && decide (f < 32) && decide (m < 8)) = true := hw
  have h2 : some (0x8c000004 + put d 21 + put a 16 + put b 11 + put f 6 + put m 3) = some wd := h
  have he := (Option.some.inj h2).symm
  simp only [Bool.and_eq_true, decide_eq_true_eq] at hb
  obtain ⟨⟨⟨⟨hb0, hb1⟩, hb2⟩, hb3⟩, hb4⟩ := hb
  obtain ⟨hlt, e0, e1, e2, e3, e4, e5, e6⟩ := shape5 wd 0x23 d a b f m 4 (by rw [he]; first | done | (simp only [put]; done) | (simp only [put]; omega)) (by decide) (by assumption) (by assumption) (by assumption) (by assumption) (by assumption) (by decide)
  refine ⟨hlt, ?_⟩
  refine decodeWord_of ((fields23 e0).trans ?_) hw
  simp only [decodeMajor23, e1, e2, e3, e4, e5, e6]

theorem vssrlS (d a b f m : Nat) : Statement (.vssrlS d a b f m) := by
  intro wd hw h
  have hb : (decide (d < 32) && decide (a < 32) && decide (b < 32) && decide (f < 32) && decide (m < 8)) = true := hw
  have h2 : some (0x8c000005 + put d 21 + put a 16 + put b 11 + put f 6 + put m 3) = some wd := h
  have he := (Option.some.inj h2).symm
  simp only [Bool.and_eq_true, decide_eq_true_eq] at hb
  obtain ⟨⟨⟨⟨hb0, hb1⟩, hb2⟩, hb3⟩, hb4⟩ := hb
  obtain ⟨hlt, e0, e1, e2, e3, e4, e5, e6⟩ := shape5 wd 0x23 d a b f m 5 (by rw [he]; first | done | (simp only [put]; done) | (simp only [put]; omega)) (by decide) (by assumption) (by assumption) (by assumption) (by assumption) (by assumption) (by decide)
  refine ⟨hlt, ?_⟩
  refine decodeWord_of ((fields23 e0).trans ?_) hw
  simp only [decodeMajor23, e1, e2, e3, e4, e5, e6]

theorem vnclipS (d a b f m : Nat) : Statement (.vnclipS d a b f m) := by
  intro wd hw h
  have hb : (decide (d < 32) && decide (a < 32) && decide (b < 32) && decide (f < 32) && decide (m < 8)) = true := hw
  have h2 : some (0x8c000006 + put d 21 + put a 16 + put b 11 + put f 6 + put m 3) = some wd := h
  have he := (Option.some.inj h2).symm
  simp only [Bool.and_eq_true, decide_eq_true_eq] at hb
  obtain ⟨⟨⟨⟨hb0, hb1⟩, hb2⟩, hb3⟩, hb4⟩ := hb
  obtain ⟨hlt, e0, e1, e2, e3, e4, e5, e6⟩ := shape5 wd 0x23 d a b f m 6 (by rw [he]; first | done | (simp only [put]; done) | (simp only [put]; omega)) (by decide) (by assumption) (by assumption) (by assumption) (by assumption) (by assumption) (by decide)
  refine ⟨hlt, ?_⟩
  refine decodeWord_of ((fields23 e0).trans ?_) hw
  simp only [decodeMajor23, e1, e2, e3, e4, e5, e6]

theorem vavgS (d a b f m : Nat) : Statement (.vavgS d a b f m) := by
  intro wd hw h
  have hb : (decide (d < 32) && decide (a < 32) && decide (b < 32) && decide (f < 32) && decide (m < 8)) = true := hw
  have h2 : some (0x8c000007 + put d 21 + put a 16 + put b 11 + put f 6 + put m 3) = some wd := h
  have he := (Option.some.inj h2).symm
  simp only [Bool.and_eq_true, decide_eq_true_eq] at hb
  obtain ⟨⟨⟨⟨hb0, hb1⟩, hb2⟩, hb3⟩, hb4⟩ := hb
  obtain ⟨hlt, e0, e1, e2, e3, e4, e5, e6⟩ := shape5 wd 0x23 d a b f m 7 (by rw [he]; first | done | (simp only [put]; done) | (simp only [put]; omega)) (by decide) (by assumption) (by assumption) (by assumption) (by assumption) (by assumption) (by decide)
  refine ⟨hlt, ?_⟩
  refine decodeWord_of ((fields23 e0).trans ?_) hw
  simp only [decodeMajor23, e1, e2, e3, e4, e5, e6]

theorem vredsumO (d a b f m : Nat) : Statement (.vredsumO d a b f m) := by
  intro wd hw h
  have hb : (decide (d < 32) && decide (a < 32) && decide (b < 32) && decide (f < 32) && decide (m < 8)) = true := hw
  have h2 : some (0x90000000 + put d 21 + put a 16 + put b 11 + put f 6 + put m 3) = some wd := h
  have he := (Option.some.inj h2).symm
  simp only [Bool.and_eq_true, decide_eq_true_eq] at hb
  obtain ⟨⟨⟨⟨hb0, hb1⟩, hb2⟩, hb3⟩, hb4⟩ := hb
  obtain ⟨hlt, e0, e1, e2, e3, e4, e5, e6⟩ := shape5 wd 0x24 d a b f m 0 (by rw [he]; first | done | (simp only [put]; done) | (simp only [put]; omega)) (by decide) (by assumption) (by assumption) (by assumption) (by assumption) (by assumption) (by decide)
  refine ⟨hlt, ?_⟩
  refine decodeWord_of ((fields24 e0).trans ?_) hw
  simp only [decodeMajor24, e1, e2, e3, e4, e5, e6]

theorem vredsumU (d a b f m : Nat) : Statement (.vredsumU d a b f m) := by
  intro wd hw h
  have hb : (decide (d < 32) && decide (a < 32) && decide (b < 32) && decide (f < 32) && decide (m < 8)) = true := hw
  have h2 : some (0x90000001 + put d 21 + put a 16 + put b 11 + put f 6 + put m 3) = some wd := h
  have he := (Option.some.inj h2).symm
  simp only [Bool.and_eq_true, decide_eq_true_eq] at hb
  obtain ⟨⟨⟨⟨hb0, hb1⟩, hb2⟩, hb3⟩, hb4⟩ := hb
  obtain ⟨hlt, e0, e1, e2, e3, e4, e5, e6⟩ := shape5 wd 0x24 d a b f m 1 (by rw [he]; first | done | (simp only [put]; done) | (simp only [put]; omega)) (by decide) (by assumption) (by assumption) (by assumption) (by assumption) (by assumption) (by decide)
  refine ⟨hlt, ?_⟩
  refine decodeWord_of ((fields24 e0).trans ?_) hw
  simp only [decodeMajor24, e1, e2, e3, e4, e5, e6]

theorem vredmin (d a b f m : Nat) : Statement (.vredmin d a b f m) := by
  intro wd hw h
  have hb : (decide (d < 32) && decide (a < 32) && decide (b < 32) && decide (f < 32) && decide (m < 8)) = true := hw
  have h2 : some (0x90000002 + put d 21 + put a 16 + put b 11 + put f 6 + put m 3) = some wd := h
  have he := (Option.some.inj h2).symm
  simp only [Bool.and_eq_true, decide_eq_true_eq] at hb
  obtain ⟨⟨⟨⟨hb0, hb1⟩, hb2⟩, hb3⟩, hb4⟩ := hb
  obtain ⟨hlt, e0, e1, e2, e3, e4, e5, e6⟩ := shape5 wd 0x24 d a b f m 2 (by rw [he]; first | done | (simp only [put]; done) | (simp only [put]; omega)) (by decide) (by assumption) (by assumption) (by assumption) (by assumption) (by assumption) (by decide)
  refine ⟨hlt, ?_⟩
  refine decodeWord_of ((fields24 e0).trans ?_) hw
  simp only [decodeMajor24, e1, e2, e3, e4, e5, e6]

theorem vredmax (d a b f m : Nat) : Statement (.vredmax d a b f m) := by
  intro wd hw h
  have hb : (decide (d < 32) && decide (a < 32) && decide (b < 32) && decide (f < 32) && decide (m < 8)) = true := hw
  have h2 : some (0x90000003 + put d 21 + put a 16 + put b 11 + put f 6 + put m 3) = some wd := h
  have he := (Option.some.inj h2).symm
  simp only [Bool.and_eq_true, decide_eq_true_eq] at hb
  obtain ⟨⟨⟨⟨hb0, hb1⟩, hb2⟩, hb3⟩, hb4⟩ := hb
  obtain ⟨hlt, e0, e1, e2, e3, e4, e5, e6⟩ := shape5 wd 0x24 d a b f m 3 (by rw [he]; first | done | (simp only [put]; done) | (simp only [put]; omega)) (by decide) (by assumption) (by assumption) (by assumption) (by assumption) (by assumption) (by decide)
  refine ⟨hlt, ?_⟩
  refine decodeWord_of ((fields24 e0).trans ?_) hw
  simp only [decodeMajor24, e1, e2, e3, e4, e5, e6]

theorem vredand (d a b f m : Nat) : Statement (.vredand d a b f m) := by
  intro wd hw h
  have hb : (decide (d < 32) && decide (a < 32) && decide (b < 32) && decide (f < 32) && decide (m < 8)) = true := hw
  have h2 : some (0x90000004 + put d 21 + put a 16 + put b 11 + put f 6 + put m 3) = some wd := h
  have he := (Option.some.inj h2).symm
  simp only [Bool.and_eq_true, decide_eq_true_eq] at hb
  obtain ⟨⟨⟨⟨hb0, hb1⟩, hb2⟩, hb3⟩, hb4⟩ := hb
  obtain ⟨hlt, e0, e1, e2, e3, e4, e5, e6⟩ := shape5 wd 0x24 d a b f m 4 (by rw [he]; first | done | (simp only [put]; done) | (simp only [put]; omega)) (by decide) (by assumption) (by assumption) (by assumption) (by assumption) (by assumption) (by decide)
  refine ⟨hlt, ?_⟩
  refine decodeWord_of ((fields24 e0).trans ?_) hw
  simp only [decodeMajor24, e1, e2, e3, e4, e5, e6]

theorem vredor (d a b f m : Nat) : Statement (.vredor d a b f m) := by
  intro wd hw h
  have hb : (decide (d < 32) && decide (a < 32) && decide (b < 32) && decide (f < 32) && decide (m < 8)) = true := hw
  have h2 : some (0x90000005 + put d 21 + put a 16 + put b 11 + put f 6 + put m 3) = some wd := h
  have he := (Option.some.inj h2).symm
  simp only [Bool.and_eq_true, decide_eq_true_eq] at hb
  obtain ⟨⟨⟨⟨hb0, hb1⟩, hb2⟩, hb3⟩, hb4⟩ := hb
  obtain ⟨hlt, e0, e1, e2, e3, e4, e5, e6⟩ := shape5 wd 0x24 d a b f m 5 (by rw [he]; first | done | (simp only [put]; done) | (simp only [put]; omega)) (by decide) (by assumption) (by assumption) (by assumption) (by assumption) (by assumption) (by decide)
  refine ⟨hlt, ?_⟩
  refine decodeWord_of ((fields24 e0).trans ?_) hw
  simp only [decodeMajor24, e1, e2, e3, e4, e5, e6]

theorem vredxor (d a b f m : Nat) : Statement (.vredxor d a b f m) := by
  intro wd hw h
  have hb : (decide (d < 32) && decide (a < 32) && decide (b < 32) && decide (f < 32) && decide (m < 8)) = true := hw
  have h2 : some (0x90000006 + put d 21 + put a 16 + put b 11 + put f 6 + put m 3) = some wd := h
  have he := (Option.some.inj h2).symm
  simp only [Bool.and_eq_true, decide_eq_true_eq] at hb
  obtain ⟨⟨⟨⟨hb0, hb1⟩, hb2⟩, hb3⟩, hb4⟩ := hb
  obtain ⟨hlt, e0, e1, e2, e3, e4, e5, e6⟩ := shape5 wd 0x24 d a b f m 6 (by rw [he]; first | done | (simp only [put]; done) | (simp only [put]; omega)) (by decide) (by assumption) (by assumption) (by assumption) (by assumption) (by assumption) (by decide)
  refine ⟨hlt, ?_⟩
  refine decodeWord_of ((fields24 e0).trans ?_) hw
  simp only [decodeMajor24, e1, e2, e3, e4, e5, e6]

theorem vscanO (d a f m : Nat) : Statement (.vscanO d a f m) := by
  intro wd hw h
  have hb : (decide (d < 32) && decide (a < 32) && decide (f < 32) && decide (m < 8)) = true := hw
  have h2 : some (0x94000000 + put d 21 + put a 16 + put f 6 + put m 3) = some wd := h
  have he := (Option.some.inj h2).symm
  simp only [Bool.and_eq_true, decide_eq_true_eq] at hb
  obtain ⟨⟨⟨hb0, hb1⟩, hb2⟩, hb3⟩ := hb
  obtain ⟨hlt, e0, e1, e2, e3, e4, e5, e6⟩ := shape5 wd 0x25 d a 0 f m 0 (by rw [he]; first | done | (simp only [put]; done) | (simp only [put]; omega)) (by decide) (by assumption) (by assumption) (by decide) (by assumption) (by assumption) (by decide)
  refine ⟨hlt, ?_⟩
  refine decodeWord_of ((fields25 e0).trans ?_) hw
  simp only [decodeMajor25, e1, e2, e3, e4, e5, e6, if_true]

theorem vscanFast (d a f m : Nat) : Statement (.vscanFast d a f m) := by
  intro wd hw h
  have hb : (decide (d < 32) && decide (a < 32) && decide (f < 32) && decide (m < 8)) = true := hw
  have h2 : some (0x94000001 + put d 21 + put a 16 + put f 6 + put m 3) = some wd := h
  have he := (Option.some.inj h2).symm
  simp only [Bool.and_eq_true, decide_eq_true_eq] at hb
  obtain ⟨⟨⟨hb0, hb1⟩, hb2⟩, hb3⟩ := hb
  obtain ⟨hlt, e0, e1, e2, e3, e4, e5, e6⟩ := shape5 wd 0x25 d a 0 f m 1 (by rw [he]; first | done | (simp only [put]; done) | (simp only [put]; omega)) (by decide) (by assumption) (by assumption) (by decide) (by assumption) (by assumption) (by decide)
  refine ⟨hlt, ?_⟩
  refine decodeWord_of ((fields25 e0).trans ?_) hw
  simp only [decodeMajor25, e1, e2, e3, e4, e5, e6, if_true]

theorem viota (d a m : Nat) : Statement (.viota d a m) := by
  intro wd hw h
  have hb : (decide (d < 32) && decide (a < 32) && decide (m < 8) && decide (a ≤ 7)) = true := hw
  have h2 : some (0x94000002 + put d 21 + put a 16 + put m 3) = some wd := h
  have he := (Option.some.inj h2).symm
  simp only [Bool.and_eq_true, decide_eq_true_eq] at hb
  obtain ⟨⟨⟨hb0, hb1⟩, hb2⟩, hb3⟩ := hb
  obtain ⟨hlt, e0, e1, e2, e3, e4, e5, e6⟩ := shape5 wd 0x25 d a 0 0 m 2 (by rw [he]; first | done | (simp only [put]; done) | (simp only [put]; omega)) (by decide) (by assumption) (by assumption) (by decide) (by decide) (by assumption) (by decide)
  refine ⟨hlt, ?_⟩
  refine decodeWord_of ((fields25 e0).trans ?_) hw
  simp only [decodeMajor25, e1, e2, e3, e4, e5, e6, if_true, and_self]

theorem vid (d m : Nat) : Statement (.vid d m) := by
  intro wd hw h
  have hb : (decide (d < 32) && decide (m < 8)) = true := hw
  have h2 : some (0x94000003 + put d 21 + put m 3) = some wd := h
  have he := (Option.some.inj h2).symm
  simp only [Bool.and_eq_true, decide_eq_true_eq] at hb
  obtain ⟨hb0, hb1⟩ := hb
  obtain ⟨hlt, e0, e1, e2, e3, e4, e5, e6⟩ := shape5 wd 0x25 d 0 0 0 m 3 (by rw [he]; first | done | (simp only [put]; done) | (simp only [put]; omega)) (by decide) (by assumption) (by decide) (by decide) (by decide) (by assumption) (by decide)
  refine ⟨hlt, ?_⟩
  refine decodeWord_of ((fields25 e0).trans ?_) hw
  simp only [decodeMajor25, e1, e2, e3, e4, e5, e6, if_true, and_self]

theorem rnggen (d a b m : Nat) : Statement (.rnggen d a b m) := by
  intro wd hw h
  have hb : (decide (d < 32) && decide (a < 32) && decide (b < 32) && decide (m < 8)) = true := hw
  have h2 : some (0x94000004 + put d 21 + put a 16 + put b 11 + put m 3) = some wd := h
  have he := (Option.some.inj h2).symm
  simp only [Bool.and_eq_true, decide_eq_true_eq] at hb
  obtain ⟨⟨⟨hb0, hb1⟩, hb2⟩, hb3⟩ := hb
  obtain ⟨hlt, e0, e1, e2, e3, e4, e5, e6⟩ := shape5 wd 0x25 d a b 0 m 4 (by rw [he]; first | done | (simp only [put]; done) | (simp only [put]; omega)) (by decide) (by assumption) (by assumption) (by assumption) (by decide) (by assumption) (by decide)
  refine ⟨hlt, ?_⟩
  refine decodeWord_of ((fields25 e0).trans ?_) hw
  simp only [decodeMajor25, e1, e2, e3, e4, e5, e6, if_true]

theorem vcompress (d a m : Nat) : Statement (.vcompress d a m) := by
  intro wd hw h
  have hb : (decide (d < 32) && decide (a < 32) && decide (m < 8) && decide (1 ≤ m)) = true := hw
  have h2 : some (0x94000005 + put d 21 + put a 16 + put m 3) = some wd := h
  have he := (Option.some.inj h2).symm
  simp only [Bool.and_eq_true, decide_eq_true_eq] at hb
  obtain ⟨⟨⟨hb0, hb1⟩, hb2⟩, hb3⟩ := hb
  obtain ⟨hlt, e0, e1, e2, e3, e4, e5, e6⟩ := shape5 wd 0x25 d a 0 0 m 5 (by rw [he]; first | done | (simp only [put]; done) | (simp only [put]; omega)) (by decide) (by assumption) (by assumption) (by decide) (by decide) (by assumption) (by decide)
  refine ⟨hlt, ?_⟩
  refine decodeWord_of ((fields25 e0).trans ?_) hw
  simp only [decodeMajor25, e1, e2, e3, e4, e5, e6, if_true, and_self]

theorem vexpand (d a m : Nat) : Statement (.vexpand d a m) := by
  intro wd hw h
  have hb : (decide (d < 32) && decide (a < 32) && decide (m < 8) && decide (1 ≤ m)) = true := hw
  have h2 : some (0x94000006 + put d 21 + put a 16 + put m 3) = some wd := h
  have he := (Option.some.inj h2).symm
  simp only [Bool.and_eq_true, decide_eq_true_eq] at hb
  obtain ⟨⟨⟨hb0, hb1⟩, hb2⟩, hb3⟩ := hb
  obtain ⟨hlt, e0, e1, e2, e3, e4, e5, e6⟩ := shape5 wd 0x25 d a 0 0 m 6 (by rw [he]; first | done | (simp only [put]; done) | (simp only [put]; omega)) (by decide) (by assumption) (by assumption) (by decide) (by decide) (by assumption) (by decide)
  refine ⟨hlt, ?_⟩
  refine decodeWord_of ((fields25 e0).trans ?_) hw
  simp only [decodeMajor25, e1, e2, e3, e4, e5, e6, if_true, and_self]

theorem vslideup (d a b m : Nat) : Statement (.vslideup d a b m) := by
  intro wd hw h
  have hb : (decide (d < 32) && decide (a < 32) && decide (b < 32) && decide (m < 8)) = true := hw
  have h2 : some (0x98000000 + put d 21 + put a 16 + put b 11 + put m 3) = some wd := h
  have he := (Option.some.inj h2).symm
  simp only [Bool.and_eq_true, decide_eq_true_eq] at hb
  obtain ⟨⟨⟨hb0, hb1⟩, hb2⟩, hb3⟩ := hb
  obtain ⟨hlt, e0, e1, e2, e3, e4, e5, e6⟩ := shape5 wd 0x26 d a b 0 m 0 (by rw [he]; first | done | (simp only [put]; done) | (simp only [put]; omega)) (by decide) (by assumption) (by assumption) (by assumption) (by decide) (by assumption) (by decide)
  refine ⟨hlt, ?_⟩
  refine decodeWord_of ((fields26 e0).trans ?_) hw
  simp only [decodeMajor26, e1, e2, e3, e4, e5, e6, if_true]

theorem vslidedn (d a b m : Nat) : Statement (.vslidedn d a b m) := by
  intro wd hw h
  have hb : (decide (d < 32) && decide (a < 32) && decide (b < 32) && decide (m < 8)) = true := hw
  have h2 : some (0x98000001 + put d 21 + put a 16 + put b 11 + put m 3) = some wd := h
  have he := (Option.some.inj h2).symm
  simp only [Bool.and_eq_true, decide_eq_true_eq] at hb
  obtain ⟨⟨⟨hb0, hb1⟩, hb2⟩, hb3⟩ := hb
  obtain ⟨hlt, e0, e1, e2, e3, e4, e5, e6⟩ := shape5 wd 0x26 d a b 0 m 1 (by rw [he]; first | done | (simp only [put]; done) | (simp only [put]; omega)) (by decide) (by assumption) (by assumption) (by assumption) (by decide) (by assumption) (by decide)
  refine ⟨hlt, ?_⟩
  refine decodeWord_of ((fields26 e0).trans ?_) hw
  simp only [decodeMajor26, e1, e2, e3, e4, e5, e6, if_true]

theorem vslide1up (d a b m : Nat) : Statement (.vslide1up d a b m) := by
  intro wd hw h
  have hb : (decide (d < 32) && decide (a < 32) && decide (b < 32) && decide (m < 8)) = true := hw
  have h2 : some (0x98000002 + put d 21 + put a 16 + put b 11 + put m 3) = some wd := h
  have he := (Option.some.inj h2).symm
  simp only [Bool.and_eq_true, decide_eq_true_eq] at hb
  obtain ⟨⟨⟨hb0, hb1⟩, hb2⟩, hb3⟩ := hb
  obtain ⟨hlt, e0, e1, e2, e3, e4, e5, e6⟩ := shape5 wd 0x26 d a b 0 m 2 (by rw [he]; first | done | (simp only [put]; done) | (simp only [put]; omega)) (by decide) (by assumption) (by assumption) (by assumption) (by decide) (by assumption) (by decide)
  refine ⟨hlt, ?_⟩
  refine decodeWord_of ((fields26 e0).trans ?_) hw
  simp only [decodeMajor26, e1, e2, e3, e4, e5, e6, if_true]

theorem vslide1dn (d a b m : Nat) : Statement (.vslide1dn d a b m) := by
  intro wd hw h
  have hb : (decide (d < 32) && decide (a < 32) && decide (b < 32) && decide (m < 8)) = true := hw
  have h2 : some (0x98000003 + put d 21 + put a 16 + put b 11 + put m 3) = some wd := h
  have he := (Option.some.inj h2).symm
  simp only [Bool.and_eq_true, decide_eq_true_eq] at hb
  obtain ⟨⟨⟨hb0, hb1⟩, hb2⟩, hb3⟩ := hb
  obtain ⟨hlt, e0, e1, e2, e3, e4, e5, e6⟩ := shape5 wd 0x26 d a b 0 m 3 (by rw [he]; first | done | (simp only [put]; done) | (simp only [put]; omega)) (by decide) (by assumption) (by assumption) (by assumption) (by decide) (by assumption) (by decide)
  refine ⟨hlt, ?_⟩
  refine decodeWord_of ((fields26 e0).trans ?_) hw
  simp only [decodeMajor26, e1, e2, e3, e4, e5, e6, if_true]

theorem vperm (d a b m : Nat) : Statement (.vperm d a b m) := by
  intro wd hw h
  have hb : (decide (d < 32) && decide (a < 32) && decide (b < 32) && decide (m < 8)) = true := hw
  have h2 : some (0x98000004 + put d 21 + put a 16 + put b 11 + put m 3) = some wd := h
  have he := (Option.some.inj h2).symm
  simp only [Bool.and_eq_true, decide_eq_true_eq] at hb
  obtain ⟨⟨⟨hb0, hb1⟩, hb2⟩, hb3⟩ := hb
  obtain ⟨hlt, e0, e1, e2, e3, e4, e5, e6⟩ := shape5 wd 0x26 d a b 0 m 4 (by rw [he]; first | done | (simp only [put]; done) | (simp only [put]; omega)) (by decide) (by assumption) (by assumption) (by assumption) (by decide) (by assumption) (by decide)
  refine ⟨hlt, ?_⟩
  refine decodeWord_of ((fields26 e0).trans ?_) hw
  simp only [decodeMajor26, e1, e2, e3, e4, e5, e6, if_true]

theorem xchg (d a b : Nat) : Statement (.xchg d a b) := by
  intro wd hw h
  have hb : (decide (d < 32) && decide (a < 32) && decide (b < 32)) = true := hw
  have h2 : some (0x98000006 + put d 21 + put a 16 + put b 11) = some wd := h
  have he := (Option.some.inj h2).symm
  simp only [Bool.and_eq_true, decide_eq_true_eq] at hb
  obtain ⟨⟨hb0, hb1⟩, hb2⟩ := hb
  obtain ⟨hlt, e0, e1, e2, e3, e4, e5, e6⟩ := shape5 wd 0x26 d a b 0 0 6 (by rw [he]; first | done | (simp only [put]; done) | (simp only [put]; omega)) (by decide) (by assumption) (by assumption) (by assumption) (by decide) (by decide) (by decide)
  refine ⟨hlt, ?_⟩
  refine decodeWord_of ((fields26 e0).trans ?_) hw
  simp only [decodeMajor26, e1, e2, e3, e4, e5, e6, if_true, and_self]

theorem vld (d a s m e : Nat) : Statement (.vld d a s m e) := by
  intro wd hw h
  have hb : (decide (d < 32) && decide (a < 32) && decide (s < 8) && decide (m < 8) && decide (e < 8) && decide (e ≤ 4) && (decide (e ≠ 4) || decide (s = 0))) = true := hw
  have h2 : some (0xa0000000 + put d 21 + put a 16 + put s 8 + put m 3 + e) = some wd := h
  have he := (Option.some.inj h2).symm
  simp only [Bool.and_eq_true, decide_eq_true_eq] at hb
  obtain ⟨⟨⟨⟨⟨⟨hb0, hb1⟩, hb2⟩, hb3⟩, hb4⟩, hb5⟩, hb6⟩ := hb
  obtain ⟨hlt, e0, e1, e2, e3, e4, e5, e6, e7⟩ := shape6 wd 0x28 d a 0 s 0 m e (by rw [he]; first | done | (simp only [put]; done) | (simp only [put]; omega)) (by decide) (by assumption) (by assumption) (by decide) (by assumption) (by decide) (by assumption) (by assumption)
  refine ⟨hlt, ?_⟩
  refine decodeWord_of ((fields28 e0).trans ?_) hw
  simp only [decodeMajor28, e1, e2, e3, e4, e5, e6, e7, if_true]

theorem vldu (d a s m e : Nat) : Statement (.vldu d a s m e) := by
  intro wd hw h
  have hb : (decide (d < 32) && decide (a < 32) && decide (s < 8) && decide (m < 8) && decide (e < 8) && decide (e ≤ 4) && (decide (e ≠ 4) || decide (s = 0))) = true := hw
  have h2 : some (0xa0000040 + put d 21 + put a 16 + put s 8 + put m 3 + e) = some wd := h
  have he := (Option.some.inj h2).symm
  simp only [Bool.and_eq_true, decide_eq_true_eq] at hb
  obtain ⟨⟨⟨⟨⟨⟨hb0, hb1⟩, hb2⟩, hb3⟩, hb4⟩, hb5⟩, hb6⟩ := hb
  obtain ⟨hlt, e0, e1, e2, e3, e4, e5, e6, e7⟩ := shape6 wd 0x28 d a 0 s 1 m e (by rw [he]; first | done | (simp only [put]; done) | (simp only [put]; omega)) (by decide) (by assumption) (by assumption) (by decide) (by assumption) (by decide) (by assumption) (by assumption)
  refine ⟨hlt, ?_⟩
  refine decodeWord_of ((fields28 e0).trans ?_) hw
  simp only [decodeMajor28, e1, e2, e3, e4, e5, e6, e7, if_true]

theorem vldf (d a s m e : Nat) : Statement (.vldf d a s m e) := by
  intro wd hw h
  have hb : (decide (d < 32) && decide (a < 32) && decide (s < 8) && decide (m < 8) && decide (e < 8) && decide (e ≤ 4) && (decide (e ≠ 4) || decide (s = 0))) = true := hw
  have h2 : some (0xa0000080 + put d 21 + put a 16 + put s 8 + put m 3 + e) = some wd := h
  have he := (Option.some.inj h2).symm
  simp only [Bool.and_eq_true, decide_eq_true_eq] at hb
  obtain ⟨⟨⟨⟨⟨⟨hb0, hb1⟩, hb2⟩, hb3⟩, hb4⟩, hb5⟩, hb6⟩ := hb
  obtain ⟨hlt, e0, e1, e2, e3, e4, e5, e6, e7⟩ := shape6 wd 0x28 d a 0 s 2 m e (by rw [he]; first | done | (simp only [put]; done) | (simp only [put]; omega)) (by decide) (by assumption) (by assumption) (by decide) (by assumption) (by decide) (by assumption) (by assumption)
  refine ⟨hlt, ?_⟩
  refine decodeWord_of ((fields28 e0).trans ?_) hw
  simp only [decodeMajor28, e1, e2, e3, e4, e5, e6, e7, if_true]

theorem vst (d a s m e : Nat) : Statement (.vst d a s m e) := by
  intro wd hw h
  have hb : (decide (d < 32) && decide (a < 32) && decide (s < 8) && decide (m < 8) && decide (e < 8) && decide (e ≤ 4) && (decide (e ≠ 4) || decide (s = 0))) = true := hw
  have h2 : some (0xa4000000 + put d 21 + put a 16 + put s 8 + put m 3 + e) = some wd := h
  have he := (Option.some.inj h2).symm
  simp only [Bool.and_eq_true, decide_eq_true_eq] at hb
  obtain ⟨⟨⟨⟨⟨⟨hb0, hb1⟩, hb2⟩, hb3⟩, hb4⟩, hb5⟩, hb6⟩ := hb
  obtain ⟨hlt, e0, e1, e2, e3, e4, e5, e6, e7⟩ := shape6 wd 0x29 d a 0 s 0 m e (by rw [he]; first | done | (simp only [put]; done) | (simp only [put]; omega)) (by decide) (by assumption) (by assumption) (by decide) (by assumption) (by decide) (by assumption) (by assumption)
  refine ⟨hlt, ?_⟩
  refine decodeWord_of ((fields29 e0).trans ?_) hw
  simp only [decodeMajor29, e1, e2, e3, e4, e5, e6, e7, if_true]

theorem vstu (d a s m e : Nat) : Statement (.vstu d a s m e) := by
  intro wd hw h
  have hb : (decide (d < 32) && decide (a < 32) && decide (s < 8) && decide (m < 8) && decide (e < 8) && decide (e ≤ 4) && (decide (e ≠ 4) || decide (s = 0))) = true := hw
  have h2 : some (0xa4000040 + put d 21 + put a 16 + put s 8 + put m 3 + e) = some wd := h
  have he := (Option.some.inj h2).symm
  simp only [Bool.and_eq_true, decide_eq_true_eq] at hb
  obtain ⟨⟨⟨⟨⟨⟨hb0, hb1⟩, hb2⟩, hb3⟩, hb4⟩, hb5⟩, hb6⟩ := hb
  obtain ⟨hlt, e0, e1, e2, e3, e4, e5, e6, e7⟩ := shape6 wd 0x29 d a 0 s 1 m e (by rw [he]; first | done | (simp only [put]; done) | (simp only [put]; omega)) (by decide) (by assumption) (by assumption) (by decide) (by assumption) (by decide) (by assumption) (by assumption)
  refine ⟨hlt, ?_⟩
  refine decodeWord_of ((fields29 e0).trans ?_) hw
  simp only [decodeMajor29, e1, e2, e3, e4, e5, e6, e7, if_true]

theorem vlds (d a b s m e : Nat) : Statement (.vlds d a b s m e) := by
  intro wd hw h
  have hb : (decide (d < 32) && decide (a < 32) && decide (b < 32) && decide (s < 8) && decide (m < 8) && decide (e < 8) && decide (e ≤ 3)) = true := hw
  have h2 : some (0xa8000000 + put d 21 + put a 16 + put b 11 + put s 8 + put m 3 + e) = some wd := h
  have he := (Option.some.inj h2).symm
  simp only [Bool.and_eq_true, decide_eq_true_eq] at hb
  obtain ⟨⟨⟨⟨⟨⟨hb0, hb1⟩, hb2⟩, hb3⟩, hb4⟩, hb5⟩, hb6⟩ := hb
  obtain ⟨hlt, e0, e1, e2, e3, e4, e5, e6, e7⟩ := shape6 wd 0x2A d a b s 0 m e (by rw [he]; first | done | (simp only [put]; done) | (simp only [put]; omega)) (by decide) (by assumption) (by assumption) (by assumption) (by assumption) (by decide) (by assumption) (by assumption)
  refine ⟨hlt, ?_⟩
  refine decodeWord_of ((fields2A e0).trans ?_) hw
  simp only [decodeMajor2A, e1, e2, e3, e4, e5, e6, e7]

theorem vldsu (d a b s m e : Nat) : Statement (.vldsu d a b s m e) := by
  intro wd hw h
  have hb : (decide (d < 32) && decide (a < 32) && decide (b < 32) && decide (s < 8) && decide (m < 8) && decide (e < 8) && decide (e ≤ 3)) = true := hw
  have h2 : some (0xa8000040 + put d 21 + put a 16 + put b 11 + put s 8 + put m 3 + e) = some wd := h
  have he := (Option.some.inj h2).symm
  simp only [Bool.and_eq_true, decide_eq_true_eq] at hb
  obtain ⟨⟨⟨⟨⟨⟨hb0, hb1⟩, hb2⟩, hb3⟩, hb4⟩, hb5⟩, hb6⟩ := hb
  obtain ⟨hlt, e0, e1, e2, e3, e4, e5, e6, e7⟩ := shape6 wd 0x2A d a b s 1 m e (by rw [he]; first | done | (simp only [put]; done) | (simp only [put]; omega)) (by decide) (by assumption) (by assumption) (by assumption) (by assumption) (by decide) (by assumption) (by assumption)
  refine ⟨hlt, ?_⟩
  refine decodeWord_of ((fields2A e0).trans ?_) hw
  simp only [decodeMajor2A, e1, e2, e3, e4, e5, e6, e7]

theorem vldsf (d a b s m e : Nat) : Statement (.vldsf d a b s m e) := by
  intro wd hw h
  have hb : (decide (d < 32) && decide (a < 32) && decide (b < 32) && decide (s < 8) && decide (m < 8) && decide (e < 8) && decide (e ≤ 3)) = true := hw
  have h2 : some (0xa8000080 + put d 21 + put a 16 + put b 11 + put s 8 + put m 3 + e) = some wd := h
  have he := (Option.some.inj h2).symm
  simp only [Bool.and_eq_true, decide_eq_true_eq] at hb
  obtain ⟨⟨⟨⟨⟨⟨hb0, hb1⟩, hb2⟩, hb3⟩, hb4⟩, hb5⟩, hb6⟩ := hb
  obtain ⟨hlt, e0, e1, e2, e3, e4, e5, e6, e7⟩ := shape6 wd 0x2A d a b s 2 m e (by rw [he]; first | done | (simp only [put]; done) | (simp only [put]; omega)) (by decide) (by assumption) (by assumption) (by assumption) (by assumption) (by decide) (by assumption) (by assumption)
  refine ⟨hlt, ?_⟩
  refine decodeWord_of ((fields2A e0).trans ?_) hw
  simp only [decodeMajor2A, e1, e2, e3, e4, e5, e6, e7]

theorem vsts (d a b s m e : Nat) : Statement (.vsts d a b s m e) := by
  intro wd hw h
  have hb : (decide (d < 32) && decide (a < 32) && decide (b < 32) && decide (s < 8) && decide (m < 8) && decide (e < 8) && decide (e ≤ 3)) = true := hw
  have h2 : some (0xac000000 + put d 21 + put a 16 + put b 11 + put s 8 + put m 3 + e) = some wd := h
  have he := (Option.some.inj h2).symm
  simp only [Bool.and_eq_true, decide_eq_true_eq] at hb
  obtain ⟨⟨⟨⟨⟨⟨hb0, hb1⟩, hb2⟩, hb3⟩, hb4⟩, hb5⟩, hb6⟩ := hb
  obtain ⟨hlt, e0, e1, e2, e3, e4, e5, e6, e7⟩ := shape6 wd 0x2B d a b s 0 m e (by rw [he]; first | done | (simp only [put]; done) | (simp only [put]; omega)) (by decide) (by assumption) (by assumption) (by assumption) (by assumption) (by decide) (by assumption) (by assumption)
  refine ⟨hlt, ?_⟩
  refine decodeWord_of ((fields2B e0).trans ?_) hw
  simp only [decodeMajor2B, e1, e2, e3, e4, e5, e6, e7]

theorem vstsu (d a b s m e : Nat) : Statement (.vstsu d a b s m e) := by
  intro wd hw h
  have hb : (decide (d < 32) && decide (a < 32) && decide (b < 32) && decide (s < 8) && decide (m < 8) && decide (e < 8) && decide (e ≤ 3)) = true := hw
  have h2 : some (0xac000040 + put d 21 + put a 16 + put b 11 + put s 8 + put m 3 + e) = some wd := h
  have he := (Option.some.inj h2).symm
  simp only [Bool.and_eq_true, decide_eq_true_eq] at hb
  obtain ⟨⟨⟨⟨⟨⟨hb0, hb1⟩, hb2⟩, hb3⟩, hb4⟩, hb5⟩, hb6⟩ := hb
  obtain ⟨hlt, e0, e1, e2, e3, e4, e5, e6, e7⟩ := shape6 wd 0x2B d a b s 1 m e (by rw [he]; first | done | (simp only [put]; done) | (simp only [put]; omega)) (by decide) (by assumption) (by assumption) (by assumption) (by assumption) (by decide) (by assumption) (by assumption)
  refine ⟨hlt, ?_⟩
  refine decodeWord_of ((fields2B e0).trans ?_) hw
  simp only [decodeMajor2B, e1, e2, e3, e4, e5, e6, e7]

theorem vldx (d a b m e : Nat) : Statement (.vldx d a b m e) := by
  intro wd hw h
  have hb : (decide (d < 32) && decide (a < 32) && decide (b < 32) && decide (m < 8) && decide (e < 8) && decide (e ≤ 3)) = true := hw
  have h2 : some (0xb0000000 + put d 21 + put a 16 + put b 11 + put m 3 + e) = some wd := h
  have he := (Option.some.inj h2).symm
  simp only [Bool.and_eq_true, decide_eq_true_eq] at hb
  obtain ⟨⟨⟨⟨⟨hb0, hb1⟩, hb2⟩, hb3⟩, hb4⟩, hb5⟩ := hb
  obtain ⟨hlt, e0, e1, e2, e3, e4, e5, e6, e7⟩ := shape6 wd 0x2C d a b 0 0 m e (by rw [he]; first | done | (simp only [put]; done) | (simp only [put]; omega)) (by decide) (by assumption) (by assumption) (by assumption) (by decide) (by decide) (by assumption) (by assumption)
  refine ⟨hlt, ?_⟩
  refine decodeWord_of ((fields2C e0).trans ?_) hw
  simp only [decodeMajor2C, e1, e2, e3, e4, e5, e6, e7, if_true]

theorem vldxu (d a b m e : Nat) : Statement (.vldxu d a b m e) := by
  intro wd hw h
  have hb : (decide (d < 32) && decide (a < 32) && decide (b < 32) && decide (m < 8) && decide (e < 8) && decide (e ≤ 3)) = true := hw
  have h2 : some (0xb0000040 + put d 21 + put a 16 + put b 11 + put m 3 + e) = some wd := h
  have he := (Option.some.inj h2).symm
  simp only [Bool.and_eq_true, decide_eq_true_eq] at hb
  obtain ⟨⟨⟨⟨⟨hb0, hb1⟩, hb2⟩, hb3⟩, hb4⟩, hb5⟩ := hb
  obtain ⟨hlt, e0, e1, e2, e3, e4, e5, e6, e7⟩ := shape6 wd 0x2C d a b 0 1 m e (by rw [he]; first | done | (simp only [put]; done) | (simp only [put]; omega)) (by decide) (by assumption) (by assumption) (by assumption) (by decide) (by decide) (by assumption) (by assumption)
  refine ⟨hlt, ?_⟩
  refine decodeWord_of ((fields2C e0).trans ?_) hw
  simp only [decodeMajor2C, e1, e2, e3, e4, e5, e6, e7, if_true]

theorem vstx (d a b m e : Nat) : Statement (.vstx d a b m e) := by
  intro wd hw h
  have hb : (decide (d < 32) && decide (a < 32) && decide (b < 32) && decide (m < 8) && decide (e < 8) && decide (e ≤ 3)) = true := hw
  have h2 : some (0xb4000000 + put d 21 + put a 16 + put b 11 + put m 3 + e) = some wd := h
  have he := (Option.some.inj h2).symm
  simp only [Bool.and_eq_true, decide_eq_true_eq] at hb
  obtain ⟨⟨⟨⟨⟨hb0, hb1⟩, hb2⟩, hb3⟩, hb4⟩, hb5⟩ := hb
  obtain ⟨hlt, e0, e1, e2, e3, e4, e5, e6, e7⟩ := shape6 wd 0x2D d a b 0 0 m e (by rw [he]; first | done | (simp only [put]; done) | (simp only [put]; omega)) (by decide) (by assumption) (by assumption) (by assumption) (by decide) (by decide) (by assumption) (by assumption)
  refine ⟨hlt, ?_⟩
  refine decodeWord_of ((fields2D e0).trans ?_) hw
  simp only [decodeMajor2D, e1, e2, e3, e4, e5, e6, e7, if_true]

theorem vstxu (d a b m e : Nat) : Statement (.vstxu d a b m e) := by
  intro wd hw h
  have hb : (decide (d < 32) && decide (a < 32) && decide (b < 32) && decide (m < 8) && decide (e < 8) && decide (e ≤ 3)) = true := hw
  have h2 : some (0xb4000040 + put d 21 + put a 16 + put b 11 + put m 3 + e) = some wd := h
  have he := (Option.some.inj h2).symm
  simp only [Bool.and_eq_true, decide_eq_true_eq] at hb
  obtain ⟨⟨⟨⟨⟨hb0, hb1⟩, hb2⟩, hb3⟩, hb4⟩, hb5⟩ := hb
  obtain ⟨hlt, e0, e1, e2, e3, e4, e5, e6, e7⟩ := shape6 wd 0x2D d a b 0 1 m e (by rw [he]; first | done | (simp only [put]; done) | (simp only [put]; omega)) (by decide) (by assumption) (by assumption) (by assumption) (by decide) (by decide) (by assumption) (by assumption)
  refine ⟨hlt, ?_⟩
  refine decodeWord_of ((fields2D e0).trans ?_) hw
  simp only [decodeMajor2D, e1, e2, e3, e4, e5, e6, e7, if_true]

theorem vamoaddI (d a b m e : Nat) : Statement (.vamoaddI d a b m e) := by
  intro wd hw h
  have hb : (decide (d < 32) && decide (a < 32) && decide (b < 32) && decide (m < 8) && decide (e < 8) && decide (2 ≤ e) && decide (e ≤ 3)) = true := hw
  have h2 : some (0xb8000000 + put d 21 + put a 16 + put b 11 + put m 3 + e) = some wd := h
  have he := (Option.some.inj h2).symm
  simp only [Bool.and_eq_true, decide_eq_true_eq] at hb
  obtain ⟨⟨⟨⟨⟨⟨hb0, hb1⟩, hb2⟩, hb3⟩, hb4⟩, hb5⟩, hb6⟩ := hb
  obtain ⟨hlt, e0, e1, e2, e3, e4, e5, e6, e7⟩ := shape6 wd 0x2E d a b 0 0 m e (by rw [he]; first | done | (simp only [put]; done) | (simp only [put]; omega)) (by decide) (by assumption) (by assumption) (by assumption) (by decide) (by decide) (by assumption) (by assumption)
  refine ⟨hlt, ?_⟩
  refine decodeWord_of ((fields2E e0).trans ?_) hw
  simp only [decodeMajor2E, e1, e2, e3, e4, e5, e6, e7]

theorem vamoadduI (d a b m e : Nat) : Statement (.vamoadduI d a b m e) := by
  intro wd hw h
  have hb : (decide (d < 32) && decide (a < 32) && decide (b < 32) && decide (m < 8) && decide (e < 8) && decide (2 ≤ e) && decide (e ≤ 3)) = true := hw
  have h2 : some (0xb8000040 + put d 21 + put a 16 + put b 11 + put m 3 + e) = some wd := h
  have he := (Option.some.inj h2).symm
  simp only [Bool.and_eq_true, decide_eq_true_eq] at hb
  obtain ⟨⟨⟨⟨⟨⟨hb0, hb1⟩, hb2⟩, hb3⟩, hb4⟩, hb5⟩, hb6⟩ := hb
  obtain ⟨hlt, e0, e1, e2, e3, e4, e5, e6, e7⟩ := shape6 wd 0x2E d a b 0 1 m e (by rw [he]; first | done | (simp only [put]; done) | (simp only [put]; omega)) (by decide) (by assumption) (by assumption) (by assumption) (by decide) (by decide) (by assumption) (by assumption)
  refine ⟨hlt, ?_⟩
  refine decodeWord_of ((fields2E e0).trans ?_) hw
  simp only [decodeMajor2E, e1, e2, e3, e4, e5, e6, e7]

theorem vamoaddF (d a b m e : Nat) : Statement (.vamoaddF d a b m e) := by
  intro wd hw h
  have hb : (decide (d < 32) && decide (a < 32) && decide (b < 32) && decide (m < 8) && decide (e < 8) && decide (1 ≤ e) && decide (e ≤ 2)) = true := hw
  have h2 : some (0xb8000100 + put d 21 + put a 16 + put b 11 + put m 3 + e) = some wd := h
  have he := (Option.some.inj h2).symm
  simp only [Bool.and_eq_true, decide_eq_true_eq] at hb
  obtain ⟨⟨⟨⟨⟨⟨hb0, hb1⟩, hb2⟩, hb3⟩, hb4⟩, hb5⟩, hb6⟩ := hb
  obtain ⟨hlt, e0, e1, e2, e3, e4, e5, e6, e7⟩ := shape6 wd 0x2E d a b 1 0 m e (by rw [he]; first | done | (simp only [put]; done) | (simp only [put]; omega)) (by decide) (by assumption) (by assumption) (by assumption) (by decide) (by decide) (by assumption) (by assumption)
  refine ⟨hlt, ?_⟩
  refine decodeWord_of ((fields2E e0).trans ?_) hw
  simp only [decodeMajor2E, e1, e2, e3, e4, e5, e6, e7]

theorem vamoadduF (d a b m e : Nat) : Statement (.vamoadduF d a b m e) := by
  intro wd hw h
  have hb : (decide (d < 32) && decide (a < 32) && decide (b < 32) && decide (m < 8) && decide (e < 8) && decide (1 ≤ e) && decide (e ≤ 2)) = true := hw
  have h2 : some (0xb8000140 + put d 21 + put a 16 + put b 11 + put m 3 + e) = some wd := h
  have he := (Option.some.inj h2).symm
  simp only [Bool.and_eq_true, decide_eq_true_eq] at hb
  obtain ⟨⟨⟨⟨⟨⟨hb0, hb1⟩, hb2⟩, hb3⟩, hb4⟩, hb5⟩, hb6⟩ := hb
  obtain ⟨hlt, e0, e1, e2, e3, e4, e5, e6, e7⟩ := shape6 wd 0x2E d a b 1 1 m e (by rw [he]; first | done | (simp only [put]; done) | (simp only [put]; omega)) (by decide) (by assumption) (by assumption) (by assumption) (by decide) (by decide) (by assumption) (by assumption)
  refine ⟨hlt, ?_⟩
  refine decodeWord_of ((fields2E e0).trans ?_) hw
  simp only [decodeMajor2E, e1, e2, e3, e4, e5, e6, e7]

theorem vamoswap (d a b m e : Nat) : Statement (.vamoswap d a b m e) := by
  intro wd hw h
  have hb : (decide (d < 32) && decide (a < 32) && decide (b < 32) && decide (m < 8) && decide (e < 8) && decide (2 ≤ e) && decide (e ≤ 3)) = true := hw
  have h2 : some (0xb8000200 + put d 21 + put a 16 + put b 11 + put m 3 + e) = some wd := h
  have he := (Option.some.inj h2).symm
  simp only [Bool.and_eq_true, decide_eq_true_eq] at hb
  obtain ⟨⟨⟨⟨⟨⟨hb0, hb1⟩, hb2⟩, hb3⟩, hb4⟩, hb5⟩, hb6⟩ := hb
  obtain ⟨hlt, e0, e1, e2, e3, e4, e5, e6, e7⟩ := shape6 wd 0x2E d a b 2 0 m e (by rw [he]; first | done | (simp only [put]; done) | (simp only [put]; omega)) (by decide) (by assumption) (by assumption) (by assumption) (by decide) (by decide) (by assumption) (by assumption)
  refine ⟨hlt, ?_⟩
  refine decodeWord_of ((fields2E e0).trans ?_) hw
  simp only [decodeMajor2E, e1, e2, e3, e4, e5, e6, e7]

theorem vamoswapu (d a b m e : Nat) : Statement (.vamoswapu d a b m e) := by
  intro wd hw h
  have hb : (decide (d < 32) && decide (a < 32) && decide (b < 32) && decide (m < 8) && decide (e < 8) && decide (2 ≤ e) && decide (e ≤ 3)) = true := hw
  have h2 : some (0xb8000240 + put d 21 + put a 16 + put b 11 + put m 3 + e) = some wd := h
  have he := (Option.some.inj h2).symm
  simp only [Bool.and_eq_true, decide_eq_true_eq] at hb
  obtain ⟨⟨⟨⟨⟨⟨hb0, hb1⟩, hb2⟩, hb3⟩, hb4⟩, hb5⟩, hb6⟩ := hb
  obtain ⟨hlt, e0, e1, e2, e3, e4, e5, e6, e7⟩ := shape6 wd 0x2E d a b 2 1 m e (by rw [he]; first | done | (simp only [put]; done) | (simp only [put]; omega)) (by decide) (by assumption) (by assumption) (by assumption) (by decide) (by decide) (by assumption) (by assumption)
  refine ⟨hlt, ?_⟩
  refine decodeWord_of ((fields2E e0).trans ?_) hw
  simp only [decodeMajor2E, e1, e2, e3, e4, e5, e6, e7]

theorem vamomin (d a b m e : Nat) : Statement (.vamomin d a b m e) := by
  intro wd hw h
  have hb : (decide (d < 32) && decide (a < 32) && decide (b < 32) && decide (m < 8) && decide (e < 8) && decide (2 ≤ e) && decide (e ≤ 3)) = true := hw
  have h2 : some (0xb8000300 + put d 21 + put a 16 + put b 11 + put m 3 + e) = some wd := h
  have he := (Option.some.inj h2).symm
  simp only [Bool.and_eq_true, decide_eq_true_eq] at hb
  obtain ⟨⟨⟨⟨⟨⟨hb0, hb1⟩, hb2⟩, hb3⟩, hb4⟩, hb5⟩, hb6⟩ := hb
  obtain ⟨hlt, e0, e1, e2, e3, e4, e5, e6, e7⟩ := shape6 wd 0x2E d a b 3 0 m e (by rw [he]; first | done | (simp only [put]; done) | (simp only [put]; omega)) (by decide) (by assumption) (by assumption) (by assumption) (by decide) (by decide) (by assumption) (by assumption)
  refine ⟨hlt, ?_⟩
  refine decodeWord_of ((fields2E e0).trans ?_) hw
  simp only [decodeMajor2E, e1, e2, e3, e4, e5, e6, e7]

theorem vamominu (d a b m e : Nat) : Statement (.vamominu d a b m e) := by
  intro wd hw h
  have hb : (decide (d < 32) && decide (a < 32) && decide (b < 32) && decide (m < 8) && decide (e < 8) && decide (2 ≤ e) && decide (e ≤ 3)) = true := hw
  have h2 : some (0xb8000340 + put d 21 + put a 16 + put b 11 + put m 3 + e) = some wd := h
  have he := (Option.some.inj h2).symm
  simp only [Bool.and_eq_true, decide_eq_true_eq] at hb
  obtain ⟨⟨⟨⟨⟨⟨hb0, hb1⟩, hb2⟩, hb3⟩, hb4⟩, hb5⟩, hb6⟩ := hb
  obtain ⟨hlt, e0, e1, e2, e3, e4, e5, e6, e7⟩ := shape6 wd 0x2E d a b 3 1 m e (by rw [he]; first | done | (simp only [put]; done) | (simp only [put]; omega)) (by decide) (by assumption) (by assumption) (by assumption) (by decide) (by decide) (by assumption) (by assumption)
  refine ⟨hlt, ?_⟩
  refine decodeWord_of ((fields2E e0).trans ?_) hw
  simp only [decodeMajor2E, e1, e2, e3, e4, e5, e6, e7]

theorem vamomax (d a b m e : Nat) : Statement (.vamomax d a b m e) := by
  intro wd hw h
  have hb : (decide (d < 32) && decide (a < 32) && decide (b < 32) && decide (m < 8) && decide (e < 8) && decide (2 ≤ e) && decide (e ≤ 3)) = true := hw
  have h2 : some (0xb8000400 + put d 21 + put a 16 + put b 11 + put m 3 + e) = some wd := h
  have he := (Option.some.inj h2).symm
  simp only [Bool.and_eq_true, decide_eq_true_eq] at hb
  obtain ⟨⟨⟨⟨⟨⟨hb0, hb1⟩, hb2⟩, hb3⟩, hb4⟩, hb5⟩, hb6⟩ := hb
  obtain ⟨hlt, e0, e1, e2, e3, e4, e5, e6, e7⟩ := shape6 wd 0x2E d a b 4 0 m e (by rw [he]; first | done | (simp only [put]; done) | (simp only [put]; omega)) (by decide) (by assumption) (by assumption) (by assumption) (by decide) (by decide) (by assumption) (by assumption)
  refine ⟨hlt, ?_⟩
  refine decodeWord_of ((fields2E e0).trans ?_) hw
  simp only [decodeMajor2E, e1, e2, e3, e4, e5, e6, e7]

theorem vamomaxu (d a b m e : Nat) : Statement (.vamomaxu d a b m e) := by
  intro wd hw h
  have hb : (decide (d < 32) && decide (a < 32) && decide (b < 32) && decide (m < 8) && decide (e < 8) && decide (2 ≤ e) && decide (e ≤ 3)) = true := hw
  have h2 : some (0xb8000440 + put d 21 + put a 16 + put b 11 + put m 3 + e) = some wd := h
  have he := (Option.some.inj h2).symm
  simp only [Bool.and_eq_true, decide_eq_true_eq] at hb
  obtain ⟨⟨⟨⟨⟨⟨hb0, hb1⟩, hb2⟩, hb3⟩, hb4⟩, hb5⟩, hb6⟩ := hb
  obtain ⟨hlt, e0, e1, e2, e3, e4, e5, e6, e7⟩ := shape6 wd 0x2E d a b 4 1 m e (by rw [he]; first | done | (simp only [put]; done) | (simp only [put]; omega)) (by decide) (by assumption) (by assumption) (by assumption) (by decide) (by decide) (by assumption) (by assumption)
  refine ⟨hlt, ?_⟩
  refine decodeWord_of ((fields2E e0).trans ?_) hw
  simp only [decodeMajor2E, e1, e2, e3, e4, e5, e6, e7]

theorem vamoand (d a b m e : Nat) : Statement (.vamoand d a b m e) := by
  intro wd hw h
  have hb : (decide (d < 32) && decide (a < 32) && decide (b < 32) && decide (m < 8) && decide (e < 8) && decide (2 ≤ e) && decide (e ≤ 3)) = true := hw
  have h2 : some (0xb8000500 + put d 21 + put a 16 + put b 11 + put m 3 + e) = some wd := h
  have he := (Option.some.inj h2).symm
  simp only [Bool.and_eq_true, decide_eq_true_eq] at hb
  obtain ⟨⟨⟨⟨⟨⟨hb0, hb1⟩, hb2⟩, hb3⟩, hb4⟩, hb5⟩, hb6⟩ := hb
  obtain ⟨hlt, e0, e1, e2, e3, e4, e5, e6, e7⟩ := shape6 wd 0x2E d a b 5 0 m e (by rw [he]; first | done | (simp only [put]; done) | (simp only [put]; omega)) (by decide) (by assumption) (by assumption) (by assumption) (by decide) (by decide) (by assumption) (by assumption)
  refine ⟨hlt, ?_⟩
  refine decodeWord_of ((fields2E e0).trans ?_) hw
  simp only [decodeMajor2E, e1, e2, e3, e4, e5, e6, e7]

theorem vamoandu (d a b m e : Nat) : Statement (.vamoandu d a b m e) := by
  intro wd hw h
  have hb : (decide (d < 32) && decide (a < 32) && decide (b < 32) && decide (m < 8) && decide (e < 8) && decide (2 ≤ e) && decide (e ≤ 3)) = true := hw
  have h2 : some (0xb8000540 + put d 21 + put a 16 + put b 11 + put m 3 + e) = some wd := h
  have he := (Option.some.inj h2).symm
  simp only [Bool.and_eq_true, decide_eq_true_eq] at hb
  obtain ⟨⟨⟨⟨⟨⟨hb0, hb1⟩, hb2⟩, hb3⟩, hb4⟩, hb5⟩, hb6⟩ := hb
  obtain ⟨hlt, e0, e1, e2, e3, e4, e5, e6, e7⟩ := shape6 wd 0x2E d a b 5 1 m e (by rw [he]; first | done | (simp only [put]; done) | (simp only [put]; omega)) (by decide) (by assumption) (by assumption) (by assumption) (by decide) (by decide) (by assumption) (by assumption)
  refine ⟨hlt, ?_⟩
  refine decodeWord_of ((fields2E e0).trans ?_) hw
  simp only [decodeMajor2E, e1, e2, e3, e4, e5, e6, e7]

theorem vamoor (d a b m e : Nat) : Statement (.vamoor d a b m e) := by
  intro wd hw h
  have hb : (decide (d < 32) && decide (a < 32) && decide (b < 32) && decide (m < 8) && decide (e < 8) && decide (2 ≤ e) && decide (e ≤ 3)) = true := hw
  have h2 : some (0xb8000600 + put d 21 + put a 16 + put b 11 + put m 3 + e) = some wd := h
  have he := (Option.some.inj h2).symm
  simp only [Bool.and_eq_true, decide_eq_true_eq] at hb
  obtain ⟨⟨⟨⟨⟨⟨hb0, hb1⟩, hb2⟩, hb3⟩, hb4⟩, hb5⟩, hb6⟩ := hb
  obtain ⟨hlt, e0, e1, e2, e3, e4, e5, e6, e7⟩ := shape6 wd 0x2E d a b 6 0 m e (by rw [he]; first | done | (simp only [put]; done) | (simp only [put]; omega)) (by decide) (by assumption) (by assumption) (by assumption) (by decide) (by decide) (by assumption) (by assumption)
  refine ⟨hlt, ?_⟩
  refine decodeWord_of ((fields2E e0).trans ?_) hw
  simp only [decodeMajor2E, e1, e2, e3, e4, e5, e6, e7]

theorem vamooru (d a b m e : Nat) : Statement (.vamooru d a b m e) := by
  intro wd hw h
  have hb : (decide (d < 32) && decide (a < 32) && decide (b < 32) && decide (m < 8) && decide (e < 8) && decide (2 ≤ e) && decide (e ≤ 3)) = true := hw
  have h2 : some (0xb8000640 + put d 21 + put a 16 + put b 11 + put m 3 + e) = some wd := h
  have he := (Option.some.inj h2).symm
  simp only [Bool.and_eq_true, decide_eq_true_eq] at hb
  obtain ⟨⟨⟨⟨⟨⟨hb0, hb1⟩, hb2⟩, hb3⟩, hb4⟩, hb5⟩, hb6⟩ := hb
  obtain ⟨hlt, e0, e1, e2, e3, e4, e5, e6, e7⟩ := shape6 wd 0x2E d a b 6 1 m e (by rw [he]; first | done | (simp only [put]; done) | (simp only [put]; omega)) (by decide) (by assumption) (by assumption) (by assumption) (by decide) (by decide) (by assumption) (by assumption)
  refine ⟨hlt, ?_⟩
  refine decodeWord_of ((fields2E e0).trans ?_) hw
  simp only [decodeMajor2E, e1, e2, e3, e4, e5, e6, e7]

theorem vamoxor (d a b m e : Nat) : Statement (.vamoxor d a b m e) := by
  intro wd hw h
  have hb : (decide (d < 32) && decide (a < 32) && decide (b < 32) && decide (m < 8) && decide (e < 8) && decide (2 ≤ e) && decide (e ≤ 3)) = true := hw
  have h2 : some (0xb8000700 + put d 21 + put a 16 + put b 11 + put m 3 + e) = some wd := h
  have he := (Option.some.inj h2).symm
  simp only [Bool.and_eq_true, decide_eq_true_eq] at hb
  obtain ⟨⟨⟨⟨⟨⟨hb0, hb1⟩, hb2⟩, hb3⟩, hb4⟩, hb5⟩, hb6⟩ := hb
  obtain ⟨hlt, e0, e1, e2, e3, e4, e5, e6, e7⟩ := shape6 wd 0x2E d a b 7 0 m e (by rw [he]; first | done | (simp only [put]; done) | (simp only [put]; omega)) (by decide) (by assumption) (by assumption) (by assumption) (by decide) (by decide) (by assumption) (by assumption)
  refine ⟨hlt, ?_⟩
  refine decodeWord_of ((fields2E e0).trans ?_) hw
  simp only [decodeMajor2E, e1, e2, e3, e4, e5, e6, e7]

theorem vamoxoru (d a b m e : Nat) : Statement (.vamoxoru d a b m e) := by
  intro wd hw h
  have hb : (decide (d < 32) && decide (a < 32) && decide (b < 32) && decide (m < 8) && decide (e < 8) && decide (2 ≤ e) && decide (e ≤ 3)) = true := hw
  have h2 : some (0xb8000740 + put d 21 + put a 16 + put b 11 + put m 3 + e) = some wd := h
  have he := (Option.some.inj h2).symm
  simp only [Bool.and_eq_true, decide_eq_true_eq] at hb
  obtain ⟨⟨⟨⟨⟨⟨hb0, hb1⟩, hb2⟩, hb3⟩, hb4⟩, hb5⟩, hb6⟩ := hb
  obtain ⟨hlt, e0, e1, e2, e3, e4, e5, e6, e7⟩ := shape6 wd 0x2E d a b 7 1 m e (by rw [he]; first | done | (simp only [put]; done) | (simp only [put]; omega)) (by decide) (by assumption) (by assumption) (by assumption) (by decide) (by decide) (by assumption) (by assumption)
  refine ⟨hlt, ?_⟩
  refine decodeWord_of ((fields2E e0).trans ?_) hw
  simp only [decodeMajor2E, e1, e2, e3, e4, e5, e6, e7]

theorem mrow (d a n f : Nat) : Statement (.mrow d a n f) := by
  intro wd hw h
  have hb : (decide (d < 32) && decide (a < 32) && decide (n < 2) && decide (f < 32)) = true := hw
  have h2 : some (0xc0000000 + put d 21 + put a 16 + put n 11 + put f 6) = some wd := h
  have he := (Option.some.inj h2).symm
  simp only [Bool.and_eq_true, decide_eq_true_eq] at hb
  obtain ⟨⟨⟨hb0, hb1⟩, hb2⟩, hb3⟩ := hb
  obtain ⟨hlt, e0, e1, e2, e3, e4, e5, e6, e7⟩ := shape7 wd 0x30 d a 0 n f 0 0 (by rw [he]; first | done | (simp only [put]; done) | (simp only [put]; omega)) (by decide) (by assumption) (by assumption) (by decide) (by assumption) (by assumption) (by decide) (by decide)
  refine ⟨hlt, ?_⟩
  refine decodeWord_of ((fields30 e0).trans ?_) hw
  simp only [decodeMajor30, e1, e2, e3, e4, e5, e6, e7, if_true, and_self]

theorem mrowm (d a n f : Nat) : Statement (.mrowm d a n f) := by
  intro wd hw h
  have hb : (decide (d < 32) && decide (a < 32) && decide (n < 2) && decide (f < 32)) = true := hw
  have h2 : some (0xc0000001 + put d 21 + put a 16 + put n 11 + put f 6) = some wd := h
  have he := (Option.some.inj h2).symm
  simp only [Bool.and_eq_true, decide_eq_true_eq] at hb
  obtain ⟨⟨⟨hb0, hb1⟩, hb2⟩, hb3⟩ := hb
  obtain ⟨hlt, e0, e1, e2, e3, e4, e5, e6, e7⟩ := shape7 wd 0x30 d a 0 n f 0 1 (by rw [he]; first | done | (simp only [put]; done) | (simp only [put]; omega)) (by decide) (by assumption) (by assumption) (by decide) (by assumption) (by assumption) (by decide) (by decide)
  refine ⟨hlt, ?_⟩
  refine decodeWord_of ((fields30 e0).trans ?_) hw
  simp only [decodeMajor30, e1, e2, e3, e4, e5, e6, e7, if_true, and_self]

theorem mrowx (d a n f : Nat) : Statement (.mrowx d a n f) := by
  intro wd hw h
  have hb : (decide (d < 32) && decide (a < 32) && decide (n < 2) && decide (f < 32)) = true := hw
  have h2 : some (0xc0000002 + put d 21 + put a 16 + put n 11 + put f 6) = some wd := h
  have he := (Option.some.inj h2).symm
  simp only [Bool.and_eq_true, decide_eq_true_eq] at hb
  obtain ⟨⟨⟨hb0, hb1⟩, hb2⟩, hb3⟩ := hb
  obtain ⟨hlt, e0, e1, e2, e3, e4, e5, e6, e7⟩ := shape7 wd 0x30 d a 0 n f 0 2 (by rw [he]; first | done | (simp only [put]; done) | (simp only [put]; omega)) (by decide) (by assumption) (by assumption) (by decide) (by assumption) (by assumption) (by decide) (by decide)
  refine ⟨hlt, ?_⟩
  refine decodeWord_of ((fields30 e0).trans ?_) hw
  simp only [decodeMajor30, e1, e2, e3, e4, e5, e6, e7, if_true, and_self]

theorem mxrd (d a f : Nat) : Statement (.mxrd d a f) := by
  intro wd hw h
  have hb : (decide (d < 32) && decide (a < 32) && decide (f < 32)) = true := hw
  have h2 : some (0xc0000003 + put d 21 + put a 16 + put f 6) = some wd := h
  have he := (Option.some.inj h2).symm
  simp only [Bool.and_eq_true, decide_eq_true_eq] at hb
  obtain ⟨⟨hb0, hb1⟩, hb2⟩ := hb
  obtain ⟨hlt, e0, e1, e2, e3, e4, e5, e6, e7⟩ := shape7 wd 0x30 d a 0 0 f 0 3 (by rw [he]; first | done | (simp only [put]; done) | (simp only [put]; omega)) (by decide) (by assumption) (by assumption) (by decide) (by decide) (by assumption) (by decide) (by decide)
  refine ⟨hlt, ?_⟩
  refine decodeWord_of ((fields30 e0).trans ?_) hw
  simp only [decodeMajor30, e1, e2, e3, e4, e5, e6, e7, if_true, and_self]

theorem mxclr (a : Nat) : Statement (.mxclr a) := by
  intro wd hw h
  have hb : (decide (a < 32)) = true := hw
  have h2 : some (0xc0000004 + put a 16) = some wd := h
  have he := (Option.some.inj h2).symm
  simp only [decide_eq_true_eq] at hb
  obtain ⟨hlt, e0, e1, e2, e3, e4, e5, e6, e7, e8⟩ := shape8 wd 0x30 0 0 a 0 0 0 0 4 (by rw [he]; first | done | (simp only [put]; done) | (simp only [put]; omega)) (by decide) (by decide) (by decide) (by assumption) (by decide) (by decide) (by decide) (by decide) (by decide)
  refine ⟨hlt, ?_⟩
  refine decodeWord_of ((fields30 e0).trans ?_) hw
  simp only [decodeMajor30, e1, e2, e3, e4, e5, e6, e7, e8, if_true, and_self]

theorem mtload (n a b f : Nat) : Statement (.mtload n a b f) := by
  intro wd hw h
  have hb : (decide (n < 2) && decide (a < 32) && decide (b < 32) && decide (f < 32)) = true := hw
  have h2 : some (0xc4000000 + put n 21 + put a 16 + put b 11 + put f 6) = some wd := h
  have he := (Option.some.inj h2).symm
  simp only [Bool.and_eq_true, decide_eq_true_eq] at hb
  obtain ⟨⟨⟨hb0, hb1⟩, hb2⟩, hb3⟩ := hb
  obtain ⟨hlt, e0, e1, e2, e3, e4, e5, e6, e7⟩ := shape9 wd 0x31 0 n a b f 0 0 (by rw [he]; first | done | (simp only [put]; done) | (simp only [put]; omega)) (by decide) (by decide) (by assumption) (by assumption) (by assumption) (by assumption) (by decide) (by decide)
  refine ⟨hlt, ?_⟩
  refine decodeWord_of ((fields31 e0).trans ?_) hw
  simp only [decodeMajor31, e1, e2, e3, e4, e5, e6, e7, if_true, and_self]

theorem cbload (a : Nat) : Statement (.cbload a) := by
  intro wd hw h
  have hb : (decide (a < 32)) = true := hw
  have h2 : some (0xc4000001 + put a 16) = some wd := h
  have he := (Option.some.inj h2).symm
  simp only [decide_eq_true_eq] at hb
  obtain ⟨hlt, e0, e1, e2, e3, e4, e5, e6, e7, e8⟩ := shape8 wd 0x31 0 0 a 0 0 0 0 1 (by rw [he]; first | done | (simp only [put]; done) | (simp only [put]; omega)) (by decide) (by decide) (by decide) (by assumption) (by decide) (by decide) (by decide) (by decide) (by decide)
  refine ⟨hlt, ?_⟩
  refine decodeWord_of ((fields31 e0).trans ?_) hw
  simp only [decodeMajor31, e1, e2, e3, e4, e5, e6, e7, e8, if_true, and_self]

theorem copy (a b c k : Nat) : Statement (.copy a b c k) := by
  intro wd hw h
  have hb : (decide (a < 32) && decide (b < 32) && decide (c < 32) && decide (k < 8) && decide (c % 4 = 0) && decide (4 ≤ c) && decide (c ≤ 28)) = true := hw
  have h2 : some (0xd0000000 + put a 21 + put b 16 + put c 11 + put k 8) = some wd := h
  have he := (Option.some.inj h2).symm
  simp only [Bool.and_eq_true, decide_eq_true_eq] at hb
  obtain ⟨⟨⟨⟨⟨⟨hb0, hb1⟩, hb2⟩, hb3⟩, hb4⟩, hb5⟩, hb6⟩ := hb
  obtain ⟨hlt, e0, e1, e2, e3, e4, e5⟩ := shape10 wd 0x34 a b c k 0 (by rw [he]; first | done | (simp only [put]; done) | (simp only [put]; omega)) (by decide) (by assumption) (by assumption) (by assumption) (by assumption) (by decide)
  refine ⟨hlt, ?_⟩
  refine decodeWord_of ((fields34 e0).trans ?_) hw
  simp only [decodeMajor34, e1, e2, e3, e4, e5]

theorem copyrO (a b c k : Nat) : Statement (.copyrO a b c k) := by
  intro wd hw h
  have hb : (decide (a < 32) && decide (b < 32) && decide (c < 32) && decide (k < 8) && decide (c % 4 = 0) && decide (4 ≤ c) && decide (c ≤ 28)) = true := hw
  have h2 : some (0xd0000001 + put a 21 + put b 16 + put c 11 + put k 8) = some wd := h
  have he := (Option.some.inj h2).symm
  simp only [Bool.and_eq_true, decide_eq_true_eq] at hb
  obtain ⟨⟨⟨⟨⟨⟨hb0, hb1⟩, hb2⟩, hb3⟩, hb4⟩, hb5⟩, hb6⟩ := hb
  obtain ⟨hlt, e0, e1, e2, e3, e4, e5⟩ := shape10 wd 0x34 a b c k 1 (by rw [he]; first | done | (simp only [put]; done) | (simp only [put]; omega)) (by decide) (by assumption) (by assumption) (by assumption) (by assumption) (by decide)
  refine ⟨hlt, ?_⟩
  refine decodeWord_of ((fields34 e0).trans ?_) hw
  simp only [decodeMajor34, e1, e2, e3, e4, e5]

theorem copyrU (a b c k : Nat) : Statement (.copyrU a b c k) := by
  intro wd hw h
  have hb : (decide (a < 32) && decide (b < 32) && decide (c < 32) && decide (k < 8) && decide (c % 4 = 0) && decide (4 ≤ c) && decide (c ≤ 28)) = true := hw
  have h2 : some (0xd0000002 + put a 21 + put b 16 + put c 11 + put k 8) = some wd := h
  have he := (Option.some.inj h2).symm
  simp only [Bool.and_eq_true, decide_eq_true_eq] at hb
  obtain ⟨⟨⟨⟨⟨⟨hb0, hb1⟩, hb2⟩, hb3⟩, hb4⟩, hb5⟩, hb6⟩ := hb
  obtain ⟨hlt, e0, e1, e2, e3, e4, e5⟩ := shape10 wd 0x34 a b c k 2 (by rw [he]; first | done | (simp only [put]; done) | (simp only [put]; omega)) (by decide) (by assumption) (by assumption) (by assumption) (by assumption) (by decide)
  refine ⟨hlt, ?_⟩
  refine decodeWord_of ((fields34 e0).trans ?_) hw
  simp only [decodeMajor34, e1, e2, e3, e4, e5]

theorem copyZ (a b c k : Nat) : Statement (.copyZ a b c k) := by
  intro wd hw h
  have hb : (decide (a < 32) && decide (b < 32) && decide (c < 32) && decide (k < 8) && decide (c % 4 = 0) && decide (4 ≤ c) && decide (c ≤ 28)) = true := hw
  have h2 : some (0xd0000003 + put a 21 + put b 16 + put c 11 + put k 8) = some wd := h
  have he := (Option.some.inj h2).symm
  simp only [Bool.and_eq_true, decide_eq_true_eq] at hb
  obtain ⟨⟨⟨⟨⟨⟨hb0, hb1⟩, hb2⟩, hb3⟩, hb4⟩, hb5⟩, hb6⟩ := hb
  obtain ⟨hlt, e0, e1, e2, e3, e4, e5⟩ := shape10 wd 0x34 a b c k 3 (by rw [he]; first | done | (simp only [put]; done) | (simp only [put]; omega)) (by decide) (by assumption) (by assumption) (by assumption) (by assumption) (by decide)
  refine ⟨hlt, ?_⟩
  refine decodeWord_of ((fields34 e0).trans ?_) hw
  simp only [decodeMajor34, e1, e2, e3, e4, e5]

theorem copyMig (a b c k : Nat) : Statement (.copyMig a b c k) := by
  intro wd hw h
  have hb : (decide (a < 32) && decide (b < 32) && decide (c < 32) && decide (k < 8) && decide (c % 4 = 0) && decide (4 ≤ c) && decide (c ≤ 28)) = true := hw
  have h2 : some (0xd0000004 + put a 21 + put b 16 + put c 11 + put k 8) = some wd := h
  have he := (Option.some.inj h2).symm
  simp only [Bool.and_eq_true, decide_eq_true_eq] at hb
  obtain ⟨⟨⟨⟨⟨⟨hb0, hb1⟩, hb2⟩, hb3⟩, hb4⟩, hb5⟩, hb6⟩ := hb
  obtain ⟨hlt, e0, e1, e2, e3, e4, e5⟩ := shape10 wd 0x34 a b c k 4 (by rw [he]; first | done | (simp only [put]; done) | (simp only [put]; omega)) (by decide) (by assumption) (by assumption) (by assumption) (by assumption) (by decide)
  refine ⟨hlt, ?_⟩
  refine decodeWord_of ((fields34 e0).trans ?_) hw
  simp only [decodeMajor34, e1, e2, e3, e4, e5]

theorem pushq (a b : Nat) : Statement (.pushq a b) := by
  intro wd hw h
  have hb : (decide (a < 32) && decide (b < 32) && decide (a ≤ 3)) = true := hw
  have h2 : some (0xd4000000 + put a 21 + put b 16) = some wd := h
  have he := (Option.some.inj h2).symm
  simp only [Bool.and_eq_true, decide_eq_true_eq] at hb
  obtain ⟨⟨hb0, hb1⟩, hb2⟩ := hb
  obtain ⟨hlt, e0, e1, e2, e3, e4, e5⟩ := shape10 wd 0x35 a b 0 0 0 (by rw [he]; first | done | (simp only [put]; done) | (simp only [put]; omega)) (by decide) (by assumption) (by assumption) (by decide) (by decide) (by decide)
  refine ⟨hlt, ?_⟩
  refine decodeWord_of ((fields35 e0).trans ?_) hw
  simp only [decodeMajor35, e1, e2, e3, e4, e5, if_true, and_self]

theorem popq (d b : Nat) : Statement (.popq d b) := by
  intro wd hw h
  have hb : (decide (d < 32) && decide (b < 32) && decide (4 ≤ b) && decide (b ≤ 7)) = true := hw
  have h2 : some (0xd4000001 + put d 21 + put b 16) = some wd := h
  have he := (Option.some.inj h2).symm
  simp only [Bool.and_eq_true, decide_eq_true_eq] at hb
  obtain ⟨⟨⟨hb0, hb1⟩, hb2⟩, hb3⟩ := hb
  obtain ⟨hlt, e0, e1, e2, e3, e4, e5⟩ := shape10 wd 0x35 d b 0 0 1 (by rw [he]; first | done | (simp only [put]; done) | (simp only [put]; omega)) (by decide) (by assumption) (by assumption) (by decide) (by decide) (by decide)
  refine ⟨hlt, ?_⟩
  refine decodeWord_of ((fields35 e0).trans ?_) hw
  simp only [decodeMajor35, e1, e2, e3, e4, e5, if_true, and_self]

theorem vsend (a b m : Nat) : Statement (.vsend a b m) := by
  intro wd hw h
  have hb : (decide (a < 32) && decide (b < 32) && decide (m < 8)) = true := hw
  have h2 : some (0xd8000000 + put a 21 + put b 16 + put m 8) = some wd := h
  have he := (Option.some.inj h2).symm
  simp only [Bool.and_eq_true, decide_eq_true_eq] at hb
  obtain ⟨⟨hb0, hb1⟩, hb2⟩ := hb
  obtain ⟨hlt, e0, e1, e2, e3, e4, e5⟩ := shape10 wd 0x36 a b 0 m 0 (by rw [he]; first | done | (simp only [put]; done) | (simp only [put]; omega)) (by decide) (by assumption) (by assumption) (by decide) (by assumption) (by decide)
  refine ⟨hlt, ?_⟩
  refine decodeWord_of ((fields36 e0).trans ?_) hw
  simp only [decodeMajor36, e1, e2, e3, e4, e5, if_true]

theorem vrecv (a b : Nat) : Statement (.vrecv a b) := by
  intro wd hw h
  have hb : (decide (a < 32) && decide (b < 32)) = true := hw
  have h2 : some (0xd8000001 + put a 21 + put b 16) = some wd := h
  have he := (Option.some.inj h2).symm
  simp only [Bool.and_eq_true, decide_eq_true_eq] at hb
  obtain ⟨hb0, hb1⟩ := hb
  obtain ⟨hlt, e0, e1, e2, e3, e4, e5⟩ := shape10 wd 0x36 a b 0 0 1 (by rw [he]; first | done | (simp only [put]; done) | (simp only [put]; omega)) (by decide) (by assumption) (by assumption) (by decide) (by decide) (by decide)
  refine ⟨hlt, ?_⟩
  refine decodeWord_of ((fields36 e0).trans ?_) hw
  simp only [decodeMajor36, e1, e2, e3, e4, e5, if_true, and_self]

theorem fred (a b c : Nat) : Statement (.fred a b c) := by
  intro wd hw h
  have hb : (decide (a < 32) && decide (b < 32) && decide (c < 32)) = true := hw
  have h2 : some (0xdc000000 + put a 21 + put b 16 + put c 11) = some wd := h
  have he := (Option.some.inj h2).symm
  simp only [Bool.and_eq_true, decide_eq_true_eq] at hb
  obtain ⟨⟨hb0, hb1⟩, hb2⟩ := hb
  obtain ⟨hlt, e0, e1, e2, e3, e4, e5⟩ := shape10 wd 0x37 a b c 0 0 (by rw [he]; first | done | (simp only [put]; done) | (simp only [put]; omega)) (by decide) (by assumption) (by assumption) (by assumption) (by decide) (by decide)
  refine ⟨hlt, ?_⟩
  refine decodeWord_of ((fields37 e0).trans ?_) hw
  simp only [decodeMajor37, e1, e2, e3, e4, e5, if_true]

theorem fredw (a b c : Nat) : Statement (.fredw a b c) := by
  intro wd hw h
  have hb : (decide (a < 32) && decide (b < 32) && decide (c < 32)) = true := hw
  have h2 : some (0xdc000001 + put a 21 + put b 16 + put c 11) = some wd := h
  have he := (Option.some.inj h2).symm
  simp only [Bool.and_eq_true, decide_eq_true_eq] at hb
  obtain ⟨⟨hb0, hb1⟩, hb2⟩ := hb
  obtain ⟨hlt, e0, e1, e2, e3, e4, e5⟩ := shape10 wd 0x37 a b c 0 1 (by rw [he]; first | done | (simp only [put]; done) | (simp only [put]; omega)) (by decide) (by assumption) (by assumption) (by assumption) (by decide) (by decide)
  refine ⟨hlt, ?_⟩
  refine decodeWord_of ((fields37 e0).trans ?_) hw
  simp only [decodeMajor37, e1, e2, e3, e4, e5, if_true]

theorem ldstandLatest (a b c : Nat) : Statement (.ldstandLatest a b c) := by
  intro wd hw h
  have hb : (decide (a < 32) && decide (b < 32) && decide (c < 32)) = true := hw
  have h2 : some (0xe0000000 + put a 21 + put b 16 + put c 11) = some wd := h
  have he := (Option.some.inj h2).symm
  simp only [Bool.and_eq_true, decide_eq_true_eq] at hb
  obtain ⟨⟨hb0, hb1⟩, hb2⟩ := hb
  obtain ⟨hlt, e0, e1, e2, e3, e4, e5⟩ := shape10 wd 0x38 a b c 0 0 (by rw [he]; first | done | (simp only [put]; done) | (simp only [put]; omega)) (by decide) (by assumption) (by assumption) (by assumption) (by decide) (by decide)
  refine ⟨hlt, ?_⟩
  refine decodeWord_of ((fields38 e0).trans ?_) hw
  simp only [decodeMajor38, e1, e2, e3, e4, e5, if_true]

theorem ldstandQueue (a b c : Nat) : Statement (.ldstandQueue a b c) := by
  intro wd hw h
  have hb : (decide (a < 32) && decide (b < 32) && decide (c < 32)) = true := hw
  have h2 : some (0xe0000001 + put a 21 + put b 16 + put c 11) = some wd := h
  have he := (Option.some.inj h2).symm
  simp only [Bool.and_eq_true, decide_eq_true_eq] at hb
  obtain ⟨⟨hb0, hb1⟩, hb2⟩ := hb
  obtain ⟨hlt, e0, e1, e2, e3, e4, e5⟩ := shape10 wd 0x38 a b c 0 1 (by rw [he]; first | done | (simp only [put]; done) | (simp only [put]; omega)) (by decide) (by assumption) (by assumption) (by assumption) (by decide) (by decide)
  refine ⟨hlt, ?_⟩
  refine decodeWord_of ((fields38 e0).trans ?_) hw
  simp only [decodeMajor38, e1, e2, e3, e4, e5, if_true]

theorem slotrd (a b c : Nat) : Statement (.slotrd a b c) := by
  intro wd hw h
  have hb : (decide (a < 32) && decide (b < 32) && decide (c < 32)) = true := hw
  have h2 : some (0xe0000002 + put a 21 + put b 16 + put c 11) = some wd := h
  have he := (Option.some.inj h2).symm
  simp only [Bool.and_eq_true, decide_eq_true_eq] at hb
  obtain ⟨⟨hb0, hb1⟩, hb2⟩ := hb
  obtain ⟨hlt, e0, e1, e2, e3, e4, e5⟩ := shape10 wd 0x38 a b c 0 2 (by rw [he]; first | done | (simp only [put]; done) | (simp only [put]; omega)) (by decide) (by assumption) (by assumption) (by assumption) (by decide) (by decide)
  refine ⟨hlt, ?_⟩
  refine decodeWord_of ((fields38 e0).trans ?_) hw
  simp only [decodeMajor38, e1, e2, e3, e4, e5, if_true]

theorem unsub (a b : Nat) : Statement (.unsub a b) := by
  intro wd hw h
  have hb : (decide (a < 32) && decide (b < 32)) = true := hw
  have h2 : some (0xe0000003 + put a 21 + put b 16) = some wd := h
  have he := (Option.some.inj h2).symm
  simp only [Bool.and_eq_true, decide_eq_true_eq] at hb
  obtain ⟨hb0, hb1⟩ := hb
  obtain ⟨hlt, e0, e1, e2, e3, e4, e5⟩ := shape10 wd 0x38 a b 0 0 3 (by rw [he]; first | done | (simp only [put]; done) | (simp only [put]; omega)) (by decide) (by assumption) (by assumption) (by decide) (by decide) (by decide)
  refine ⟨hlt, ?_⟩
  refine decodeWord_of ((fields38 e0).trans ?_) hw
  simp only [decodeMajor38, e1, e2, e3, e4, e5, if_true, and_self]

theorem stepinv (s : Nat) : Statement (.stepinv s) := by
  intro wd hw h
  have hb : (decide (s < 8) && decide (4 ≤ s) && decide (s ≤ 6)) = true := hw
  have h2 : some (0xe0000004 + put s 8) = some wd := h
  have he := (Option.some.inj h2).symm
  simp only [Bool.and_eq_true, decide_eq_true_eq] at hb
  obtain ⟨⟨hb0, hb1⟩, hb2⟩ := hb
  obtain ⟨hlt, e0, e1, e2, e3, e4, e5⟩ := shape10 wd 0x38 0 0 0 s 4 (by rw [he]; first | done | (simp only [put]; done) | (simp only [put]; omega)) (by decide) (by decide) (by decide) (by decide) (by assumption) (by decide)
  refine ⟨hlt, ?_⟩
  refine decodeWord_of ((fields38 e0).trans ?_) hw
  simp only [decodeMajor38, e1, e2, e3, e4, e5, if_true, and_self]

theorem smax (a b : Nat) : Statement (.smax a b) := by
  intro wd hw h
  have hb : (decide (a < 32) && decide (b < 32)) = true := hw
  have h2 : some (0xe4000000 + put a 21 + put b 16) = some wd := h
  have he := (Option.some.inj h2).symm
  simp only [Bool.and_eq_true, decide_eq_true_eq] at hb
  obtain ⟨hb0, hb1⟩ := hb
  obtain ⟨hlt, e0, e1, e2, e3, e4, e5⟩ := shape10 wd 0x39 a b 0 0 0 (by rw [he]; first | done | (simp only [put]; done) | (simp only [put]; omega)) (by decide) (by assumption) (by assumption) (by decide) (by decide) (by decide)
  refine ⟨hlt, ?_⟩
  refine decodeWord_of ((fields39 e0).trans ?_) hw
  simp only [decodeMajor39, e1, e2, e3, e4, e5, if_true, and_self]

theorem skth (a b c : Nat) : Statement (.skth a b c) := by
  intro wd hw h
  have hb : (decide (a < 32) && decide (b < 32) && decide (c < 32)) = true := hw
  have h2 : some (0xe4000001 + put a 21 + put b 16 + put c 11) = some wd := h
  have he := (Option.some.inj h2).symm
  simp only [Bool.and_eq_true, decide_eq_true_eq] at hb
  obtain ⟨⟨hb0, hb1⟩, hb2⟩ := hb
  obtain ⟨hlt, e0, e1, e2, e3, e4, e5⟩ := shape10 wd 0x39 a b c 0 1 (by rw [he]; first | done | (simp only [put]; done) | (simp only [put]; omega)) (by decide) (by assumption) (by assumption) (by assumption) (by decide) (by decide)
  refine ⟨hlt, ?_⟩
  refine decodeWord_of ((fields39 e0).trans ?_) hw
  simp only [decodeMajor39, e1, e2, e3, e4, e5, if_true]

theorem swgt (a b c : Nat) : Statement (.swgt a b c) := by
  intro wd hw h
  have hb : (decide (a < 32) && decide (b < 32) && decide (c < 32)) = true := hw
  have h2 : some (0xe4000002 + put a 21 + put b 16 + put c 11) = some wd := h
  have he := (Option.some.inj h2).symm
  simp only [Bool.and_eq_true, decide_eq_true_eq] at hb
  obtain ⟨⟨hb0, hb1⟩, hb2⟩ := hb
  obtain ⟨hlt, e0, e1, e2, e3, e4, e5⟩ := shape10 wd 0x39 a b c 0 2 (by rw [he]; first | done | (simp only [put]; done) | (simp only [put]; omega)) (by decide) (by assumption) (by assumption) (by assumption) (by decide) (by decide)
  refine ⟨hlt, ?_⟩
  refine decodeWord_of ((fields39 e0).trans ?_) hw
  simp only [decodeMajor39, e1, e2, e3, e4, e5, if_true]

theorem stopp (a b c : Nat) : Statement (.stopp a b c) := by
  intro wd hw h
  have hb : (decide (a < 32) && decide (b < 32) && decide (c < 32)) = true := hw
  have h2 : some (0xe4000003 + put a 21 + put b 16 + put c 11) = some wd := h
  have he := (Option.some.inj h2).symm
  simp only [Bool.and_eq_true, decide_eq_true_eq] at hb
  obtain ⟨⟨hb0, hb1⟩, hb2⟩ := hb
  obtain ⟨hlt, e0, e1, e2, e3, e4, e5⟩ := shape10 wd 0x39 a b c 0 3 (by rw [he]; first | done | (simp only [put]; done) | (simp only [put]; omega)) (by decide) (by assumption) (by assumption) (by assumption) (by decide) (by decide)
  refine ⟨hlt, ?_⟩
  refine decodeWord_of ((fields39 e0).trans ?_) hw
  simp only [decodeMajor39, e1, e2, e3, e4, e5, if_true]

theorem sdraw (a b c : Nat) : Statement (.sdraw a b c) := by
  intro wd hw h
  have hb : (decide (a < 32) && decide (b < 32) && decide (c < 32)) = true := hw
  have h2 : some (0xe4000004 + put a 21 + put b 16 + put c 11) = some wd := h
  have he := (Option.some.inj h2).symm
  simp only [Bool.and_eq_true, decide_eq_true_eq] at hb
  obtain ⟨⟨hb0, hb1⟩, hb2⟩ := hb
  obtain ⟨hlt, e0, e1, e2, e3, e4, e5⟩ := shape10 wd 0x39 a b c 0 4 (by rw [he]; first | done | (simp only [put]; done) | (simp only [put]; omega)) (by decide) (by assumption) (by assumption) (by assumption) (by decide) (by decide)
  refine ⟨hlt, ?_⟩
  refine decodeWord_of ((fields39 e0).trans ?_) hw
  simp only [decodeMajor39, e1, e2, e3, e4, e5, if_true]

theorem sdrawHw (a b c : Nat) : Statement (.sdrawHw a b c) := by
  intro wd hw h
  have hb : (decide (a < 32) && decide (b < 32) && decide (c < 32)) = true := hw
  have h2 : some (0xe4000005 + put a 21 + put b 16 + put c 11) = some wd := h
  have he := (Option.some.inj h2).symm
  simp only [Bool.and_eq_true, decide_eq_true_eq] at hb
  obtain ⟨⟨hb0, hb1⟩, hb2⟩ := hb
  obtain ⟨hlt, e0, e1, e2, e3, e4, e5⟩ := shape10 wd 0x39 a b c 0 5 (by rw [he]; first | done | (simp only [put]; done) | (simp only [put]; omega)) (by decide) (by assumption) (by assumption) (by assumption) (by decide) (by decide)
  refine ⟨hlt, ?_⟩
  refine decodeWord_of ((fields39 e0).trans ?_) hw
  simp only [decodeMajor39, e1, e2, e3, e4, e5, if_true]

theorem pbind (a b : Nat) : Statement (.pbind a b) := by
  intro wd hw h
  have hb : (decide (a < 32) && decide (b < 32)) = true := hw
  have h2 : some (0xe8000000 + put a 21 + put b 16) = some wd := h
  have he := (Option.some.inj h2).symm
  simp only [Bool.and_eq_true, decide_eq_true_eq] at hb
  obtain ⟨hb0, hb1⟩ := hb
  obtain ⟨hlt, e0, e1, e2, e3, e4, e5⟩ := shape10 wd 0x3A a b 0 0 0 (by rw [he]; first | done | (simp only [put]; done) | (simp only [put]; omega)) (by decide) (by assumption) (by assumption) (by decide) (by decide) (by decide)
  refine ⟨hlt, ?_⟩
  refine decodeWord_of ((fields3A e0).trans ?_) hw
  simp only [decodeMajor3A, e1, e2, e3, e4, e5, if_true, and_self]

theorem papp (a b c : Nat) : Statement (.papp a b c) := by
  intro wd hw h
  have hb : (decide (a < 32) && decide (b < 32) && decide (c < 32)) = true := hw
  have h2 : some (0xe8000001 + put a 21 + put b 16 + put c 11) = some wd := h
  have he := (Option.some.inj h2).symm
  simp only [Bool.and_eq_true, decide_eq_true_eq] at hb
  obtain ⟨⟨hb0, hb1⟩, hb2⟩ := hb
  obtain ⟨hlt, e0, e1, e2, e3, e4, e5⟩ := shape10 wd 0x3A a b c 0 1 (by rw [he]; first | done | (simp only [put]; done) | (simp only [put]; omega)) (by decide) (by assumption) (by assumption) (by assumption) (by decide) (by decide)
  refine ⟨hlt, ?_⟩
  refine decodeWord_of ((fields3A e0).trans ?_) hw
  simp only [decodeMajor3A, e1, e2, e3, e4, e5, if_true]

theorem pld (a b c : Nat) : Statement (.pld a b c) := by
  intro wd hw h
  have hb : (decide (a < 32) && decide (b < 32) && decide (c < 32)) = true := hw
  have h2 : some (0xe8000002 + put a 21 + put b 16 + put c 11) = some wd := h
  have he := (Option.some.inj h2).symm
  simp only [Bool.and_eq_true, decide_eq_true_eq] at hb
  obtain ⟨⟨hb0, hb1⟩, hb2⟩ := hb
  obtain ⟨hlt, e0, e1, e2, e3, e4, e5⟩ := shape10 wd 0x3A a b c 0 2 (by rw [he]; first | done | (simp only [put]; done) | (simp only [put]; omega)) (by decide) (by assumption) (by assumption) (by assumption) (by decide) (by decide)
  refine ⟨hlt, ?_⟩
  refine decodeWord_of ((fields3A e0).trans ?_) hw
  simp only [decodeMajor3A, e1, e2, e3, e4, e5, if_true]

theorem psync (b : Nat) : Statement (.psync b) := by
  intro wd hw h
  have hb : (decide (b < 32)) = true := hw
  have h2 : some (0xe8000003 + put b 16) = some wd := h
  have he := (Option.some.inj h2).symm
  simp only [decide_eq_true_eq] at hb
  obtain ⟨hlt, e0, e1, e2, e3, e4, e5⟩ := shape10 wd 0x3A 0 b 0 0 3 (by rw [he]; first | done | (simp only [put]; done) | (simp only [put]; omega)) (by decide) (by decide) (by assumption) (by decide) (by decide) (by decide)
  refine ⟨hlt, ?_⟩
  refine decodeWord_of ((fields3A e0).trans ?_) hw
  simp only [decodeMajor3A, e1, e2, e3, e4, e5, if_true, and_self]

theorem pstat (a b : Nat) : Statement (.pstat a b) := by
  intro wd hw h
  have hb : (decide (a < 32) && decide (b < 32)) = true := hw
  have h2 : some (0xe8000004 + put a 21 + put b 16) = some wd := h
  have he := (Option.some.inj h2).symm
  simp only [Bool.and_eq_true, decide_eq_true_eq] at hb
  obtain ⟨hb0, hb1⟩ := hb
  obtain ⟨hlt, e0, e1, e2, e3, e4, e5⟩ := shape10 wd 0x3A a b 0 0 4 (by rw [he]; first | done | (simp only [put]; done) | (simp only [put]; omega)) (by decide) (by assumption) (by assumption) (by decide) (by decide) (by decide)
  refine ⟨hlt, ?_⟩
  refine decodeWord_of ((fields3A e0).trans ?_) hw
  simp only [decodeMajor3A, e1, e2, e3, e4, e5, if_true, and_self]

theorem pfree (b : Nat) : Statement (.pfree b) := by
  intro wd hw h
  have hb : (decide (b < 32)) = true := hw
  have h2 : some (0xe8000005 + put b 16) = some wd := h
  have he := (Option.some.inj h2).symm
  simp only [decide_eq_true_eq] at hb
  obtain ⟨hlt, e0, e1, e2, e3, e4, e5⟩ := shape10 wd 0x3A 0 b 0 0 5 (by rw [he]; first | done | (simp only [put]; done) | (simp only [put]; omega)) (by decide) (by decide) (by assumption) (by decide) (by decide) (by decide)
  refine ⟨hlt, ?_⟩
  refine decodeWord_of ((fields3A e0).trans ?_) hw
  simp only [decodeMajor3A, e1, e2, e3, e4, e5, if_true, and_self]

theorem kvmap (a b c : Nat) : Statement (.kvmap a b c) := by
  intro wd hw h
  have hb : (decide (a < 32) && decide (b < 32) && decide (c < 32)) = true := hw
  have h2 : some (0xec000000 + put a 21 + put b 16 + put c 11) = some wd := h
  have he := (Option.some.inj h2).symm
  simp only [Bool.and_eq_true, decide_eq_true_eq] at hb
  obtain ⟨⟨hb0, hb1⟩, hb2⟩ := hb
  obtain ⟨hlt, e0, e1, e2, e3, e4, e5⟩ := shape10 wd 0x3B a b c 0 0 (by rw [he]; first | done | (simp only [put]; done) | (simp only [put]; omega)) (by decide) (by assumption) (by assumption) (by assumption) (by decide) (by decide)
  refine ⟨hlt, ?_⟩
  refine decodeWord_of ((fields3B e0).trans ?_) hw
  simp only [decodeMajor3B, e1, e2, e3, e4, e5, if_true]

theorem kvld (a b c : Nat) : Statement (.kvld a b c) := by
  intro wd hw h
  have hb : (decide (a < 32) && decide (b < 32) && decide (c < 32)) = true := hw
  have h2 : some (0xec000001 + put a 21 + put b 16 + put c 11) = some wd := h
  have he := (Option.some.inj h2).symm
  simp only [Bool.and_eq_true, decide_eq_true_eq] at hb
  obtain ⟨⟨hb0, hb1⟩, hb2⟩ := hb
  obtain ⟨hlt, e0, e1, e2, e3, e4, e5⟩ := shape10 wd 0x3B a b c 0 1 (by rw [he]; first | done | (simp only [put]; done) | (simp only [put]; omega)) (by decide) (by assumption) (by assumption) (by assumption) (by decide) (by decide)
  refine ⟨hlt, ?_⟩
  refine decodeWord_of ((fields3B e0).trans ?_) hw
  simp only [decodeMajor3B, e1, e2, e3, e4, e5, if_true]

theorem kvldB (a b : Nat) : Statement (.kvldB a b) := by
  intro wd hw h
  have hb : (decide (a < 32) && decide (b < 32)) = true := hw
  have h2 : some (0xec000002 + put a 21 + put b 16) = some wd := h
  have he := (Option.some.inj h2).symm
  simp only [Bool.and_eq_true, decide_eq_true_eq] at hb
  obtain ⟨hb0, hb1⟩ := hb
  obtain ⟨hlt, e0, e1, e2, e3, e4, e5⟩ := shape10 wd 0x3B a b 0 0 2 (by rw [he]; first | done | (simp only [put]; done) | (simp only [put]; omega)) (by decide) (by assumption) (by assumption) (by decide) (by decide) (by decide)
  refine ⟨hlt, ?_⟩
  refine decodeWord_of ((fields3B e0).trans ?_) hw
  simp only [decodeMajor3B, e1, e2, e3, e4, e5, if_true, and_self]

theorem kvapp (a b c : Nat) : Statement (.kvapp a b c) := by
  intro wd hw h
  have hb : (decide (a < 32) && decide (b < 32) && decide (c < 32)) = true := hw
  have h2 : some (0xec000003 + put a 21 + put b 16 + put c 11) = some wd := h
  have he := (Option.some.inj h2).symm
  simp only [Bool.and_eq_true, decide_eq_true_eq] at hb
  obtain ⟨⟨hb0, hb1⟩, hb2⟩ := hb
  obtain ⟨hlt, e0, e1, e2, e3, e4, e5⟩ := shape10 wd 0x3B a b c 0 3 (by rw [he]; first | done | (simp only [put]; done) | (simp only [put]; omega)) (by decide) (by assumption) (by assumption) (by assumption) (by decide) (by decide)
  refine ⟨hlt, ?_⟩
  refine decodeWord_of ((fields3B e0).trans ?_) hw
  simp only [decodeMajor3B, e1, e2, e3, e4, e5, if_true]

theorem kvfork (b c : Nat) : Statement (.kvfork b c) := by
  intro wd hw h
  have hb : (decide (b < 32) && decide (c < 32)) = true := hw
  have h2 : some (0xec000004 + put b 16 + put c 11) = some wd := h
  have he := (Option.some.inj h2).symm
  simp only [Bool.and_eq_true, decide_eq_true_eq] at hb
  obtain ⟨hb0, hb1⟩ := hb
  obtain ⟨hlt, e0, e1, e2, e3, e4, e5⟩ := shape10 wd 0x3B 0 b c 0 4 (by rw [he]; first | done | (simp only [put]; done) | (simp only [put]; omega)) (by decide) (by decide) (by assumption) (by assumption) (by decide) (by decide)
  refine ⟨hlt, ?_⟩
  refine decodeWord_of ((fields3B e0).trans ?_) hw
  simp only [decodeMajor3B, e1, e2, e3, e4, e5, if_true, and_self]

theorem kvrel (b : Nat) : Statement (.kvrel b) := by
  intro wd hw h
  have hb : (decide (b < 32)) = true := hw
  have h2 : some (0xec000005 + put b 16) = some wd := h
  have he := (Option.some.inj h2).symm
  simp only [decide_eq_true_eq] at hb
  obtain ⟨hlt, e0, e1, e2, e3, e4, e5⟩ := shape10 wd 0x3B 0 b 0 0 5 (by rw [he]; first | done | (simp only [put]; done) | (simp only [put]; omega)) (by decide) (by decide) (by assumption) (by decide) (by decide) (by decide)
  refine ⟨hlt, ?_⟩
  refine decodeWord_of ((fields3B e0).trans ?_) hw
  simp only [decodeMajor3B, e1, e2, e3, e4, e5, if_true, and_self]

theorem kvcow (b c : Nat) : Statement (.kvcow b c) := by
  intro wd hw h
  have hb : (decide (b < 32) && decide (c < 32)) = true := hw
  have h2 : some (0xec000006 + put b 16 + put c 11) = some wd := h
  have he := (Option.some.inj h2).symm
  simp only [Bool.and_eq_true, decide_eq_true_eq] at hb
  obtain ⟨hb0, hb1⟩ := hb
  obtain ⟨hlt, e0, e1, e2, e3, e4, e5⟩ := shape10 wd 0x3B 0 b c 0 6 (by rw [he]; first | done | (simp only [put]; done) | (simp only [put]; omega)) (by decide) (by decide) (by assumption) (by assumption) (by decide) (by decide)
  refine ⟨hlt, ?_⟩
  refine decodeWord_of ((fields3B e0).trans ?_) hw
  simp only [decodeMajor3B, e1, e2, e3, e4, e5, if_true, and_self]

theorem kvforkM (b c : Nat) : Statement (.kvforkM b c) := by
  intro wd hw h
  have hb : (decide (b < 32) && decide (c < 32)) = true := hw
  have h2 : some (0xec000007 + put b 16 + put c 11) = some wd := h
  have he := (Option.some.inj h2).symm
  simp only [Bool.and_eq_true, decide_eq_true_eq] at hb
  obtain ⟨hb0, hb1⟩ := hb
  obtain ⟨hlt, e0, e1, e2, e3, e4, e5⟩ := shape10 wd 0x3B 0 b c 0 7 (by rw [he]; first | done | (simp only [put]; done) | (simp only [put]; omega)) (by decide) (by decide) (by assumption) (by assumption) (by decide) (by decide)
  refine ⟨hlt, ?_⟩
  refine decodeWord_of ((fields3B e0).trans ?_) hw
  simp only [decodeMajor3B, e1, e2, e3, e4, e5, if_true, and_self]

theorem fenceSv (s : Nat) : Statement (.fenceSv s) := by
  intro wd hw h
  have hb : (decide (s < 8) && decide (s ≤ 6)) = true := hw
  have h2 : some (0xf0000000 + put s 8) = some wd := h
  have he := (Option.some.inj h2).symm
  simp only [Bool.and_eq_true, decide_eq_true_eq] at hb
  obtain ⟨hb0, hb1⟩ := hb
  obtain ⟨hlt, e0, e1, e2, e3, e4, e5⟩ := shape10 wd 0x3C 0 0 0 s 0 (by rw [he]; first | done | (simp only [put]; done) | (simp only [put]; omega)) (by decide) (by decide) (by decide) (by decide) (by assumption) (by decide)
  refine ⟨hlt, ?_⟩
  refine decodeWord_of ((fields3C e0).trans ?_) hw
  simp only [decodeMajor3C, e1, e2, e3, e4, e5, if_true, and_self]

theorem fenceVs (s : Nat) : Statement (.fenceVs s) := by
  intro wd hw h
  have hb : (decide (s < 8) && decide (s ≤ 6)) = true := hw
  have h2 : some (0xf0000001 + put s 8) = some wd := h
  have he := (Option.some.inj h2).symm
  simp only [Bool.and_eq_true, decide_eq_true_eq] at hb
  obtain ⟨hb0, hb1⟩ := hb
  obtain ⟨hlt, e0, e1, e2, e3, e4, e5⟩ := shape10 wd 0x3C 0 0 0 s 1 (by rw [he]; first | done | (simp only [put]; done) | (simp only [put]; omega)) (by decide) (by decide) (by decide) (by decide) (by assumption) (by decide)
  refine ⟨hlt, ?_⟩
  refine decodeWord_of ((fields3C e0).trans ?_) hw
  simp only [decodeMajor3C, e1, e2, e3, e4, e5, if_true, and_self]

theorem fenceSvb (s : Nat) : Statement (.fenceSvb s) := by
  intro wd hw h
  have hb : (decide (s < 8) && decide (s ≤ 6)) = true := hw
  have h2 : some (0xf0000002 + put s 8) = some wd := h
  have he := (Option.some.inj h2).symm
  simp only [Bool.and_eq_true, decide_eq_true_eq] at hb
  obtain ⟨hb0, hb1⟩ := hb
  obtain ⟨hlt, e0, e1, e2, e3, e4, e5⟩ := shape10 wd 0x3C 0 0 0 s 2 (by rw [he]; first | done | (simp only [put]; done) | (simp only [put]; omega)) (by decide) (by decide) (by decide) (by decide) (by assumption) (by decide)
  refine ⟨hlt, ?_⟩
  refine decodeWord_of ((fields3C e0).trans ?_) hw
  simp only [decodeMajor3C, e1, e2, e3, e4, e5, if_true, and_self]

theorem fenceRel (s : Nat) : Statement (.fenceRel s) := by
  intro wd hw h
  have hb : (decide (s < 8) && decide (s ≤ 6)) = true := hw
  have h2 : some (0xf0000003 + put s 8) = some wd := h
  have he := (Option.some.inj h2).symm
  simp only [Bool.and_eq_true, decide_eq_true_eq] at hb
  obtain ⟨hb0, hb1⟩ := hb
  obtain ⟨hlt, e0, e1, e2, e3, e4, e5⟩ := shape10 wd 0x3C 0 0 0 s 3 (by rw [he]; first | done | (simp only [put]; done) | (simp only [put]; omega)) (by decide) (by decide) (by decide) (by decide) (by assumption) (by decide)
  refine ⟨hlt, ?_⟩
  refine decodeWord_of ((fields3C e0).trans ?_) hw
  simp only [decodeMajor3C, e1, e2, e3, e4, e5, if_true, and_self]

theorem fenceAcq (s : Nat) : Statement (.fenceAcq s) := by
  intro wd hw h
  have hb : (decide (s < 8) && decide (s ≤ 6)) = true := hw
  have h2 : some (0xf0000004 + put s 8) = some wd := h
  have he := (Option.some.inj h2).symm
  simp only [Bool.and_eq_true, decide_eq_true_eq] at hb
  obtain ⟨hb0, hb1⟩ := hb
  obtain ⟨hlt, e0, e1, e2, e3, e4, e5⟩ := shape10 wd 0x3C 0 0 0 s 4 (by rw [he]; first | done | (simp only [put]; done) | (simp only [put]; omega)) (by decide) (by decide) (by decide) (by decide) (by assumption) (by decide)
  refine ⟨hlt, ?_⟩
  refine decodeWord_of ((fields3C e0).trans ?_) hw
  simp only [decodeMajor3C, e1, e2, e3, e4, e5, if_true, and_self]

theorem fenceRow (s : Nat) : Statement (.fenceRow s) := by
  intro wd hw h
  have hb : (decide (s < 8) && decide (s ≤ 6)) = true := hw
  have h2 : some (0xf0000005 + put s 8) = some wd := h
  have he := (Option.some.inj h2).symm
  simp only [Bool.and_eq_true, decide_eq_true_eq] at hb
  obtain ⟨hb0, hb1⟩ := hb
  obtain ⟨hlt, e0, e1, e2, e3, e4, e5⟩ := shape10 wd 0x3C 0 0 0 s 5 (by rw [he]; first | done | (simp only [put]; done) | (simp only [put]; omega)) (by decide) (by decide) (by decide) (by decide) (by assumption) (by decide)
  refine ⟨hlt, ?_⟩
  refine decodeWord_of ((fields3C e0).trans ?_) hw
  simp only [decodeMajor3C, e1, e2, e3, e4, e5, if_true, and_self]

theorem vbar (s : Nat) : Statement (.vbar s) := by
  intro wd hw h
  have hb : (decide (s < 8) && decide (s ≤ 6)) = true := hw
  have h2 : some (0xf0000006 + put s 8) = some wd := h
  have he := (Option.some.inj h2).symm
  simp only [Bool.and_eq_true, decide_eq_true_eq] at hb
  obtain ⟨hb0, hb1⟩ := hb
  obtain ⟨hlt, e0, e1, e2, e3, e4, e5⟩ := shape10 wd 0x3C 0 0 0 s 6 (by rw [he]; first | done | (simp only [put]; done) | (simp only [put]; omega)) (by decide) (by decide) (by decide) (by decide) (by assumption) (by decide)
  refine ⟨hlt, ?_⟩
  refine decodeWord_of ((fields3C e0).trans ?_) hw
  simp only [decodeMajor3C, e1, e2, e3, e4, e5, if_true, and_self]

theorem gbar (s : Nat) : Statement (.gbar s) := by
  intro wd hw h
  have hb : (decide (s < 8) && decide (1 ≤ s) && decide (s ≤ 6)) = true := hw
  have h2 : some (0xf0000007 + put s 8) = some wd := h
  have he := (Option.some.inj h2).symm
  simp only [Bool.and_eq_true, decide_eq_true_eq] at hb
  obtain ⟨⟨hb0, hb1⟩, hb2⟩ := hb
  obtain ⟨hlt, e0, e1, e2, e3, e4, e5⟩ := shape10 wd 0x3C 0 0 0 s 7 (by rw [he]; first | done | (simp only [put]; done) | (simp only [put]; omega)) (by decide) (by decide) (by decide) (by decide) (by assumption) (by decide)
  refine ⟨hlt, ?_⟩
  refine decodeWord_of ((fields3C e0).trans ?_) hw
  simp only [decodeMajor3C, e1, e2, e3, e4, e5, if_true, and_self]

theorem addi (d a i : Nat) : Statement (.addi d a i) := by
  intro wd hw h
  have hb : (decide (d < 32) && decide (a < 32) && decide (i < 65536)) = true := hw
  have h2 : some (0x08000000 + put d 21 + put a 16 + i) = some wd := h
  have he := (Option.some.inj h2).symm
  simp only [Bool.and_eq_true, decide_eq_true_eq] at hb
  obtain ⟨⟨hb0, hb1⟩, hb2⟩ := hb
  obtain ⟨hlt, e0, e1, e2, e3⟩ := shape2 wd 0x02 d a i (by rw [he]; first | done | (simp only [put]; done) | (simp only [put]; omega)) (by decide) (by assumption) (by assumption) (by assumption)
  refine ⟨hlt, ?_⟩
  refine decodeWord_of ((fields02 e0).trans ?_) hw
  simp only [decodeMajor02, e1, e2, e3]

theorem ori (d a i : Nat) : Statement (.ori d a i) := by
  intro wd hw h
  have hb : (decide (d < 32) && decide (a < 32) && decide (i < 65536)) = true := hw
  have h2 : some (0x0c000000 + put d 21 + put a 16 + i) = some wd := h
  have he := (Option.some.inj h2).symm
  simp only [Bool.and_eq_true, decide_eq_true_eq] at hb
  obtain ⟨⟨hb0, hb1⟩, hb2⟩ := hb
  obtain ⟨hlt, e0, e1, e2, e3⟩ := shape2 wd 0x03 d a i (by rw [he]; first | done | (simp only [put]; done) | (simp only [put]; omega)) (by decide) (by assumption) (by assumption) (by assumption)
  refine ⟨hlt, ?_⟩
  refine decodeWord_of ((fields03 e0).trans ?_) hw
  simp only [decodeMajor03, e1, e2, e3]

theorem lui (d i : Nat) : Statement (.lui d i) := by
  intro wd hw h
  have hb : (decide (d < 32) && decide (i < 65536)) = true := hw
  have h2 : some (0x10000000 + put d 21 + i) = some wd := h
  have he := (Option.some.inj h2).symm
  simp only [Bool.and_eq_true, decide_eq_true_eq] at hb
  obtain ⟨hb0, hb1⟩ := hb
  obtain ⟨hlt, e0, e1, e2, e3⟩ := shape2 wd 0x04 d 0 i (by rw [he]; first | done | (simp only [put]; done) | (simp only [put]; omega)) (by decide) (by assumption) (by decide) (by assumption)
  refine ⟨hlt, ?_⟩
  refine decodeWord_of ((fields04 e0).trans ?_) hw
  simp only [decodeMajor04, e1, e2, e3, if_true]

theorem j (o : Nat) : Statement (.j o) := by
  intro wd hw h
  have hb : (decide (o < 67108864)) = true := hw
  have h2 : some (0x14000000 + o) = some wd := h
  have he := (Option.some.inj h2).symm
  simp only [decide_eq_true_eq] at hb
  obtain ⟨hlt, e0, e1⟩ := shape11 wd 0x05 o (by omega) (by decide) (by assumption)
  refine ⟨hlt, ?_⟩
  refine decodeWord_of ((fields05 e0).trans ?_) hw
  simp only [decodeMajor05, e1]

theorem jal (o : Nat) : Statement (.jal o) := by
  intro wd hw h
  have hb : (decide (o < 67108864)) = true := hw
  have h2 : some (0x18000000 + o) = some wd := h
  have he := (Option.some.inj h2).symm
  simp only [decide_eq_true_eq] at hb
  obtain ⟨hlt, e0, e1⟩ := shape11 wd 0x06 o (by omega) (by decide) (by assumption)
  refine ⟨hlt, ?_⟩
  refine decodeWord_of ((fields06 e0).trans ?_) hw
  simp only [decodeMajor06, e1]

theorem stD (d a i : Nat) : Statement (.stD d a i) := by
  intro wd hw h
  have hb : (decide (d < 32) && decide (a < 32) && decide (i < 65536)) = true := hw
  have h2 : some (0x1c000000 + put d 21 + put a 16 + i) = some wd := h
  have he := (Option.some.inj h2).symm
  simp only [Bool.and_eq_true, decide_eq_true_eq] at hb
  obtain ⟨⟨hb0, hb1⟩, hb2⟩ := hb
  obtain ⟨hlt, e0, e1, e2, e3⟩ := shape2 wd 0x07 d a i (by rw [he]; first | done | (simp only [put]; done) | (simp only [put]; omega)) (by decide) (by assumption) (by assumption) (by assumption)
  refine ⟨hlt, ?_⟩
  refine decodeWord_of ((fields07 e0).trans ?_) hw
  simp only [decodeMajor07, e1, e2, e3]

theorem ldD (d a i : Nat) : Statement (.ldD d a i) := by
  intro wd hw h
  have hb : (decide (d < 32) && decide (a < 32) && decide (i < 65536)) = true := hw
  have h2 : some (0x2c000000 + put d 21 + put a 16 + i) = some wd := h
  have he := (Option.some.inj h2).symm
  simp only [Bool.and_eq_true, decide_eq_true_eq] at hb
  obtain ⟨⟨hb0, hb1⟩, hb2⟩ := hb
  obtain ⟨hlt, e0, e1, e2, e3⟩ := shape2 wd 0x0B d a i (by rw [he]; first | done | (simp only [put]; done) | (simp only [put]; omega)) (by decide) (by assumption) (by assumption) (by assumption)
  refine ⟨hlt, ?_⟩
  refine decodeWord_of ((fields0B e0).trans ?_) hw
  simp only [decodeMajor0B, e1, e2, e3]

theorem beq (a b o : Nat) : Statement (.beq a b o) := by
  intro wd hw h
  have hb : (decide (a < 32) && decide (b < 32) && decide (o < 65536)) = true := hw
  have h2 : some (0x20000000 + put a 21 + put b 16 + o) = some wd := h
  have he := (Option.some.inj h2).symm
  simp only [Bool.and_eq_true, decide_eq_true_eq] at hb
  obtain ⟨⟨hb0, hb1⟩, hb2⟩ := hb
  obtain ⟨hlt, e0, e1, e2, e3⟩ := shape2 wd 0x08 a b o (by rw [he]; first | done | (simp only [put]; done) | (simp only [put]; omega)) (by decide) (by assumption) (by assumption) (by assumption)
  refine ⟨hlt, ?_⟩
  refine decodeWord_of ((fields08 e0).trans ?_) hw
  simp only [decodeMajor08, e1, e2, e3]

theorem bne (a b o : Nat) : Statement (.bne a b o) := by
  intro wd hw h
  have hb : (decide (a < 32) && decide (b < 32) && decide (o < 65536)) = true := hw
  have h2 : some (0x24000000 + put a 21 + put b 16 + o) = some wd := h
  have he := (Option.some.inj h2).symm
  simp only [Bool.and_eq_true, decide_eq_true_eq] at hb
  obtain ⟨⟨hb0, hb1⟩, hb2⟩ := hb
  obtain ⟨hlt, e0, e1, e2, e3⟩ := shape2 wd 0x09 a b o (by rw [he]; first | done | (simp only [put]; done) | (simp only [put]; omega)) (by decide) (by assumption) (by assumption) (by assumption)
  refine ⟨hlt, ?_⟩
  refine decodeWord_of ((fields09 e0).trans ?_) hw
  simp only [decodeMajor09, e1, e2, e3]

theorem blt (a b o : Nat) : Statement (.blt a b o) := by
  intro wd hw h
  have hb : (decide (a < 32) && decide (b < 32) && decide (o < 65536)) = true := hw
  have h2 : some (0x28000000 + put a 21 + put b 16 + o) = some wd := h
  have he := (Option.some.inj h2).symm
  simp only [Bool.and_eq_true, decide_eq_true_eq] at hb
  obtain ⟨⟨hb0, hb1⟩, hb2⟩ := hb
  obtain ⟨hlt, e0, e1, e2, e3⟩ := shape2 wd 0x0A a b o (by rw [he]; first | done | (simp only [put]; done) | (simp only [put]; omega)) (by decide) (by assumption) (by assumption) (by assumption)
  refine ⟨hlt, ?_⟩
  refine decodeWord_of ((fields0A e0).trans ?_) hw
  simp only [decodeMajor0A, e1, e2, e3]

theorem bge (a b o : Nat) : Statement (.bge a b o) := by
  intro wd hw h
  have hb : (decide (a < 32) && decide (b < 32) && decide (o < 65536)) = true := hw
  have h2 : some (0x30000000 + put a 21 + put b 16 + o) = some wd := h
  have he := (Option.some.inj h2).symm
  simp only [Bool.and_eq_true, decide_eq_true_eq] at hb
  obtain ⟨⟨hb0, hb1⟩, hb2⟩ := hb
  obtain ⟨hlt, e0, e1, e2, e3⟩ := shape2 wd 0x0C a b o (by rw [he]; first | done | (simp only [put]; done) | (simp only [put]; omega)) (by decide) (by assumption) (by assumption) (by assumption)
  refine ⟨hlt, ?_⟩
  refine decodeWord_of ((fields0C e0).trans ?_) hw
  simp only [decodeMajor0C, e1, e2, e3]

theorem bltu (a b o : Nat) : Statement (.bltu a b o) := by
  intro wd hw h
  have hb : (decide (a < 32) && decide (b < 32) && decide (o < 65536)) = true := hw
  have h2 : some (0x34000000 + put a 21 + put b 16 + o) = some wd := h
  have he := (Option.some.inj h2).symm
  simp only [Bool.and_eq_true, decide_eq_true_eq] at hb
  obtain ⟨⟨hb0, hb1⟩, hb2⟩ := hb
  obtain ⟨hlt, e0, e1, e2, e3⟩ := shape2 wd 0x0D a b o (by rw [he]; first | done | (simp only [put]; done) | (simp only [put]; omega)) (by decide) (by assumption) (by assumption) (by assumption)
  refine ⟨hlt, ?_⟩
  refine decodeWord_of ((fields0D e0).trans ?_) hw
  simp only [decodeMajor0D, e1, e2, e3]

theorem bgeu (a b o : Nat) : Statement (.bgeu a b o) := by
  intro wd hw h
  have hb : (decide (a < 32) && decide (b < 32) && decide (o < 65536)) = true := hw
  have h2 : some (0x38000000 + put a 21 + put b 16 + o) = some wd := h
  have he := (Option.some.inj h2).symm
  simp only [Bool.and_eq_true, decide_eq_true_eq] at hb
  obtain ⟨⟨hb0, hb1⟩, hb2⟩ := hb
  obtain ⟨hlt, e0, e1, e2, e3⟩ := shape2 wd 0x0E a b o (by rw [he]; first | done | (simp only [put]; done) | (simp only [put]; omega)) (by decide) (by assumption) (by assumption) (by assumption)
  refine ⟨hlt, ?_⟩
  refine decodeWord_of ((fields0E e0).trans ?_) hw
  simp only [decodeMajor0E, e1, e2, e3]

theorem add (d a b : Nat) : Statement (.add d a b) := by
  intro wd hw h
  have hb : (decide (d < 32) && decide (a < 32) && decide (b < 32)) = true := hw
  have h2 : some (0x04000000 + put d 21 + put a 16 + put b 11) = some wd := h
  have he := (Option.some.inj h2).symm
  simp only [Bool.and_eq_true, decide_eq_true_eq] at hb
  obtain ⟨⟨hb0, hb1⟩, hb2⟩ := hb
  obtain ⟨hlt, e0, e1, e2, e3, e4, e5⟩ := shape12 wd 0x01 d a b 0 0 (by rw [he]; first | done | (simp only [put]; done) | (simp only [put]; omega)) (by decide) (by assumption) (by assumption) (by assumption) (by decide) (by decide)
  refine ⟨hlt, ?_⟩
  refine decodeWord_of ((fields01 e0).trans ?_) hw
  simp only [decodeMajor01, e1, e2, e3, e4, e5]

theorem sub (d a b : Nat) : Statement (.sub d a b) := by
  intro wd hw h
  have hb : (decide (d < 32) && decide (a < 32) && decide (b < 32)) = true := hw
  have h2 : some (0x04000001 + put d 21 + put a 16 + put b 11) = some wd := h
  have he := (Option.some.inj h2).symm
  simp only [Bool.and_eq_true, decide_eq_true_eq] at hb
  obtain ⟨⟨hb0, hb1⟩, hb2⟩ := hb
  obtain ⟨hlt, e0, e1, e2, e3, e4, e5⟩ := shape12 wd 0x01 d a b 0 1 (by rw [he]; first | done | (simp only [put]; done) | (simp only [put]; omega)) (by decide) (by assumption) (by assumption) (by assumption) (by decide) (by decide)
  refine ⟨hlt, ?_⟩
  refine decodeWord_of ((fields01 e0).trans ?_) hw
  simp only [decodeMajor01, e1, e2, e3, e4, e5]

theorem and (d a b : Nat) : Statement (.and d a b) := by
  intro wd hw h
  have hb : (decide (d < 32) && decide (a < 32) && decide (b < 32)) = true := hw
  have h2 : some (0x04000002 + put d 21 + put a 16 + put b 11) = some wd := h
  have he := (Option.some.inj h2).symm
  simp only [Bool.and_eq_true, decide_eq_true_eq] at hb
  obtain ⟨⟨hb0, hb1⟩, hb2⟩ := hb
  obtain ⟨hlt, e0, e1, e2, e3, e4, e5⟩ := shape12 wd 0x01 d a b 0 2 (by rw [he]; first | done | (simp only [put]; done) | (simp only [put]; omega)) (by decide) (by assumption) (by assumption) (by assumption) (by decide) (by decide)
  refine ⟨hlt, ?_⟩
  refine decodeWord_of ((fields01 e0).trans ?_) hw
  simp only [decodeMajor01, e1, e2, e3, e4, e5]

theorem or (d a b : Nat) : Statement (.or d a b) := by
  intro wd hw h
  have hb : (decide (d < 32) && decide (a < 32) && decide (b < 32)) = true := hw
  have h2 : some (0x04000003 + put d 21 + put a 16 + put b 11) = some wd := h
  have he := (Option.some.inj h2).symm
  simp only [Bool.and_eq_true, decide_eq_true_eq] at hb
  obtain ⟨⟨hb0, hb1⟩, hb2⟩ := hb
  obtain ⟨hlt, e0, e1, e2, e3, e4, e5⟩ := shape12 wd 0x01 d a b 0 3 (by rw [he]; first | done | (simp only [put]; done) | (simp only [put]; omega)) (by decide) (by assumption) (by assumption) (by assumption) (by decide) (by decide)
  refine ⟨hlt, ?_⟩
  refine decodeWord_of ((fields01 e0).trans ?_) hw
  simp only [decodeMajor01, e1, e2, e3, e4, e5]

theorem xor (d a b : Nat) : Statement (.xor d a b) := by
  intro wd hw h
  have hb : (decide (d < 32) && decide (a < 32) && decide (b < 32)) = true := hw
  have h2 : some (0x04000004 + put d 21 + put a 16 + put b 11) = some wd := h
  have he := (Option.some.inj h2).symm
  simp only [Bool.and_eq_true, decide_eq_true_eq] at hb
  obtain ⟨⟨hb0, hb1⟩, hb2⟩ := hb
  obtain ⟨hlt, e0, e1, e2, e3, e4, e5⟩ := shape12 wd 0x01 d a b 0 4 (by rw [he]; first | done | (simp only [put]; done) | (simp only [put]; omega)) (by decide) (by assumption) (by assumption) (by assumption) (by decide) (by decide)
  refine ⟨hlt, ?_⟩
  refine decodeWord_of ((fields01 e0).trans ?_) hw
  simp only [decodeMajor01, e1, e2, e3, e4, e5]

theorem sll (d a b : Nat) : Statement (.sll d a b) := by
  intro wd hw h
  have hb : (decide (d < 32) && decide (a < 32) && decide (b < 32)) = true := hw
  have h2 : some (0x04000005 + put d 21 + put a 16 + put b 11) = some wd := h
  have he := (Option.some.inj h2).symm
  simp only [Bool.and_eq_true, decide_eq_true_eq] at hb
  obtain ⟨⟨hb0, hb1⟩, hb2⟩ := hb
  obtain ⟨hlt, e0, e1, e2, e3, e4, e5⟩ := shape12 wd 0x01 d a b 0 5 (by rw [he]; first | done | (simp only [put]; done) | (simp only [put]; omega)) (by decide) (by assumption) (by assumption) (by assumption) (by decide) (by decide)
  refine ⟨hlt, ?_⟩
  refine decodeWord_of ((fields01 e0).trans ?_) hw
  simp only [decodeMajor01, e1, e2, e3, e4, e5]

theorem srl (d a b : Nat) : Statement (.srl d a b) := by
  intro wd hw h
  have hb : (decide (d < 32) && decide (a < 32) && decide (b < 32)) = true := hw
  have h2 : some (0x04000006 + put d 21 + put a 16 + put b 11) = some wd := h
  have he := (Option.some.inj h2).symm
  simp only [Bool.and_eq_true, decide_eq_true_eq] at hb
  obtain ⟨⟨hb0, hb1⟩, hb2⟩ := hb
  obtain ⟨hlt, e0, e1, e2, e3, e4, e5⟩ := shape12 wd 0x01 d a b 0 6 (by rw [he]; first | done | (simp only [put]; done) | (simp only [put]; omega)) (by decide) (by assumption) (by assumption) (by assumption) (by decide) (by decide)
  refine ⟨hlt, ?_⟩
  refine decodeWord_of ((fields01 e0).trans ?_) hw
  simp only [decodeMajor01, e1, e2, e3, e4, e5]

theorem sra (d a b : Nat) : Statement (.sra d a b) := by
  intro wd hw h
  have hb : (decide (d < 32) && decide (a < 32) && decide (b < 32)) = true := hw
  have h2 : some (0x04000007 + put d 21 + put a 16 + put b 11) = some wd := h
  have he := (Option.some.inj h2).symm
  simp only [Bool.and_eq_true, decide_eq_true_eq] at hb
  obtain ⟨⟨hb0, hb1⟩, hb2⟩ := hb
  obtain ⟨hlt, e0, e1, e2, e3, e4, e5⟩ := shape12 wd 0x01 d a b 0 7 (by rw [he]; first | done | (simp only [put]; done) | (simp only [put]; omega)) (by decide) (by assumption) (by assumption) (by assumption) (by decide) (by decide)
  refine ⟨hlt, ?_⟩
  refine decodeWord_of ((fields01 e0).trans ?_) hw
  simp only [decodeMajor01, e1, e2, e3, e4, e5]

theorem slt (d a b : Nat) : Statement (.slt d a b) := by
  intro wd hw h
  have hb : (decide (d < 32) && decide (a < 32) && decide (b < 32)) = true := hw
  have h2 : some (0x04000008 + put d 21 + put a 16 + put b 11) = some wd := h
  have he := (Option.some.inj h2).symm
  simp only [Bool.and_eq_true, decide_eq_true_eq] at hb
  obtain ⟨⟨hb0, hb1⟩, hb2⟩ := hb
  obtain ⟨hlt, e0, e1, e2, e3, e4, e5⟩ := shape12 wd 0x01 d a b 0 8 (by rw [he]; first | done | (simp only [put]; done) | (simp only [put]; omega)) (by decide) (by assumption) (by assumption) (by assumption) (by decide) (by decide)
  refine ⟨hlt, ?_⟩
  refine decodeWord_of ((fields01 e0).trans ?_) hw
  simp only [decodeMajor01, e1, e2, e3, e4, e5]

theorem sltu (d a b : Nat) : Statement (.sltu d a b) := by
  intro wd hw h
  have hb : (decide (d < 32) && decide (a < 32) && decide (b < 32)) = true := hw
  have h2 : some (0x04000009 + put d 21 + put a 16 + put b 11) = some wd := h
  have he := (Option.some.inj h2).symm
  simp only [Bool.and_eq_true, decide_eq_true_eq] at hb
  obtain ⟨⟨hb0, hb1⟩, hb2⟩ := hb
  obtain ⟨hlt, e0, e1, e2, e3, e4, e5⟩ := shape12 wd 0x01 d a b 0 9 (by rw [he]; first | done | (simp only [put]; done) | (simp only [put]; omega)) (by decide) (by assumption) (by assumption) (by assumption) (by decide) (by decide)
  refine ⟨hlt, ?_⟩
  refine decodeWord_of ((fields01 e0).trans ?_) hw
  simp only [decodeMajor01, e1, e2, e3, e4, e5]

theorem seq (d a b : Nat) : Statement (.seq d a b) := by
  intro wd hw h
  have hb : (decide (d < 32) && decide (a < 32) && decide (b < 32)) = true := hw
  have h2 : some (0x0400000a + put d 21 + put a 16 + put b 11) = some wd := h
  have he := (Option.some.inj h2).symm
  simp only [Bool.and_eq_true, decide_eq_true_eq] at hb
  obtain ⟨⟨hb0, hb1⟩, hb2⟩ := hb
  obtain ⟨hlt, e0, e1, e2, e3, e4, e5⟩ := shape12 wd 0x01 d a b 0 10 (by rw [he]; first | done | (simp only [put]; done) | (simp only [put]; omega)) (by decide) (by assumption) (by assumption) (by assumption) (by decide) (by decide)
  refine ⟨hlt, ?_⟩
  refine decodeWord_of ((fields01 e0).trans ?_) hw
  simp only [decodeMajor01, e1, e2, e3, e4, e5]

theorem min (d a b : Nat) : Statement (.min d a b) := by
  intro wd hw h
  have hb : (decide (d < 32) && decide (a < 32) && decide (b < 32)) = true := hw
  have h2 : some (0x0400000b + put d 21 + put a 16 + put b 11) = some wd := h
  have he := (Option.some.inj h2).symm
  simp only [Bool.and_eq_true, decide_eq_true_eq] at hb
  obtain ⟨⟨hb0, hb1⟩, hb2⟩ := hb
  obtain ⟨hlt, e0, e1, e2, e3, e4, e5⟩ := shape12 wd 0x01 d a b 0 11 (by rw [he]; first | done | (simp only [put]; done) | (simp only [put]; omega)) (by decide) (by assumption) (by assumption) (by assumption) (by decide) (by decide)
  refine ⟨hlt, ?_⟩
  refine decodeWord_of ((fields01 e0).trans ?_) hw
  simp only [decodeMajor01, e1, e2, e3, e4, e5]

theorem max (d a b : Nat) : Statement (.max d a b) := by
  intro wd hw h
  have hb : (decide (d < 32) && decide (a < 32) && decide (b < 32)) = true := hw
  have h2 : some (0x0400000c + put d 21 + put a 16 + put b 11) = some wd := h
  have he := (Option.some.inj h2).symm
  simp only [Bool.and_eq_true, decide_eq_true_eq] at hb
  obtain ⟨⟨hb0, hb1⟩, hb2⟩ := hb
  obtain ⟨hlt, e0, e1, e2, e3, e4, e5⟩ := shape12 wd 0x01 d a b 0 12 (by rw [he]; first | done | (simp only [put]; done) | (simp only [put]; omega)) (by decide) (by assumption) (by assumption) (by assumption) (by decide) (by decide)
  refine ⟨hlt, ?_⟩
  refine decodeWord_of ((fields01 e0).trans ?_) hw
  simp only [decodeMajor01, e1, e2, e3, e4, e5]

theorem minu (d a b : Nat) : Statement (.minu d a b) := by
  intro wd hw h
  have hb : (decide (d < 32) && decide (a < 32) && decide (b < 32)) = true := hw
  have h2 : some (0x0400000d + put d 21 + put a 16 + put b 11) = some wd := h
  have he := (Option.some.inj h2).symm
  simp only [Bool.and_eq_true, decide_eq_true_eq] at hb
  obtain ⟨⟨hb0, hb1⟩, hb2⟩ := hb
  obtain ⟨hlt, e0, e1, e2, e3, e4, e5⟩ := shape12 wd 0x01 d a b 0 13 (by rw [he]; first | done | (simp only [put]; done) | (simp only [put]; omega)) (by decide) (by assumption) (by assumption) (by assumption) (by decide) (by decide)
  refine ⟨hlt, ?_⟩
  refine decodeWord_of ((fields01 e0).trans ?_) hw
  simp only [decodeMajor01, e1, e2, e3, e4, e5]

theorem maxu (d a b : Nat) : Statement (.maxu d a b) := by
  intro wd hw h
  have hb : (decide (d < 32) && decide (a < 32) && decide (b < 32)) = true := hw
  have h2 : some (0x0400000e + put d 21 + put a 16 + put b 11) = some wd := h
  have he := (Option.some.inj h2).symm
  simp only [Bool.and_eq_true, decide_eq_true_eq] at hb
  obtain ⟨⟨hb0, hb1⟩, hb2⟩ := hb
  obtain ⟨hlt, e0, e1, e2, e3, e4, e5⟩ := shape12 wd 0x01 d a b 0 14 (by rw [he]; first | done | (simp only [put]; done) | (simp only [put]; omega)) (by decide) (by assumption) (by assumption) (by assumption) (by decide) (by decide)
  refine ⟨hlt, ?_⟩
  refine decodeWord_of ((fields01 e0).trans ?_) hw
  simp only [decodeMajor01, e1, e2, e3, e4, e5]

theorem mul (d a b : Nat) : Statement (.mul d a b) := by
  intro wd hw h
  have hb : (decide (d < 32) && decide (a < 32) && decide (b < 32)) = true := hw
  have h2 : some (0x04000010 + put d 21 + put a 16 + put b 11) = some wd := h
  have he := (Option.some.inj h2).symm
  simp only [Bool.and_eq_true, decide_eq_true_eq] at hb
  obtain ⟨⟨hb0, hb1⟩, hb2⟩ := hb
  obtain ⟨hlt, e0, e1, e2, e3, e4, e5⟩ := shape12 wd 0x01 d a b 0 16 (by rw [he]; first | done | (simp only [put]; done) | (simp only [put]; omega)) (by decide) (by assumption) (by assumption) (by assumption) (by decide) (by decide)
  refine ⟨hlt, ?_⟩
  refine decodeWord_of ((fields01 e0).trans ?_) hw
  simp only [decodeMajor01, e1, e2, e3, e4, e5]

theorem mulh (d a b : Nat) : Statement (.mulh d a b) := by
  intro wd hw h
  have hb : (decide (d < 32) && decide (a < 32) && decide (b < 32)) = true := hw
  have h2 : some (0x04000011 + put d 21 + put a 16 + put b 11) = some wd := h
  have he := (Option.some.inj h2).symm
  simp only [Bool.and_eq_true, decide_eq_true_eq] at hb
  obtain ⟨⟨hb0, hb1⟩, hb2⟩ := hb
  obtain ⟨hlt, e0, e1, e2, e3, e4, e5⟩ := shape12 wd 0x01 d a b 0 17 (by rw [he]; first | done | (simp only [put]; done) | (simp only [put]; omega)) (by decide) (by assumption) (by assumption) (by assumption) (by decide) (by decide)
  refine ⟨hlt, ?_⟩
  refine decodeWord_of ((fields01 e0).trans ?_) hw
  simp only [decodeMajor01, e1, e2, e3, e4, e5]

theorem mulhu (d a b : Nat) : Statement (.mulhu d a b) := by
  intro wd hw h
  have hb : (decide (d < 32) && decide (a < 32) && decide (b < 32)) = true := hw
  have h2 : some (0x04000012 + put d 21 + put a 16 + put b 11) = some wd := h
  have he := (Option.some.inj h2).symm
  simp only [Bool.and_eq_true, decide_eq_true_eq] at hb
  obtain ⟨⟨hb0, hb1⟩, hb2⟩ := hb
  obtain ⟨hlt, e0, e1, e2, e3, e4, e5⟩ := shape12 wd 0x01 d a b 0 18 (by rw [he]; first | done | (simp only [put]; done) | (simp only [put]; omega)) (by decide) (by assumption) (by assumption) (by assumption) (by decide) (by decide)
  refine ⟨hlt, ?_⟩
  refine decodeWord_of ((fields01 e0).trans ?_) hw
  simp only [decodeMajor01, e1, e2, e3, e4, e5]

theorem div (d a b : Nat) : Statement (.div d a b) := by
  intro wd hw h
  have hb : (decide (d < 32) && decide (a < 32) && decide (b < 32)) = true := hw
  have h2 : some (0x04000013 + put d 21 + put a 16 + put b 11) = some wd := h
  have he := (Option.some.inj h2).symm
  simp only [Bool.and_eq_true, decide_eq_true_eq] at hb
  obtain ⟨⟨hb0, hb1⟩, hb2⟩ := hb
  obtain ⟨hlt, e0, e1, e2, e3, e4, e5⟩ := shape12 wd 0x01 d a b 0 19 (by rw [he]; first | done | (simp only [put]; done) | (simp only [put]; omega)) (by decide) (by assumption) (by assumption) (by assumption) (by decide) (by decide)
  refine ⟨hlt, ?_⟩
  refine decodeWord_of ((fields01 e0).trans ?_) hw
  simp only [decodeMajor01, e1, e2, e3, e4, e5]

theorem divu (d a b : Nat) : Statement (.divu d a b) := by
  intro wd hw h
  have hb : (decide (d < 32) && decide (a < 32) && decide (b < 32)) = true := hw
  have h2 : some (0x04000014 + put d 21 + put a 16 + put b 11) = some wd := h
  have he := (Option.some.inj h2).symm
  simp only [Bool.and_eq_true, decide_eq_true_eq] at hb
  obtain ⟨⟨hb0, hb1⟩, hb2⟩ := hb
  obtain ⟨hlt, e0, e1, e2, e3, e4, e5⟩ := shape12 wd 0x01 d a b 0 20 (by rw [he]; first | done | (simp only [put]; done) | (simp only [put]; omega)) (by decide) (by assumption) (by assumption) (by assumption) (by decide) (by decide)
  refine ⟨hlt, ?_⟩
  refine decodeWord_of ((fields01 e0).trans ?_) hw
  simp only [decodeMajor01, e1, e2, e3, e4, e5]

theorem rem (d a b : Nat) : Statement (.rem d a b) := by
  intro wd hw h
  have hb : (decide (d < 32) && decide (a < 32) && decide (b < 32)) = true := hw
  have h2 : some (0x04000015 + put d 21 + put a 16 + put b 11) = some wd := h
  have he := (Option.some.inj h2).symm
  simp only [Bool.and_eq_true, decide_eq_true_eq] at hb
  obtain ⟨⟨hb0, hb1⟩, hb2⟩ := hb
  obtain ⟨hlt, e0, e1, e2, e3, e4, e5⟩ := shape12 wd 0x01 d a b 0 21 (by rw [he]; first | done | (simp only [put]; done) | (simp only [put]; omega)) (by decide) (by assumption) (by assumption) (by assumption) (by decide) (by decide)
  refine ⟨hlt, ?_⟩
  refine decodeWord_of ((fields01 e0).trans ?_) hw
  simp only [decodeMajor01, e1, e2, e3, e4, e5]

theorem remu (d a b : Nat) : Statement (.remu d a b) := by
  intro wd hw h
  have hb : (decide (d < 32) && decide (a < 32) && decide (b < 32)) = true := hw
  have h2 : some (0x04000016 + put d 21 + put a 16 + put b 11) = some wd := h
  have he := (Option.some.inj h2).symm
  simp only [Bool.and_eq_true, decide_eq_true_eq] at hb
  obtain ⟨⟨hb0, hb1⟩, hb2⟩ := hb
  obtain ⟨hlt, e0, e1, e2, e3, e4, e5⟩ := shape12 wd 0x01 d a b 0 22 (by rw [he]; first | done | (simp only [put]; done) | (simp only [put]; omega)) (by decide) (by assumption) (by assumption) (by assumption) (by decide) (by decide)
  refine ⟨hlt, ?_⟩
  refine decodeWord_of ((fields01 e0).trans ?_) hw
  simp only [decodeMajor01, e1, e2, e3, e4, e5]

theorem clz (d a : Nat) : Statement (.clz d a) := by
  intro wd hw h
  have hb : (decide (d < 32) && decide (a < 32)) = true := hw
  have h2 : some (0x04000018 + put d 21 + put a 16) = some wd := h
  have he := (Option.some.inj h2).symm
  simp only [Bool.and_eq_true, decide_eq_true_eq] at hb
  obtain ⟨hb0, hb1⟩ := hb
  obtain ⟨hlt, e0, e1, e2, e3, e4, e5⟩ := shape12 wd 0x01 d a 0 0 24 (by rw [he]; first | done | (simp only [put]; done) | (simp only [put]; omega)) (by decide) (by assumption) (by assumption) (by decide) (by decide) (by decide)
  refine ⟨hlt, ?_⟩
  refine decodeWord_of ((fields01 e0).trans ?_) hw
  simp only [decodeMajor01, e1, e2, e3, e4, e5, if_true]

theorem ctz (d a : Nat) : Statement (.ctz d a) := by
  intro wd hw h
  have hb : (decide (d < 32) && decide (a < 32)) = true := hw
  have h2 : some (0x04000019 + put d 21 + put a 16) = some wd := h
  have he := (Option.some.inj h2).symm
  simp only [Bool.and_eq_true, decide_eq_true_eq] at hb
  obtain ⟨hb0, hb1⟩ := hb
  obtain ⟨hlt, e0, e1, e2, e3, e4, e5⟩ := shape12 wd 0x01 d a 0 0 25 (by rw [he]; first | done | (simp only [put]; done) | (simp only [put]; omega)) (by decide) (by assumption) (by assumption) (by decide) (by decide) (by decide)
  refine ⟨hlt, ?_⟩
  refine decodeWord_of ((fields01 e0).trans ?_) hw
  simp only [decodeMajor01, e1, e2, e3, e4, e5, if_true]

theorem popc (d a : Nat) : Statement (.popc d a) := by
  intro wd hw h
  have hb : (decide (d < 32) && decide (a < 32)) = true := hw
  have h2 : some (0x0400001a + put d 21 + put a 16) = some wd := h
  have he := (Option.some.inj h2).symm
  simp only [Bool.and_eq_true, decide_eq_true_eq] at hb
  obtain ⟨hb0, hb1⟩ := hb
  obtain ⟨hlt, e0, e1, e2, e3, e4, e5⟩ := shape12 wd 0x01 d a 0 0 26 (by rw [he]; first | done | (simp only [put]; done) | (simp only [put]; omega)) (by decide) (by assumption) (by assumption) (by decide) (by decide) (by decide)
  refine ⟨hlt, ?_⟩
  refine decodeWord_of ((fields01 e0).trans ?_) hw
  simp only [decodeMajor01, e1, e2, e3, e4, e5, if_true]

theorem jalr (d a : Nat) : Statement (.jalr d a) := by
  intro wd hw h
  have hb : (decide (d < 32) && decide (a < 32)) = true := hw
  have h2 : some (0x04000020 + put d 21 + put a 16) = some wd := h
  have he := (Option.some.inj h2).symm
  simp only [Bool.and_eq_true, decide_eq_true_eq] at hb
  obtain ⟨hb0, hb1⟩ := hb
  obtain ⟨hlt, e0, e1, e2, e3, e4, e5⟩ := shape12 wd 0x01 d a 0 0 32 (by rw [he]; first | done | (simp only [put]; done) | (simp only [put]; omega)) (by decide) (by assumption) (by assumption) (by decide) (by decide) (by decide)
  refine ⟨hlt, ?_⟩
  refine decodeWord_of ((fields01 e0).trans ?_) hw
  simp only [decodeMajor01, e1, e2, e3, e4, e5, if_true]

theorem slli (d a n : Nat) : Statement (.slli d a n) := by
  intro wd hw h
  have hb : (decide (d < 32) && decide (a < 32) && decide (n < 64)) = true := hw
  have h2 : some (0x04000040 + put d 21 + put a 16 + n) = some wd := h
  have he := (Option.some.inj h2).symm
  simp only [Bool.and_eq_true, decide_eq_true_eq] at hb
  obtain ⟨⟨hb0, hb1⟩, hb2⟩ := hb
  obtain ⟨hlt, e0, e1, e2, e3, e4, e5⟩ := shape12 wd 0x01 d a 0 1 n (by rw [he]; first | done | (simp only [put]; done) | (simp only [put]; omega)) (by decide) (by assumption) (by assumption) (by decide) (by decide) (by assumption)
  refine ⟨hlt, ?_⟩
  refine decodeWord_of ((fields01 e0).trans ?_) hw
  simp only [decodeMajor01, e1, e2, e3, e4, e5, if_true]

theorem srli (d a n : Nat) : Statement (.srli d a n) := by
  intro wd hw h
  have hb : (decide (d < 32) && decide (a < 32) && decide (n < 64)) = true := hw
  have h2 : some (0x04000080 + put d 21 + put a 16 + n) = some wd := h
  have he := (Option.some.inj h2).symm
  simp only [Bool.and_eq_true, decide_eq_true_eq] at hb
  obtain ⟨⟨hb0, hb1⟩, hb2⟩ := hb
  obtain ⟨hlt, e0, e1, e2, e3, e4, e5⟩ := shape12 wd 0x01 d a 0 2 n (by rw [he]; first | done | (simp only [put]; done) | (simp only [put]; omega)) (by decide) (by assumption) (by assumption) (by decide) (by decide) (by assumption)
  refine ⟨hlt, ?_⟩
  refine decodeWord_of ((fields01 e0).trans ?_) hw
  simp only [decodeMajor01, e1, e2, e3, e4, e5, if_true]

theorem srai (d a n : Nat) : Statement (.srai d a n) := by
  intro wd hw h
  have hb : (decide (d < 32) && decide (a < 32) && decide (n < 64)) = true := hw
  have h2 : some (0x040000c0 + put d 21 + put a 16 + n) = some wd := h
  have he := (Option.some.inj h2).symm
  simp only [Bool.and_eq_true, decide_eq_true_eq] at hb
  obtain ⟨⟨hb0, hb1⟩, hb2⟩ := hb
  obtain ⟨hlt, e0, e1, e2, e3, e4, e5⟩ := shape12 wd 0x01 d a 0 3 n (by rw [he]; first | done | (simp only [put]; done) | (simp only [put]; omega)) (by decide) (by assumption) (by assumption) (by decide) (by decide) (by assumption)
  refine ⟨hlt, ?_⟩
  refine decodeWord_of ((fields01 e0).trans ?_) hw
  simp only [decodeMajor01, e1, e2, e3, e4, e5, if_true]

theorem csrr (d n : Nat) : Statement (.csrr d n) := by
  intro wd hw h
  have hb : (decide (d < 32) && decide (n < 4096) && csrListed n) = true := hw
  have h2 : some (0xf4000000 + put d 21 + n) = some wd := h
  have he := (Option.some.inj h2).symm
  simp only [Bool.and_eq_true, decide_eq_true_eq] at hb
  obtain ⟨⟨hb0, hb1⟩, hb2⟩ := hb
  obtain ⟨hlt, e0, e1, e2, e3, e4⟩ := shape13 wd 0x3D d 0 0 n (by rw [he]; first | done | (simp only [put]; done) | (simp only [put]; omega)) (by decide) (by assumption) (by decide) (by decide) (by assumption)
  refine ⟨hlt, ?_⟩
  refine decodeWord_of ((fields3D e0).trans ?_) hw
  simp only [decodeMajor3D, e1, e2, e3, e4, if_true]

theorem csrw (a n : Nat) : Statement (.csrw a n) := by
  intro wd hw h
  have hb : (decide (a < 32) && decide (n < 4096) && csrWritable n) = true := hw
  have h2 : some (0xf4001000 + put a 16 + n) = some wd := h
  have he := (Option.some.inj h2).symm
  simp only [Bool.and_eq_true, decide_eq_true_eq] at hb
  obtain ⟨⟨hb0, hb1⟩, hb2⟩ := hb
  obtain ⟨hlt, e0, e1, e2, e3, e4⟩ := shape13 wd 0x3D 0 a 1 n (by rw [he]; first | done | (simp only [put]; done) | (simp only [put]; omega)) (by decide) (by decide) (by assumption) (by decide) (by assumption)
  refine ⟨hlt, ?_⟩
  refine decodeWord_of ((fields3D e0).trans ?_) hw
  simp only [decodeMajor3D, e1, e2, e3, e4, if_true]

theorem csrs (a n : Nat) : Statement (.csrs a n) := by
  intro wd hw h
  have hb : (decide (a < 32) && decide (n < 4096) && csrWritable n) = true := hw
  have h2 : some (0xf4002000 + put a 16 + n) = some wd := h
  have he := (Option.some.inj h2).symm
  simp only [Bool.and_eq_true, decide_eq_true_eq] at hb
  obtain ⟨⟨hb0, hb1⟩, hb2⟩ := hb
  obtain ⟨hlt, e0, e1, e2, e3, e4⟩ := shape13 wd 0x3D 0 a 2 n (by rw [he]; first | done | (simp only [put]; done) | (simp only [put]; omega)) (by decide) (by decide) (by assumption) (by decide) (by assumption)
  refine ⟨hlt, ?_⟩
  refine decodeWord_of ((fields3D e0).trans ?_) hw
  simp only [decodeMajor3D, e1, e2, e3, e4, if_true]

theorem csrc (a n : Nat) : Statement (.csrc a n) := by
  intro wd hw h
  have hb : (decide (a < 32) && decide (n < 4096) && csrWritable n) = true := hw
  have h2 : some (0xf4003000 + put a 16 + n) = some wd := h
  have he := (Option.some.inj h2).symm
  simp only [Bool.and_eq_true, decide_eq_true_eq] at hb
  obtain ⟨⟨hb0, hb1⟩, hb2⟩ := hb
  obtain ⟨hlt, e0, e1, e2, e3, e4⟩ := shape13 wd 0x3D 0 a 3 n (by rw [he]; first | done | (simp only [put]; done) | (simp only [put]; omega)) (by decide) (by decide) (by assumption) (by decide) (by assumption)
  refine ⟨hlt, ?_⟩
  refine decodeWord_of ((fields3D e0).trans ?_) hw
  simp only [decodeMajor3D, e1, e2, e3, e4, if_true]

theorem csrrw (d a n : Nat) : Statement (.csrrw d a n) := by
  intro wd hw h
  have hb : (decide (d < 32) && decide (a < 32) && decide (n < 4096) && csrWritable n) = true := hw
  have h2 : some (0xf4004000 + put d 21 + put a 16 + n) = some wd := h
  have he := (Option.some.inj h2).symm
  simp only [Bool.and_eq_true, decide_eq_true_eq] at hb
  obtain ⟨⟨⟨hb0, hb1⟩, hb2⟩, hb3⟩ := hb
  obtain ⟨hlt, e0, e1, e2, e3, e4⟩ := shape13 wd 0x3D d a 4 n (by rw [he]; first | done | (simp only [put]; done) | (simp only [put]; omega)) (by decide) (by assumption) (by assumption) (by decide) (by assumption)
  refine ⟨hlt, ?_⟩
  refine decodeWord_of ((fields3D e0).trans ?_) hw
  simp only [decodeMajor3D, e1, e2, e3, e4]

theorem halt : Statement (.halt) := by
  intro wd hw h
  have h2 : some (0xf8000000) = some wd := h
  have he := (Option.some.inj h2).symm
  obtain ⟨hlt, e0, e1, e2, e3, e4, e5⟩ := shape10 wd 0x3E 0 0 0 0 0 (by omega) (by decide) (by decide) (by decide) (by decide) (by decide) (by decide)
  refine ⟨hlt, ?_⟩
  refine decodeWord_of ((fields3E e0).trans ?_) hw
  simp only [decodeMajor3E, e1, e2, e3, e4, e5, if_true, and_self]

theorem yield : Statement (.yield) := by
  intro wd hw h
  have h2 : some (0xf8000001) = some wd := h
  have he := (Option.some.inj h2).symm
  obtain ⟨hlt, e0, e1, e2, e3, e4, e5⟩ := shape10 wd 0x3E 0 0 0 0 1 (by omega) (by decide) (by decide) (by decide) (by decide) (by decide) (by decide)
  refine ⟨hlt, ?_⟩
  refine decodeWord_of ((fields3E e0).trans ?_) hw
  simp only [decodeMajor3E, e1, e2, e3, e4, e5, if_true, and_self]

theorem trap (i : Nat) : Statement (.trap i) := by
  intro wd hw h
  have hb : (decide (i < 32768)) = true := hw
  have h2 : some (0xf8000002 + put i 11) = some wd := h
  have he := (Option.some.inj h2).symm
  simp only [decide_eq_true_eq] at hb
  obtain ⟨hlt, e0, e1, e2, e3⟩ := shape14 wd 0x3E i 0 2 (by rw [he]; first | done | (simp only [put]; done) | (simp only [put]; omega)) (by decide) (by assumption) (by decide) (by decide)
  refine ⟨hlt, ?_⟩
  refine decodeWord_of ((fields3E e0).trans ?_) hw
  simp only [decodeMajor3E, e1, e2, e3, if_true]

theorem eret : Statement (.eret) := by
  intro wd hw h
  have h2 : some (0xf8000003) = some wd := h
  have he := (Option.some.inj h2).symm
  obtain ⟨hlt, e0, e1, e2, e3, e4, e5⟩ := shape10 wd 0x3E 0 0 0 0 3 (by omega) (by decide) (by decide) (by decide) (by decide) (by decide) (by decide)
  refine ⟨hlt, ?_⟩
  refine decodeWord_of ((fields3E e0).trans ?_) hw
  simp only [decodeMajor3E, e1, e2, e3, e4, e5, if_true, and_self]

theorem glaunch (d a : Nat) : Statement (.glaunch d a) := by
  intro wd hw h
  have hb : (decide (d < 32) && decide (a < 32)) = true := hw
  have h2 : some (0xf8000004 + put d 21 + put a 16) = some wd := h
  have he := (Option.some.inj h2).symm
  simp only [Bool.and_eq_true, decide_eq_true_eq] at hb
  obtain ⟨hb0, hb1⟩ := hb
  obtain ⟨hlt, e0, e1, e2, e3, e4, e5⟩ := shape10 wd 0x3E d a 0 0 4 (by rw [he]; first | done | (simp only [put]; done) | (simp only [put]; omega)) (by decide) (by assumption) (by assumption) (by decide) (by decide) (by decide)
  refine ⟨hlt, ?_⟩
  refine decodeWord_of ((fields3E e0).trans ?_) hw
  simp only [decodeMajor3E, e1, e2, e3, e4, e5, if_true, and_self]

theorem freplay (a : Nat) : Statement (.freplay a) := by
  intro wd hw h
  have hb : (decide (a < 32)) = true := hw
  have h2 : some (0xf8000005 + put a 16) = some wd := h
  have he := (Option.some.inj h2).symm
  simp only [decide_eq_true_eq] at hb
  obtain ⟨hlt, e0, e1, e2, e3, e4, e5⟩ := shape10 wd 0x3E 0 a 0 0 5 (by rw [he]; first | done | (simp only [put]; done) | (simp only [put]; omega)) (by decide) (by decide) (by assumption) (by decide) (by decide) (by decide)
  refine ⟨hlt, ?_⟩
  refine decodeWord_of ((fields3E e0).trans ?_) hw
  simp only [decodeMajor3E, e1, e2, e3, e4, e5, if_true, and_self]

theorem fconv (a : Nat) : Statement (.fconv a) := by
  intro wd hw h
  have hb : (decide (a < 32)) = true := hw
  have h2 : some (0xf8000006 + put a 16) = some wd := h
  have he := (Option.some.inj h2).symm
  simp only [decide_eq_true_eq] at hb
  obtain ⟨hlt, e0, e1, e2, e3, e4, e5⟩ := shape10 wd 0x3E 0 a 0 0 6 (by rw [he]; first | done | (simp only [put]; done) | (simp only [put]; omega)) (by decide) (by decide) (by assumption) (by decide) (by decide) (by decide)
  refine ⟨hlt, ?_⟩
  refine decodeWord_of ((fields3E e0).trans ?_) hw
  simp only [decodeMajor3E, e1, e2, e3, e4, e5, if_true, and_self]

theorem heatage (a b : Nat) : Statement (.heatage a b) := by
  intro wd hw h
  have hb : (decide (a < 32) && decide (b < 32)) = true := hw
  have h2 : some (0xf8000007 + put a 16 + put b 11) = some wd := h
  have he := (Option.some.inj h2).symm
  simp only [Bool.and_eq_true, decide_eq_true_eq] at hb
  obtain ⟨hb0, hb1⟩ := hb
  obtain ⟨hlt, e0, e1, e2, e3, e4, e5⟩ := shape10 wd 0x3E 0 a b 0 7 (by rw [he]; first | done | (simp only [put]; done) | (simp only [put]; omega)) (by decide) (by decide) (by assumption) (by assumption) (by decide) (by decide)
  refine ⟨hlt, ?_⟩
  refine decodeWord_of ((fields3E e0).trans ?_) hw
  simp only [decodeMajor3E, e1, e2, e3, e4, e5, if_true, and_self]

theorem hstop : Statement (.hstop) := by
  intro wd hw h
  have h2 : some (0xf8000008) = some wd := h
  have he := (Option.some.inj h2).symm
  obtain ⟨hlt, e0, e1, e2, e3, e4, e5⟩ := shape10 wd 0x3E 0 0 0 0 8 (by omega) (by decide) (by decide) (by decide) (by decide) (by decide) (by decide)
  refine ⟨hlt, ?_⟩
  refine decodeWord_of ((fields3E e0).trans ?_) hw
  simp only [decodeMajor3E, e1, e2, e3, e4, e5, if_true, and_self]

theorem powerOn : Statement (.powerOn) := by
  intro w _ h
  cases h

theorem bringupStage (_0 : Bool) : Statement (.bringupStage _0) := by
  intro w _ h
  cases h

theorem deviceReset : Statement (.deviceReset) := by
  intro w _ h
  cases h

theorem thermalWarning (_0 : Nat) : Statement (.thermalWarning _0) := by
  intro w _ h
  cases h

theorem thermalCap (_0 : Nat) : Statement (.thermalCap _0) := by
  intro w _ h
  cases h

theorem thermalCapClear (_0 : Nat) : Statement (.thermalCapClear _0) := by
  intro w _ h
  cases h

theorem thermalTrip (_0 : Nat) : Statement (.thermalTrip _0) := by
  intro w _ h
  cases h

theorem peakCurrentGuard (_0 : Nat) : Statement (.peakCurrentGuard _0) := by
  intro w _ h
  cases h

theorem lanesDecrease (_0 : Nat) : Statement (.lanesDecrease _0) := by
  intro w _ h
  cases h

theorem lanesIncrease (_0 : Nat) : Statement (.lanesIncrease _0) := by
  intro w _ h
  cases h

theorem pwrctlWrite (_0 : Nat) : Statement (.pwrctlWrite _0) := by
  intro w _ h
  cases h

theorem pwrstatWrite (_0 : Nat) : Statement (.pwrstatWrite _0) := by
  intro w _ h
  cases h

theorem thermstatWrite (_0 : Nat) : Statement (.thermstatWrite _0) := by
  intro w _ h
  cases h

theorem memoryRequest (_0 : Nat) (_1 : Nat) (_2 : Nat) (_3 : Nat) (_4 : Nat) (_5 : Bool) (_6 : Nat) :
    Statement (.memoryRequest _0 _1 _2 _3 _4 _5 _6) := by
  intro w _ h
  cases h

theorem lineWriteback (_0 : Nat) : Statement (.lineWriteback _0) := by
  intro w _ h
  cases h

theorem memerrWrite (_0 : Nat) : Statement (.memerrWrite _0) := by
  intro w _ h
  cases h

theorem rowRepair (_0 : Nat) (_1 : Nat) (_2 : Nat) (_3 : Nat) : Statement (.rowRepair _0 _1 _2 _3) := by
  intro w _ h
  cases h

theorem spareCopyComplete (_0 : Nat) : Statement (.spareCopyComplete _0) := by
  intro w _ h
  cases h

theorem machineCheck (_0 : Nat) (_1 : Nat) (_2 : Nat) : Statement (.machineCheck _0 _1 _2) := by
  intro w _ h
  cases h

theorem surftabWrite (_0 : Nat) (_1 : Nat) : Statement (.surftabWrite _0 _1) := by
  intro w _ h
  cases h

theorem surfflushWrite (_0 : Nat) (_1 : Nat) : Statement (.surfflushWrite _0 _1) := by
  intro w _ h
  cases h

theorem surfflushComplete (_0 : Nat) : Statement (.surfflushComplete _0) := by
  intro w _ h
  cases h

theorem decompressRetry (_0 : Nat) : Statement (.decompressRetry _0) := by
  intro w _ h
  cases h

theorem fabcfgWrite (_0 : Nat) : Statement (.fabcfgWrite _0) := by
  intro w _ h
  cases h

theorem fabpartWrite (_0 : Nat) (_1 : Nat) : Statement (.fabpartWrite _0 _1) := by
  intro w _ h
  cases h

theorem fabpstatWrite (_0 : Nat) (_1 : Nat) : Statement (.fabpstatWrite _0 _1) := by
  intro w _ h
  cases h

theorem flitReceive (_0 : Nat) (_1 : Nat) : Statement (.flitReceive _0 _1) := by
  intro w _ h
  cases h

theorem frameReplay (_0 : Nat) (_1 : Nat) : Statement (.frameReplay _0 _1) := by
  intro w _ h
  cases h

theorem portRetrain (_0 : Nat) (_1 : Nat) : Statement (.portRetrain _0 _1) := by
  intro w _ h
  cases h

theorem portDownTimeout (_0 : Nat) : Statement (.portDownTimeout _0) := by
  intro w _ h
  cases h

theorem remoteRequest (_0 : Nat) (_1 : Nat) (_2 : Nat) (_3 : Nat) (_4 : Nat) (_5 : Nat) (_6 : Nat) (_7 : Nat) (_8 : Nat) (_9 : Nat) :
    Statement (.remoteRequest _0 _1 _2 _3 _4 _5 _6 _7 _8 _9) := by
  intro w _ h
  cases h

theorem fabricResponse (_0 : Nat) (_1 : Nat) (_2 : Nat) (_3 : Nat) : Statement (.fabricResponse _0 _1 _2 _3) := by
  intro w _ h
  cases h

theorem fabricRequestTimeout (_0 : Nat) : Statement (.fabricRequestTimeout _0) := by
  intro w _ h
  cases h

theorem treeInstall (_0 : Nat) (_1 : Nat) : Statement (.treeInstall _0 _1) := by
  intro w _ h
  cases h

theorem treeTeardownCommand (_0 : Nat) (_1 : Nat) : Statement (.treeTeardownCommand _0 _1) := by
  intro w _ h
  cases h

theorem reductionOperand (_0 : Nat) (_1 : Nat) (_2 : Nat) (_3 : Nat) (_4 : Nat) (_5 : Nat) : Statement (.reductionOperand _0 _1 _2 _3 _4 _5) := by
  intro w _ h
  cases h

theorem reductionResult (_0 : Nat) (_1 : Nat) (_2 : Nat) (_3 : Nat) (_4 : Nat) : Statement (.reductionResult _0 _1 _2 _3 _4) := by
  intro w _ h
  cases h

theorem reductionTimeout (_0 : Nat) (_1 : Nat) : Statement (.reductionTimeout _0 _1) := by
  intro w _ h
  cases h

theorem teardownFlit (_0 : Nat) (_1 : Nat) (_2 : Nat) : Statement (.teardownFlit _0 _1 _2) := by
  intro w _ h
  cases h

theorem hostMemRead (_0 : Nat) (_1 : Bool) : Statement (.hostMemRead _0 _1) := by
  intro w _ h
  cases h

theorem hostMemWrite (_0 : Nat) (_1 : Nat) (_2 : Nat) : Statement (.hostMemWrite _0 _1 _2) := by
  intro w _ h
  cases h

theorem bisnpResponse (_0 : Nat) : Statement (.bisnpResponse _0) := by
  intro w _ h
  cases h

theorem launchPush (_0 : Nat) (_1 : Nat) (_2 : Nat) : Statement (.launchPush _0 _1 _2) := by
  intro w _ h
  cases h

theorem gangCompletion (_0 : Nat) : Statement (.gangCompletion _0) := by
  intro w _ h
  cases h

theorem msixUnmask (_0 : Nat) (_1 : Nat) : Statement (.msixUnmask _0 _1) := by
  intro w _ h
  cases h

theorem vfcfgWrite (_0 : Nat) (_1 : Nat) (_2 : Nat) : Statement (.vfcfgWrite _0 _1 _2) := by
  intro w _ h
  cases h

theorem vfReset (_0 : Nat) : Statement (.vfReset _0) := by
  intro w _ h
  cases h

theorem vfResetComplete (_0 : Nat) : Statement (.vfResetComplete _0) := by
  intro w _ h
  cases h

theorem launchwinWrite (_0 : Nat) : Statement (.launchwinWrite _0) := by
  intro w _ h
  cases h

theorem launchstatWrite (_0 : Nat) (_1 : Nat) : Statement (.launchstatWrite _0 _1) := by
  intro w _ h
  cases h

theorem gangReset (_0 : Nat) (_1 : Nat) : Statement (.gangReset _0 _1) := by
  intro w _ h
  cases h

theorem qosctxWrite (_0 : Nat) (_1 : Nat) (_2 : Nat) : Statement (.qosctxWrite _0 _1 _2) := by
  intro w _ h
  cases h

theorem l2PortServe (_0 : Nat) : Statement (.l2PortServe _0) := by
  intro w _ h
  cases h

theorem lenderActive (_0 : Nat) (_1 : Nat) (_2 : Nat) : Statement (.lenderActive _0 _1 _2) := by
  intro w _ h
  cases h

theorem spillPoolRelend (_0 : Nat) (_1 : Nat) : Statement (.spillPoolRelend _0 _1) := by
  intro w _ h
  cases h

theorem xlinvWrite (_0 : Nat) (_1 : Nat) : Statement (.xlinvWrite _0 _1) := by
  intro w _ h
  cases h

theorem xlinvComplete (_0 : Nat) : Statement (.xlinvComplete _0) := by
  intro w _ h
  cases h

theorem faultRecordWrite (_0 : Nat) : Statement (.faultRecordWrite _0) := by
  intro w _ h
  cases h

theorem fqcfgWrite (_0 : Nat) (_1 : Nat) : Statement (.fqcfgWrite _0 _1) := by
  intro w _ h
  cases h

theorem fqptrWrite (_0 : Nat) (_1 : Nat) : Statement (.fqptrWrite _0 _1) := by
  intro w _ h
  cases h

theorem hrangeWrite (_0 : Nat) (_1 : Nat) (_2 : Nat) (_3 : Nat) : Statement (.hrangeWrite _0 _1 _2 _3) := by
  intro w _ h
  cases h

theorem heatcfgWrite (_0 : Nat) : Statement (.heatcfgWrite _0) := by
  intro w _ h
  cases h

theorem schedcfgWrite (_0 : Nat) : Statement (.schedcfgWrite _0) := by
  intro w _ h
  cases h

theorem schedstatWrite (_0 : Nat) : Statement (.schedstatWrite _0) := by
  intro w _ h
  cases h

theorem gangPlace (_0 : Nat) : Statement (.gangPlace _0) := by
  intro w _ h
  cases h

theorem gangPreempt (_0 : Nat) : Statement (.gangPreempt _0) := by
  intro w _ h
  cases h

theorem rowRestore (_0 : Nat) (_1 : Nat) : Statement (.rowRestore _0 _1) := by
  intro w _ h
  cases h

theorem budgetExhausted (_0 : Nat) : Statement (.budgetExhausted _0) := by
  intro w _ h
  cases h

theorem starvationPromote (_0 : Nat) (_1 : Nat) : Statement (.starvationPromote _0 _1) := by
  intro w _ h
  cases h

theorem icacheFill (_0 : Nat) (_1 : Nat) (_2 : Nat) : Statement (.icacheFill _0 _1 _2) := by
  intro w _ h
  cases h

theorem vloopStripDeal (_0 : Nat) (_1 : Nat) : Statement (.vloopStripDeal _0 _1) := by
  intro w _ h
  cases h

theorem savecfgWrite (_0 : Nat) (_1 : Nat) : Statement (.savecfgWrite _0 _1) := by
  intro w _ h
  cases h

theorem agateMerge (_0 : Nat) (_1 : Nat) : Statement (.agateMerge _0 _1) := by
  intro w _ h
  cases h

theorem kvpoolWrite (_0 : Nat) (_1 : Nat) : Statement (.kvpoolWrite _0 _1) := by
  intro w _ h
  cases h

theorem kvmetaWrite (_0 : Nat) (_1 : Nat) : Statement (.kvmetaWrite _0 _1) := by
  intro w _ h
  cases h

theorem kvpoolInitComplete (_0 : Nat) : Statement (.kvpoolInitComplete _0) := by
  intro w _ h
  cases h

theorem timingErrorReplay (_0 : Bool) : Statement (.timingErrorReplay _0) := by
  intro w _ h
  cases h

theorem oscntWrite (_0 : Nat) : Statement (.oscntWrite _0) := by
  intro w _ h
  cases h

theorem frstatWrite (_0 : Nat) (_1 : Nat) : Statement (.frstatWrite _0 _1) := by
  intro w _ h
  cases h

theorem subscriptionPush : Statement (.subscriptionPush) := by
  intro w _ h
  cases h

theorem vsendArrival (_0 : Nat) (_1 : Nat) (_2 : Nat) (_3 : Nat) (_4 : Bool) (_5 : Nat) (_6 : Nat) (_7 : Nat) :
    Statement (.vsendArrival _0 _1 _2 _3 _4 _5 _6 _7) := by
  intro w _ h
  cases h

theorem copyRetire (_0 : Nat) (_1 : Nat) : Statement (.copyRetire _0 _1) := by
  intro w _ h
  cases h

theorem fifoResult (_0 : Nat) (_1 : Nat) : Statement (.fifoResult _0 _1) := by
  intro w _ h
  cases h

theorem registerWrite (_0 : Nat) (_1 : Nat) (_2 : Nat) : Statement (.registerWrite _0 _1 _2) := by
  intro w _ h
  cases h

theorem rowDispatch (_0 : Nat) (_1 : Nat) : Statement (.rowDispatch _0 _1) := by
  intro w _ h
  cases h

theorem illegalInstruction (_0 : Nat) : Statement (.illegalInstruction _0) := by
  intro w _ h
  cases h

theorem powerRemoval : Statement (.powerRemoval) := by
  intro w _ h
  cases h

theorem devtimeAdvance : Statement (.devtimeAdvance) := by
  intro w _ h
  cases h

theorem bucketAccrue (_0 : Nat) : Statement (.bucketAccrue _0) := by
  intro w _ h
  cases h

theorem linkTrained (_0 : Nat) (_1 : Nat) : Statement (.linkTrained _0 _1) := by
  intro w _ h
  cases h

theorem cxlPortDown (_0 : Nat) : Statement (.cxlPortDown _0) := by
  intro w _ h
  cases h

theorem cxlPortUp (_0 : Nat) (_1 : Bool) : Statement (.cxlPortUp _0 _1) := by
  intro w _ h
  cases h

theorem cxlCacheResponse (_0 : Nat) (_1 : Nat) (_2 : Nat) : Statement (.cxlCacheResponse _0 _1 _2) := by
  intro w _ h
  cases h

end Sys2Proof.Laws.RoundTrip
end

