-- ==== Sys2Proof/Tests/Slice0.lean ====
section
/-! SUPPORT. Tests: ill-formed words, words written out from the encodings of the spec, small runs with results taken from the spec's
rules, and for every statement a state that meets its hypotheses. -/

/-! ## States of the tests -/

namespace Sys2Proof.Tests

set_option Elab.async false

open Sys2Proof Sys2Proof.Machine

/-- The registers of a hart written from a list. -/
def regs (l : List (Nat × Word)) (h : Hart) : Hart := l.foldl (fun h x => h.wr x.1 x.2) h

/-- A hart of the physical function in slot 0 of core 0, with one row, at a level. -/
def hartAt (level : Nat) (l : List (Nat × Word)) : Hart :=
  regs l (State.newHart State.reset 0 0 0 0 level 0 0 { core := 0, slot := 0, clusters := [0] })

/-- Its gang, of the normal class. -/
def gang0 : Gang := { State.reset.newGang 0 (some 0) 0 (BitVec.ofNat 512 (2 * 2 ^ 8)) 0 with phase := .placed }

/-- The device with that hart running; the page at 0x4000 is cached as the frame at 0x8000. -/
def dev (h : Hart) : State :=
  { State.reset with
    harts := [h], gangs := [gang0], hartCtr := 1, gangCtr := 1
    tlb := [{ die := 0, fn := 0, page := 4, shift := 12, pte := 0x8363, pteAddr := 0x9000 }] }

/-- Scalar operands: s4 and s5 hold 12 and −5. -/
def alu : Hart := hartAt 2 [(4, 12), (5, 0xFFFF_FFFF_FFFF_FFFB)]

/-- An operation with its scalars. -/
def opOf (i : Instr) (sa sb sf : Word) (vtype : BitVec 6 := 0) : Op :=
  { i := i, pc := 0, sa := { v := sa }, sb := { v := sb }, sc := { v := 0 }, sf := { v := sf }, vtype := vtype, vmt := 0, vxrm := 0, frm := 0,
    hcr := 0, apxq := 0 }

/-- A hart whose row has VL = 4, v1 and v2 filled with small numbers, and one entry in its queue. -/
def rowHart (e : Entry) : Hart :=
  let h := hartAt 2 []
  { h with
    queue := [e]
    rows := h.rows.map (fun (r : Row) => { r with vl := 4, v := (r.v.setIfInBounds 1 0x04FF0201).setIfInBounds 2 0x03020180 }) }

/-- The device with that hart. -/
def rowDev (e : Entry) : State := dev (rowHart e)

/-- The row of that hart. -/
def row0 (e : Entry) : Row := (rowHart e).home

/-- The outcome of a meaning, as a state. -/
def after (o : Host.Outcome State Fault Refusal) : State :=
  match o with
  | .next s => s
  | _ => State.reset

/-- The hart after an instruction. -/
def hartAfter (o : Host.Outcome State Fault Refusal) : Hart := ((after o).harts.head?).getD alu


/-! ## Decoding -/

/-- Words of R273 to R277, each field with a value of its own. -/
theorem test_decode_scalar_1 :
    [decodeTableWord 32 0x04650018, decodeTableWord 32 0x04650019, decodeTableWord 32 0x0465001A, decodeTableWord 32 0x04650020,
     decodeTableWord 32 0x04650047, decodeTableWord 32 0x04650087, decodeTableWord 32 0x046500C7, decodeTableWord 32 0x04653800,
     decodeTableWord 32 0x04653801, decodeTableWord 32 0x04653802, decodeTableWord 32 0x04653803, decodeTableWord 32 0x04653804,
     decodeTableWord 32 0x04653805, decodeTableWord 32 0x04653806, decodeTableWord 32 0x04653807, decodeTableWord 32 0x04653808,
     decodeTableWord 32 0x04653809, decodeTableWord 32 0x0465380A, decodeTableWord 32 0x0465380B, decodeTableWord 32 0x0465380C,
     decodeTableWord 32 0x0465380D, decodeTableWord 32 0x0465380E, decodeTableWord 32 0x04653810, decodeTableWord 32 0x04653811,
     decodeTableWord 32 0x04653812, decodeTableWord 32 0x04653813, decodeTableWord 32 0x04653814, decodeTableWord 32 0x04653815,
     decodeTableWord 32 0x04653816, decodeTableWord 32 0x0865ABCD]
    = [some (.clz 3 5), some (.ctz 3 5), some (.popc 3 5), some (.jalr 3 5),
     some (.slli 3 5 7), some (.srli 3 5 7), some (.srai 3 5 7), some (.add 3 5 7),
     some (.sub 3 5 7), some (.and 3 5 7), some (.or 3 5 7), some (.xor 3 5 7),
     some (.sll 3 5 7), some (.srl 3 5 7), some (.sra 3 5 7), some (.slt 3 5 7),
     some (.sltu 3 5 7), some (.seq 3 5 7), some (.min 3 5 7), some (.max 3 5 7),
     some (.minu 3 5 7), some (.maxu 3 5 7), some (.mul 3 5 7), some (.mulh 3 5 7),
     some (.mulhu 3 5 7), some (.div 3 5 7), some (.divu 3 5 7), some (.rem 3 5 7),
     some (.remu 3 5 7), some (.addi 3 5 43981)] := by
  decide +kernel

/-- Words of R273 to R277, each field with a value of its own. -/
theorem test_decode_scalar_2 :
    [decodeTableWord 32 0x0C65ABCD, decodeTableWord 32 0x1060ABCD, decodeTableWord 32 0x16345678, decodeTableWord 32 0x1A345678,
     decodeTableWord 32 0x1C65ABCD, decodeTableWord 32 0x2065ABCD, decodeTableWord 32 0x2465ABCD, decodeTableWord 32 0x2865ABCD,
     decodeTableWord 32 0x2C65ABCD, decodeTableWord 32 0x3065ABCD, decodeTableWord 32 0x3465ABCD, decodeTableWord 32 0x3865ABCD]
    = [some (.ori 3 5 43981), some (.lui 3 43981), some (.j 36984440), some (.jal 36984440),
     some (.stD 3 5 43981), some (.beq 3 5 43981), some (.bne 3 5 43981), some (.blt 3 5 43981),
     some (.ldD 3 5 43981), some (.bge 3 5 43981), some (.bltu 3 5 43981), some (.bgeu 3 5 43981)] := by
  decide +kernel

/-- Words of R260, R279, R280, each field with a value of its own. -/
theorem test_decode_memory :
    [decodeTableWord 32 0x3C032842, decodeTableWord 32 0x3C0329A2, decodeTableWord 32 0x3C650040, decodeTableWord 32 0x3C650041,
     decodeTableWord 32 0x3C650190, decodeTableWord 32 0x3C653C93, decodeTableWord 32 0x3C653C94, decodeTableWord 32 0x3C653C95,
     decodeTableWord 32 0x3C653C96, decodeTableWord 32 0x3C653C97, decodeTableWord 32 0x3C653C98, decodeTableWord 32 0x3C653C99,
     decodeTableWord 32 0x3C653C9A, decodeTableWord 32 0x3C653C9B, decodeTableWord 32 0x3C653C9C]
    = [some (.stBHW 3 5 1), some (.stRel 3 5 1 2), some (.ldBHW 3 5 1), some (.ldBuHuWu 3 5 1),
     some (.ldAcq 3 5 1 2), some (.amoswap 3 5 7 4 2 1), some (.amoadd 3 5 7 4 2 1), some (.amoand 3 5 7 4 2 1),
     some (.amoor 3 5 7 4 2 1), some (.amoxor 3 5 7 4 2 1), some (.amomin 3 5 7 4 2 1), some (.amomax 3 5 7 4 2 1),
     some (.amominu 3 5 7 4 2 1), some (.amomaxu 3 5 7 4 2 1), some (.cas 3 5 7 4 2 1)] := by
  decide +kernel

/-- Words of R283 to R289, each field with a value of its own. -/
theorem test_decode_control :
    [decodeTableWord 32 0x40650001, decodeTableWord 32 0x44030000, decodeTableWord 32 0x48000000, decodeTableWord 32 0x4C650000,
     decodeTableWord 32 0x50000003, decodeTableWord 32 0x54030000, decodeTableWord 32 0x5803ABCD, decodeTableWord 32 0x5C000003]
    = [some (.vsetl 3 5 1), some (.vloop 3), some (.vnext), some (.vsettl 3 5),
     some (.vsetmt 3), some (.vdead 3), some (.icpf 3 43981), some (.cwait 3)] := by
  decide +kernel

/-- Words of R261, R294, each field with a value of its own. -/
theorem test_decode_integer :
    [decodeTableWord 32 0x60653A48, decodeTableWord 32 0x60653A49, decodeTableWord 32 0x60653A4A, decodeTableWord 32 0x60653A4B,
     decodeTableWord 32 0x60653A4C, decodeTableWord 32 0x60653A4D, decodeTableWord 32 0x60653A4E, decodeTableWord 32 0x60653A4F,
     decodeTableWord 32 0x64653A48, decodeTableWord 32 0x64653A49, decodeTableWord 32 0x64653A4A, decodeTableWord 32 0x64653A4B,
     decodeTableWord 32 0x64653A4C, decodeTableWord 32 0x64653A4D, decodeTableWord 32 0x64653A4E, decodeTableWord 32 0x64653A4F]
    = [some (.vaddI 3 5 7 9 1), some (.vsubI 3 5 7 9 1), some (.vmulI 3 5 7 9 1), some (.vmulhI 3 5 7 9 1),
     some (.vminI 3 5 7 9 1), some (.vmaxI 3 5 7 9 1), some (.vmaccI 3 5 7 9 1), some (.vdivI 3 5 7 9 1),
     some (.vaddIS 3 5 7 9 1), some (.vsubIS 3 5 7 9 1), some (.vmulIS 3 5 7 9 1), some (.vmulhIS 3 5 7 9 1),
     some (.vminIS 3 5 7 9 1), some (.vmaxIS 3 5 7 9 1), some (.vmaccIS 3 5 7 9 1), some (.vdivIS 3 5 7 9 1)] := by
  decide +kernel

/-- Words of R261, R295, each field with a value of its own. -/
theorem test_decode_floating :
    [decodeTableWord 32 0x686501CF, decodeTableWord 32 0x68653A48, decodeTableWord 32 0x68653A49, decodeTableWord 32 0x68653A4A,
     decodeTableWord 32 0x68653A4B, decodeTableWord 32 0x68653A4C, decodeTableWord 32 0x68653A4D, decodeTableWord 32 0x68653A4E,
     decodeTableWord 32 0x6C653A48, decodeTableWord 32 0x6C653A49, decodeTableWord 32 0x6C653A4A, decodeTableWord 32 0x6C653A4B,
     decodeTableWord 32 0x6C653A4C, decodeTableWord 32 0x6C653A4D, decodeTableWord 32 0x6C653A4E]
    = [some (.vsqrtF 3 5 7 1), some (.vaddF 3 5 7 9 1), some (.vsubF 3 5 7 9 1), some (.vmulF 3 5 7 9 1),
     some (.vdivF 3 5 7 9 1), some (.vminF 3 5 7 9 1), some (.vmaxF 3 5 7 9 1), some (.vfmaF 3 5 7 9 1),
     some (.vaddFS 3 5 7 9 1), some (.vsubFS 3 5 7 9 1), some (.vmulFS 3 5 7 9 1), some (.vdivFS 3 5 7 9 1),
     some (.vminFS 3 5 7 9 1), some (.vmaxFS 3 5 7 9 1), some (.vfmaFS 3 5 7 9 1)] := by
  decide +kernel

/-- Words of R261, R297, each field with a value of its own. -/
theorem test_decode_logic :
    [decodeTableWord 32 0x7065003B, decodeTableWord 32 0x70653808, decodeTableWord 32 0x70653809, decodeTableWord 32 0x7065380A,
     decodeTableWord 32 0x7065380C, decodeTableWord 32 0x7065380D, decodeTableWord 32 0x7065380E, decodeTableWord 32 0x74653808,
     decodeTableWord 32 0x74653809, decodeTableWord 32 0x7465380A, decodeTableWord 32 0x7465380C, decodeTableWord 32 0x7465380D,
     decodeTableWord 32 0x7465380E]
    = [some (.vnot 3 5 7), some (.vand 3 5 7 1), some (.vor 3 5 7 1), some (.vxor 3 5 7 1),
     some (.vsll 3 5 7 1), some (.vsrl 3 5 7 1), some (.vsra 3 5 7 1), some (.vandS 3 5 7 1),
     some (.vorS 3 5 7 1), some (.vxorS 3 5 7 1), some (.vsllS 3 5 7 1), some (.vsrlS 3 5 7 1),
     some (.vsraS 3 5 7 1)] := by
  decide +kernel

/-- Words of R261, R298 to R302, R305, each field with a value of its own. -/
theorem test_decode_masks_1 :
    [decodeTableWord 32 0x78653A48, decodeTableWord 32 0x78653A49, decodeTableWord 32 0x78653A4A, decodeTableWord 32 0x78653A4B,
     decodeTableWord 32 0x78653A4C, decodeTableWord 32 0x78653A4D, decodeTableWord 32 0x78653A4E, decodeTableWord 32 0x7C653A48,
     decodeTableWord 32 0x7C653A49, decodeTableWord 32 0x7C653A4A, decodeTableWord 32 0x7C653A4B, decodeTableWord 32 0x7C653A4C,
     decodeTableWord 32 0x7C653A4D, decodeTableWord 32 0x7C653A4E, decodeTableWord 32 0x80650004, decodeTableWord 32 0x80650005,
     decodeTableWord 32 0x80650006, decodeTableWord 32 0x80653800, decodeTableWord 32 0x80653801, decodeTableWord 32 0x80653802,
     decodeTableWord 32 0x80653803, decodeTableWord 32 0x8460283A, decodeTableWord 32 0x84650039, decodeTableWord 32 0x846501CC,
     decodeTableWord 32 0x846501CD, decodeTableWord 32 0x846501CE, decodeTableWord 32 0x846501CF, decodeTableWord 32 0x84653803,
     decodeTableWord 32 0x84653808, decodeTableWord 32 0x88653A48]
    = [some (.vcmpeq 3 5 7 9 1), some (.vcmpne 3 5 7 9 1), some (.vcmplt 3 5 7 9 1), some (.vcmple 3 5 7 9 1),
     some (.vcmpgt 3 5 7 9 1), some (.vcmpge 3 5 7 9 1), some (.vcmpun 3 5 7 9 1), some (.vcmpeqS 3 5 7 9 1),
     some (.vcmpneS 3 5 7 9 1), some (.vcmpltS 3 5 7 9 1), some (.vcmpleS 3 5 7 9 1), some (.vcmpgtS 3 5 7 9 1),
     some (.vcmpgeS 3 5 7 9 1), some (.vcmpunS 3 5 7 9 1), some (.mnot 3 5), some (.mpopc 3 5),
     some (.mfirst 3 5), some (.mand 3 5 7), some (.mor 3 5 7), some (.mxor 3 5 7),
     some (.mandn 3 5 7), some (.vbcast 3 5 7), some (.vmv 3 5 7), some (.vcvt 3 5 7 1),
     some (.vclass 3 5 7 1), some (.vrecpe 3 5 7 1), some (.vexp2e 3 5 7 1), some (.vext 3 5 7),
     some (.vmerge 3 5 7 1), some (.vsadd 3 5 7 9 1)] := by
  decide +kernel

/-- Words of R261, R298 to R302, R305, each field with a value of its own. -/
theorem test_decode_masks_2 :
    [decodeTableWord 32 0x88653A49, decodeTableWord 32 0x88653A4A, decodeTableWord 32 0x88653A4B, decodeTableWord 32 0x88653A4C,
     decodeTableWord 32 0x88653A4D, decodeTableWord 32 0x88653A4E, decodeTableWord 32 0x88653A4F, decodeTableWord 32 0x8C653A48,
     decodeTableWord 32 0x8C653A49, decodeTableWord 32 0x8C653A4A, decodeTableWord 32 0x8C653A4B, decodeTableWord 32 0x8C653A4C,
     decodeTableWord 32 0x8C653A4D, decodeTableWord 32 0x8C653A4E, decodeTableWord 32 0x8C653A4F]
    = [some (.vssub 3 5 7 9 1), some (.vsmul 3 5 7 9 1), some (.vsmacc 3 5 7 9 1), some (.vssra 3 5 7 9 1),
     some (.vssrl 3 5 7 9 1), some (.vnclip 3 5 7 9 1), some (.vavg 3 5 7 9 1), some (.vsaddS 3 5 7 9 1),
     some (.vssubS 3 5 7 9 1), some (.vsmulS 3 5 7 9 1), some (.vsmaccS 3 5 7 9 1), some (.vssraS 3 5 7 9 1),
     some (.vssrlS 3 5 7 9 1), some (.vnclipS 3 5 7 9 1), some (.vavgS 3 5 7 9 1)] := by
  decide +kernel

/-- Words of R262, R306 to R314, each field with a value of its own. -/
theorem test_decode_cross :
    [decodeTableWord 32 0x90653A48, decodeTableWord 32 0x90653A49, decodeTableWord 32 0x90653A4A, decodeTableWord 32 0x90653A4B,
     decodeTableWord 32 0x90653A4C, decodeTableWord 32 0x90653A4D, decodeTableWord 32 0x90653A4E, decodeTableWord 32 0x9460002B,
     decodeTableWord 32 0x9465003A, decodeTableWord 32 0x9465003D, decodeTableWord 32 0x9465003E, decodeTableWord 32 0x946501C8,
     decodeTableWord 32 0x946501C9, decodeTableWord 32 0x9465380C, decodeTableWord 32 0x98653806, decodeTableWord 32 0x98653808,
     decodeTableWord 32 0x98653809, decodeTableWord 32 0x9865380A, decodeTableWord 32 0x9865380B, decodeTableWord 32 0x9865380C]
    = [some (.vredsumO 3 5 7 9 1), some (.vredsumU 3 5 7 9 1), some (.vredmin 3 5 7 9 1), some (.vredmax 3 5 7 9 1),
     some (.vredand 3 5 7 9 1), some (.vredor 3 5 7 9 1), some (.vredxor 3 5 7 9 1), some (.vid 3 5),
     some (.viota 3 5 7), some (.vcompress 3 5 7), some (.vexpand 3 5 7), some (.vscanO 3 5 7 1),
     some (.vscanFast 3 5 7 1), some (.rnggen 3 5 7 1), some (.xchg 3 5 7), some (.vslideup 3 5 7 1),
     some (.vslidedn 3 5 7 1), some (.vslide1up 3 5 7 1), some (.vslide1dn 3 5 7 1), some (.vperm 3 5 7 1)] := by
  decide +kernel

/-- Words of R264, R315 to R322, each field with a value of its own. -/
theorem test_decode_vector_memory :
    [decodeTableWord 32 0xA065070A, decodeTableWord 32 0xA065074A, decodeTableWord 32 0xA065078A, decodeTableWord 32 0xA465070A,
     decodeTableWord 32 0xA465074A, decodeTableWord 32 0xA8653922, decodeTableWord 32 0xA8653962, decodeTableWord 32 0xA86539A2,
     decodeTableWord 32 0xAC653922, decodeTableWord 32 0xAC653962, decodeTableWord 32 0xB065380A, decodeTableWord 32 0xB065384A,
     decodeTableWord 32 0xB465380A, decodeTableWord 32 0xB465384A, decodeTableWord 32 0xB865380A, decodeTableWord 32 0xB865384A,
     decodeTableWord 32 0xB865390A, decodeTableWord 32 0xB865394A, decodeTableWord 32 0xB8653A0A, decodeTableWord 32 0xB8653A4A,
     decodeTableWord 32 0xB8653B0A, decodeTableWord 32 0xB8653B4A, decodeTableWord 32 0xB8653C0A, decodeTableWord 32 0xB8653C4A,
     decodeTableWord 32 0xB8653D0A, decodeTableWord 32 0xB8653D4A, decodeTableWord 32 0xB8653E0A, decodeTableWord 32 0xB8653E4A,
     decodeTableWord 32 0xB8653F0A, decodeTableWord 32 0xB8653F4A]
    = [some (.vld 3 5 7 1 2), some (.vldu 3 5 7 1 2), some (.vldf 3 5 7 1 2), some (.vst 3 5 7 1 2),
     some (.vstu 3 5 7 1 2), some (.vlds 3 5 7 1 4 2), some (.vldsu 3 5 7 1 4 2), some (.vldsf 3 5 7 1 4 2),
     some (.vsts 3 5 7 1 4 2), some (.vstsu 3 5 7 1 4 2), some (.vldx 3 5 7 1 2), some (.vldxu 3 5 7 1 2),
     some (.vstx 3 5 7 1 2), some (.vstxu 3 5 7 1 2), some (.vamoaddI 3 5 7 1 2), some (.vamoadduI 3 5 7 1 2),
     some (.vamoaddF 3 5 7 1 2), some (.vamoadduF 3 5 7 1 2), some (.vamoswap 3 5 7 1 2), some (.vamoswapu 3 5 7 1 2),
     some (.vamomin 3 5 7 1 2), some (.vamominu 3 5 7 1 2), some (.vamomax 3 5 7 1 2), some (.vamomaxu 3 5 7 1 2),
     some (.vamoand 3 5 7 1 2), some (.vamoandu 3 5 7 1 2), some (.vamoor 3 5 7 1 2), some (.vamooru 3 5 7 1 2),
     some (.vamoxor 3 5 7 1 2), some (.vamoxoru 3 5 7 1 2)] := by
  decide +kernel

/-- Words of R265, R330 to R341, each field with a value of its own. -/
theorem test_decode_matrix :
    [decodeTableWord 32 0xC0030004, decodeTableWord 32 0xC06501C3, decodeTableWord 32 0xC0650A40, decodeTableWord 32 0xC0650A41,
     decodeTableWord 32 0xC0650A42, decodeTableWord 32 0xC4030001, decodeTableWord 32 0xC4253A40]
    = [some (.mxclr 3), some (.mxrd 3 5 7), some (.mrow 3 5 1 9), some (.mrowm 3 5 1 9),
     some (.mrowx 3 5 1 9), some (.cbload 3), some (.mtload 1 5 7 9)] := by
  decide +kernel

/-- Words of R266, R343 to R379, each field with a value of its own. -/
theorem test_decode_engines_1 :
    [decodeTableWord 32 0xD0652100, decodeTableWord 32 0xD0652101, decodeTableWord 32 0xD0652102, decodeTableWord 32 0xD0652103,
     decodeTableWord 32 0xD0652104, decodeTableWord 32 0xD4650000, decodeTableWord 32 0xD4650001, decodeTableWord 32 0xD8650001,
     decodeTableWord 32 0xD8650700, decodeTableWord 32 0xDC653800, decodeTableWord 32 0xDC653801, decodeTableWord 32 0xE0000404,
     decodeTableWord 32 0xE0650003, decodeTableWord 32 0xE0653800, decodeTableWord 32 0xE0653801, decodeTableWord 32 0xE0653802,
     decodeTableWord 32 0xE4650000, decodeTableWord 32 0xE4653801, decodeTableWord 32 0xE4653802, decodeTableWord 32 0xE4653803,
     decodeTableWord 32 0xE4653804, decodeTableWord 32 0xE4653805, decodeTableWord 32 0xE8030003, decodeTableWord 32 0xE8030005,
     decodeTableWord 32 0xE8650000, decodeTableWord 32 0xE8650004, decodeTableWord 32 0xE8653801, decodeTableWord 32 0xE8653802,
     decodeTableWord 32 0xEC030005, decodeTableWord 32 0xEC032804]
    = [some (.copy 3 5 4 1), some (.copyrO 3 5 4 1), some (.copyrU 3 5 4 1), some (.copyZ 3 5 4 1),
     some (.copyMig 3 5 4 1), some (.pushq 3 5), some (.popq 3 5), some (.vrecv 3 5),
     some (.vsend 3 5 7), some (.fred 3 5 7), some (.fredw 3 5 7), some (.stepinv 4),
     some (.unsub 3 5), some (.ldstandLatest 3 5 7), some (.ldstandQueue 3 5 7), some (.slotrd 3 5 7),
     some (.smax 3 5), some (.skth 3 5 7), some (.swgt 3 5 7), some (.stopp 3 5 7),
     some (.sdraw 3 5 7), some (.sdrawHw 3 5 7), some (.psync 3), some (.pfree 3),
     some (.pbind 3 5), some (.pstat 3 5), some (.papp 3 5 7), some (.pld 3 5 7),
     some (.kvrel 3), some (.kvfork 3 5)] := by
  decide +kernel

/-- Words of R266, R343 to R379, each field with a value of its own. -/
theorem test_decode_engines_2 :
    [decodeTableWord 32 0xEC032806, decodeTableWord 32 0xEC032807, decodeTableWord 32 0xEC650002, decodeTableWord 32 0xEC653800,
     decodeTableWord 32 0xEC653801, decodeTableWord 32 0xEC653803]
    = [some (.kvcow 3 5), some (.kvforkM 3 5), some (.kvldB 3 5), some (.kvmap 3 5 7),
     some (.kvld 3 5 7), some (.kvapp 3 5 7)] := by
  decide +kernel

/-- Words of R267, R281, R381 to R389, each field with a value of its own. -/
theorem test_decode_system :
    [decodeTableWord 32 0xF0000300, decodeTableWord 32 0xF0000301, decodeTableWord 32 0xF0000302, decodeTableWord 32 0xF0000303,
     decodeTableWord 32 0xF0000304, decodeTableWord 32 0xF0000305, decodeTableWord 32 0xF0000306, decodeTableWord 32 0xF0000307,
     decodeTableWord 32 0xF4031005, decodeTableWord 32 0xF4032005, decodeTableWord 32 0xF4033005, decodeTableWord 32 0xF4600005,
     decodeTableWord 32 0xF4654008, decodeTableWord 32 0xF8000000, decodeTableWord 32 0xF8000001, decodeTableWord 32 0xF8000003,
     decodeTableWord 32 0xF8000008, decodeTableWord 32 0xF8001802, decodeTableWord 32 0xF8030005, decodeTableWord 32 0xF8030006,
     decodeTableWord 32 0xF8032807, decodeTableWord 32 0xF8650004]
    = [some (.fenceSv 3), some (.fenceVs 3), some (.fenceSvb 3), some (.fenceRel 3),
     some (.fenceAcq 3), some (.fenceRow 3), some (.vbar 3), some (.gbar 3),
     some (.csrw 3 5), some (.csrs 3 5), some (.csrc 3 5), some (.csrr 3 5),
     some (.csrrw 3 5 8), some (.halt), some (.yield), some (.eret),
     some (.hstop), some (.trap 3), some (.freplay 3), some (.fconv 3),
     some (.heatage 3 5), some (.glaunch 3 5)] := by
  decide +kernel

/-! ## Words the spec gives in its text -/

/-- The worked encodings of the last section on the instruction index, and words given with single instructions. -/
theorem test_decode_worked :
    [decodeTableWord 32 0x2885_FFFB, decodeTableWord 32 0x1800_003F, decodeTableWord 32 0x3C85_0490, decodeTableWord 32 0x3CC8_3CE4,
     decodeTableWord 32 0x7844_4282, decodeTableWord 32 0xA106_0341, decodeTableWord 32 0xD109_6300, decodeTableWord 32 0xF000_0401,
     decodeTableWord 32 0xF480_0000, decodeTableWord 32 0xF405_100A, decodeTableWord 32 0xF406_300C, decodeTableWord 32 0x5000_0001,
     decodeTableWord 32 0x580C_0100, decodeTableWord 32 0x80A2_0005, decodeTableWord 32 0x9584_001D, decodeTableWord 32 0x9A08_6006,
     decodeTableWord 32 0xD40C_0000, decodeTableWord 32 0xD5A4_0001, decodeTableWord 32 0xD888_0200, decodeTableWord 32 0xD985_0001,
     decodeTableWord 32 0xE085_3000, decodeTableWord 32 0xE0E6_4002, decodeTableWord 32 0xE000_0504, decodeTableWord 32 0xFBFF_F802]
    = [some (.blt 4 5 0xFFFB), some (.jal 63), some (.ldAcq 4 5 4 2), some (.amoadd 6 8 7 4 3 2),
       some (.vcmplt 2 4 8 10 0), some (.vldu 8 6 3 0 1), some (.copy 8 9 12 3), some (.fenceVs 4),
       some (.csrr 4 0), some (.csrw 5 0xA), some (.csrc 6 0xC), some (.vsetmt 1),
       some (.icpf 12 256), some (.mpopc 5 2), some (.vcompress 12 4 3), some (.xchg 16 8 12),
       some (.pushq 0 12), some (.popq 13 4), some (.vsend 4 8 2), some (.vrecv 12 5),
       some (.ldstandLatest 4 5 6), some (.slotrd 7 6 8), some (.stepinv 5), some (.trap 0x7FFF)] := by
  decide +kernel

/-- Words no table assigns: the zero word, a compare into m0 and a load with release ordering (the section's own examples), a reserved
major, a nonzero field that must be zero, a reserved fn8. -/
theorem test_decode_refuses :
    [decodeTableWord 32 0, decodeTableWord 32 0x7804_4282, decodeTableWord 32 0x3C85_0460, decodeTableWord 32 0xFC00_0000,
     decodeTableWord 32 0x4820_0000, decodeTableWord 32 0xF800_0009, decodeTableWord 32 0xF480_0013]
    = [none, none, none, none, none, none, none] := by
  decide +kernel

/-! ## Ill-formed instructions -/

/-- One instruction for each check of well-formedness, which that check refuses. -/
theorem test_wf_refuses :
    [Instr.wf (.ldBHW 32 5 1), Instr.wf (.ldBHW 3 32 1), Instr.wf (.ldAcq 3 5 1 4), Instr.wf (.ldBHW 3 5 3),
     Instr.wf (.vld 3 5 8 1 2), Instr.wf (.ldAcq 3 5 7 2), Instr.wf (.stBHW 3 32 1), Instr.wf (.amoswap 3 5 7 4 2 4),
     Instr.wf (.amoswap 3 5 7 4 0 1), Instr.wf (.vsetl 3 5 64), Instr.wf (.vsetl 3 5 4), Instr.wf (.vsetl 3 5 32),
     Instr.wf (.vsetmt 4), Instr.wf (.icpf 3 65536), Instr.wf (.cwait 256), Instr.wf (.vaddI 3 5 7 32 1),
     Instr.wf (.vaddI 3 5 7 9 8), Instr.wf (.vcmpeq 0 5 7 9 1), Instr.wf (.vcmpeq 8 5 7 9 1), Instr.wf (.mand 3 8 7),
     Instr.wf (.mand 3 5 8), Instr.wf (.vmerge 3 5 7 0), Instr.wf (.vld 3 5 7 1 8), Instr.wf (.vld 3 5 7 1 5),
     Instr.wf (.vld 3 5 1 1 4), Instr.wf (.vlds 3 5 7 1 4 4), Instr.wf (.vamoaddI 3 5 7 1 0), Instr.wf (.vamoaddF 3 5 7 1 0),
     Instr.wf (.vamoaddF 3 5 7 1 3), Instr.wf (.mrow 3 5 2 9), Instr.wf (.fred 3 5 32), Instr.wf (.copy 3 5 4 8),
     Instr.wf (.copy 3 5 5 1), Instr.wf (.copy 3 5 0 1), Instr.wf (.copy 3 5 29 1), Instr.wf (.pushq 4 5),
     Instr.wf (.popq 3 0), Instr.wf (.stepinv 0), Instr.wf (.gbar 0), Instr.wf (.j 67108864),
     Instr.wf (.beq 3 5 65536), Instr.wf (.slli 3 5 64), Instr.wf (.csrr 3 4096), Instr.wf (.csrr 3 19),
     Instr.wf (.csrw 3 0), Instr.wf (.trap 32768)].any id = false := by
  decide +kernel

/-- The checks pass the same kinds of operands at the ends of their ranges. -/
theorem test_wf_accepts :
    [Instr.wf (.ldBHW 31 31 2), Instr.wf (.ldAcq 31 31 6 3), Instr.wf (.amoswap 31 31 31 6 2 3), Instr.wf (.vsetl 31 31 0x1B),
     Instr.wf (.vcmpeq 7 31 31 31 7), Instr.wf (.copy 31 31 28 7), Instr.wf (.csrr 31 0x106), Instr.wf (.csrw 31 0x106),
     Instr.wf (.trap 32767), Instr.wf (.j 67108863), Instr.wf (.slli 31 31 63), Instr.wf .powerOn].all id = true := by
  decide +kernel

/-- A well-formed instruction, its word and its bytes: what `DecodeEncode` and `EncodeDecode` ask of their terms. -/
theorem test_meets_encoding :
    (Instr.add 3 4 5).wf = true ∧ encode (.add 3 4 5) = some 0x0464_2800 ∧ 0x0464_2800 < 2 ^ 32
      ∧ decodeWord 0x0464_2800 = some (.add 3 4 5) := by
  decide +kernel

/-! ## Scalar words -/

/-- What the statements on scalar words ask: a running hart, operands without poison that nothing owes. -/
theorem test_meets_scalar :
    (dev alu).curHart = some alu ∧ alu.usable 4 = true ∧ alu.usable 5 = true ∧ alu.owed 3 = false ∧ alu.queue = [] := by
  refine ⟨rfl, ?_⟩; decide +kernel

/-- The division clauses at their meeting points: y ≠ 0, y = 0, and the most negative number by −1. -/
theorem test_meets_division :
    alu.rd 5 ≠ 0 ∧ alu.rd 6 = 0
      ∧ (hartAt 2 [(4, 0x8000_0000_0000_0000), (5, 0xFFFF_FFFF_FFFF_FFFF)]).rd 4 = BitVec.intMin 64
      ∧ (hartAt 2 [(4, 0x8000_0000_0000_0000), (5, 0xFFFF_FFFF_FFFF_FFFF)]).rd 5 = BitVec.allOnes 64 := by
  decide +kernel

/-- The counts of leading and trailing zeros at both ends of x, and at 0. -/
theorem test_meets_counts :
    (alu.rd 4).toNat < 2 ^ 4 ∧ 2 ^ 3 ≤ (alu.rd 4).toNat ∧ (alu.rd 4).toNat % 2 ^ 2 = 0 ∧ (alu.rd 4).toNat / 2 ^ 2 % 2 = 1
      ∧ 2 ^ 63 ≤ (alu.rd 5).toNat ∧ alu.rd 0 = 0 := by
  decide +kernel

/-- A poisoned s4. -/
def poisoned : Hart := { alu with sp := 0x10 }

/-- What `ScalarPoison` asks. -/
theorem test_meets_poison :
    (dev poisoned).curHart = some poisoned ∧ poisoned.owed 4 = false ∧ poisoned.rdP 4 = true ∧ poisoned.usable 5 = true
      ∧ poisoned.owed 3 = false := by
  refine ⟨rfl, ?_⟩; decide +kernel

/-- A jump register with low bits 0 and with low bits set. -/
theorem test_meets_jumps : (alu.rd 4).toNat % 4 = 0 ∧ (alu.rd 5).toNat % 4 ≠ 0 := by decide +kernel

/-- ADD wraps modulo 2^64 and SUB keeps its operands' order: 12 + (−5), 12 − (−5) (R273). -/
theorem test_add_sub :
    (hartAfter (exec (.add 3 4 5) (dev alu))).rd 3 = 7 ∧ (hartAfter (exec (.sub 3 4 5) (dev alu))).rd 3 = 17 := by
  decide +kernel

/-- SLT is signed, SLTU is not; a source that is the destination is read first (R273). -/
theorem test_compare :
    (hartAfter (exec (.slt 5 5 4) (dev alu))).rd 5 = 1 ∧ (hartAfter (exec (.sltu 5 5 4) (dev alu))).rd 5 = 0 := by
  decide +kernel

/-- Division of 12 by −5 rounds toward zero, and the remainder takes the sign of the dividend; by 0 it gives all ones (R274). -/
theorem test_division :
    (hartAfter (exec (.div 3 4 5) (dev alu))).rd 3 = BitVec.ofInt 64 (-2) ∧ (hartAfter (exec (.rem 3 4 5) (dev alu))).rd 3 = 2
      ∧ (hartAfter (exec (.divu 3 4 6) (dev alu))).rd 3 = BitVec.allOnes 64 ∧ (hartAfter (exec (.remu 3 4 6) (dev alu))).rd 3 = 12 := by
  decide +kernel

/-- MULH of two signed numbers and CLZ of 12 (R273). -/
theorem test_mulh_clz :
    (hartAfter (exec (.mulh 3 4 5) (dev alu))).rd 3 = BitVec.allOnes 64 ∧ (hartAfter (exec (.clz 3 4) (dev alu))).rd 3 = 60 := by
  decide +kernel

/-- LUI sign-extends, ORI does not: `lui s4, 0x12` and `ori s4, s4, 0xFFFF` (R275). -/
theorem test_immediates :
    (hartAfter (exec (.lui 4 0x12) (dev alu))).rd 4 = 0x12_0000 ∧ (hartAfter (exec (.lui 4 0x8000) (dev alu))).rd 4 = 0xFFFF_FFFF_8000_0000
      ∧ (hartAfter (exec (.ori 3 4 0xFFFF) (dev alu))).rd 3 = 0xFFFF ∧ (hartAfter (exec (.addi 3 4 0xFFFF) (dev alu))).rd 3 = 11 := by
  decide +kernel

/-- BLT is signed: from −5 to 12 it goes to 0 + 4 − 20; BLTU does not (R276, the worked encoding's offset). -/
theorem test_branches :
    (hartAfter (exec (.blt 5 4 0xFFFB) (dev { alu with pc := 0x40 }))).pc = 0x30
      ∧ (hartAfter (exec (.bltu 5 4 0xFFFB) (dev { alu with pc := 0x40 }))).pc = 0x44 := by
  decide +kernel

/-- `jal f` at 0x20 with offset 63 goes to 0x120 and links 0x24; JALR reads its register before it links (R277). -/
theorem test_jumps :
    (hartAfter (exec (.jal 63) (dev { alu with pc := 0x20 }))).pc = 0x120
      ∧ (hartAfter (exec (.jal 63) (dev { alu with pc := 0x20 }))).rd 1 = 0x24
      ∧ (hartAfter (exec (.jalr 4 4) (dev alu))).pc = 12 ∧ (hartAfter (exec (.jalr 4 4) (dev alu))).rd 4 = 4 := by
  decide +kernel

/-- A write of s0 is discarded (R253). -/
theorem test_s0 : (hartAfter (exec (.add 0 4 5) (dev alu))).rd 0 = 0 ∧ (hartAfter (exec (.add 0 4 5) (dev alu))).pc = 4 := by decide +kernel

/-! ## Memory -/

/-- A hart with no copy in flight. -/
theorem clear_idle {h : Hart} {va n : Nat} {wr : Bool} (hk : h.tokens.toList.all (fun t => t.job.isNone) = true) : h.clear va n wr := by
  intro t ht j hj
  have := List.all_eq_true.mp hk t ht
  simp [hj] at this

/-- s4 names byte 0x10 of the scratchpad, whose first bytes are 0x80 and 0xFF; s5 holds data. -/
def pad : Hart :=
  { hartAt 2 [(4, 0x1FF_FFFF_FFF0_0010), (5, 0x1122_3344_5566_7788), (6, 0xFF80)] with scratch := [(0x10, 0x80), (0x11, 0xFF)] }

/-- What the statements on the scratchpad ask. -/
theorem test_meets_scratchpad :
    (dev pad).curHart = some pad ∧ pad.usable 4 = true ∧ pad.usable 5 = true ∧ pad.usable 6 = true ∧ pad.owed 3 = false
      ∧ (pad.rd 4).toNat = padWindow + 0x10 ∧ (pad.rd 4 + (BitVec.ofNat 16 8).signExtend 64).toNat = padWindow + 0x18
      ∧ 0x10 % 2 ^ 3 = 0 ∧ pad.wbuf = [] ∧ pad.scratch.wf = true
      ∧ (∀ j, j < 2 ^ 3 → pad.scratchPoison.contains ((0x10 + j) / 16) = false)
      ∧ (atomicWords 6 4 5 0 2 0)[1]? = some (.amoadd 6 4 5 0 2 0)
      ∧ (atomicRule 32 0xFF80 0x55667788 0xFF80)[1]? = some (some 0x55677708) := by
  refine ⟨rfl, ?_⟩; decide +kernel

/-- No copy of that hart covers the bytes. -/
theorem test_meets_scratchpad_clear : pad.clear (padWindow + 0x10) 8 true := clear_idle (by decide +kernel)

/-- The last doubleword of the scratchpad's data, where the range of the statements ends. -/
theorem test_meets_scratchpad_end : 0x7_EFF8 + 8 ≤ 0x7_F000 ∧ 0x7_EFF8 % 8 = 0 ∧ padWindow + 0x7_EFF8 < 2 ^ 57 := by decide +kernel

/-- LD.B and LD.H sign-extend, LD.BU does not (R279). -/
theorem test_loads :
    (hartAfter (exec (.ldBHW 3 4 0) (dev pad))).rd 3 = 0xFFFF_FFFF_FFFF_FF80 ∧ (hartAfter (exec (.ldBuHuWu 3 4 1) (dev pad))).rd 3 = 0xFF80
      ∧ (hartAfter (exec (.ldBHW 3 4 1) (dev pad))).rd 3 = 0xFFFF_FFFF_FFFF_FF80 := by
  decide +kernel

/-- ST.H stores the two low bytes, the low byte first, and nothing beside them (R279). -/
theorem test_stores : (hartAfter (exec (.stBHW 4 5 1) (dev pad))).scratch = [(0x10, 0x88), (0x11, 0x77)] := by decide +kernel

/-- AMOADD gives the old value and stores the sum; CAS writes where its expected value, the destination, is there (R280). -/
theorem test_atomics :
    (hartAfter (exec (.amoadd 3 4 5 0 2 0) (dev pad))).rd 3 = 0xFF80
      ∧ (hartAfter (exec (.amoadd 3 4 5 0 2 0) (dev pad))).scratch = [(0x10, 0x08), (0x11, 0x77), (0x12, 0x67), (0x13, 0x55)]
      ∧ (hartAfter (exec (.cas 6 4 5 0 2 0) (dev pad))).scratch = [(0x10, 0x88), (0x11, 0x77), (0x12, 0x66), (0x13, 0x55)]
      ∧ (hartAfter (exec (.cas 3 4 5 0 2 0) (dev pad))).scratch = pad.scratch := by
  decide +kernel

/-- Addresses that are not aligned and not canonical, for the forms with and without an offset. -/
theorem test_meets_address_traps :
    (alu.rd 5).toNat % 8 ≠ 0 ∧ (alu.rd 5).toNat % 2 ^ 2 ≠ 0 ∧ (alu.rd 4 + (BitVec.ofNat 16 1).signExtend 64).toNat % 8 ≠ 0
      ∧ ((hartAt 2 [(4, 0x200_0000_0000_0000)]).rd 4).toNat % 8 = 0 ∧ 2 ^ 57 ≤ ((hartAt 2 [(4, 0x200_0000_0000_0000)]).rd 4).toNat
      ∧ alu.usable 3 = true := by
  decide +kernel

/-- s4 names the page that is cached; s5 holds data. -/
def mem : Hart := hartAt 2 [(4, 0x4008), (5, 0x1122_3344_5566_7788), (6, 0x11)]

/-- The device with that hart and 0x11 at the frame's byte 8. -/
def memDev : State := { dev mem with mem := [(0x8008, 0x11)] }

/-- What the statements on device memory ask: the translation stands in the die's service, the tokens are there. -/
theorem test_meets_memory :
    memDev.curHart = some mem ∧ (memDev.retry 0 0).direct mem 0x4008 8 0x8008 false [0, 1, 2, 3] { dest := .localM 0x8008, pteAddr := 0x9000, user := true }
      ∧ (memDev.retry 0 0).direct mem 0x4008 8 0x8008 true [0, 1, 2, 3] { dest := .localM 0x8008, pteAddr := 0x9000, user := true }
      ∧ (memDev.retry 0 0).direct mem 0x4008 8 0x8008 true [0, 2] { dest := .localM 0x8008, pteAddr := 0x9000, user := true }
      ∧ (∃ s1, (memDev.retry 0 0).paid mem 0x8008 1 s1) ∧ popcount 4 (granules 0x4008 8) = 1 ∧ sectorCount 0x8008 8 = 1 ∧ memDev.noHeat ∧ memDev.mem.wf = true := by
  have idle {va n : Nat} {wr : Bool} : mem.clear va n wr := clear_idle (by decide +kernel)
  refine ⟨rfl, ⟨rfl, by decide, idle, rfl, rfl, rfl, by decide⟩, ⟨rfl, by decide, idle, rfl, rfl, rfl, by decide⟩,
    ⟨rfl, by decide, idle, rfl, rfl, rfl, by decide⟩, Option.isSome_iff_exists.mp (by decide +kernel), rfl, rfl, ?_⟩
  show BB memDev.dev.heatcfg 32 = false ∧ _
  decide +kernel

/-- The rest of what they ask. -/
theorem test_meets_memory_more :
    mem.usable 4 = true ∧ mem.usable 5 = true ∧ mem.usable 6 = true ∧ mem.wbuf = [] ∧ memDev.snoop = []
      ∧ (∀ i, i < 8 → memDev.retiredLine ((0x8008 + i) / 64) = false) ∧ (memDev.homeBytes 0x8008 8).2.any id = false
      ∧ (atomicWords 6 4 5 0 3 0)[9]? = some (.cas 6 4 5 0 3 0)
      ∧ (atomicRule 64 0x11 0x1122_3344_5566_7788 0x11)[9]? = some (some 0x1122_3344_5566_7788) := by
  decide +kernel

/-- A load from memory, and a store that waits in the write buffer (R202, R279). -/
theorem test_memory :
    (hartAfter (exec (.ldD 3 4 0) memDev)).rd 3 = 0x11 ∧ (after (exec (.stD 5 4 0) memDev)).mem = [(0x8008, 0x11)]
      ∧ ((hartAfter (exec (.stD 5 4 0) memDev)).wbuf.map PendWrite.pa) = [0x8008] := by
  decide +kernel

/-- A release is performed at once (R202). -/
theorem test_release : (after (exec (.stRel 4 5 0 1) memDev)).mem = [(0x8008, 0x88), (0x8009, 0x77)] := by decide +kernel

/-- A write of two bytes over one that is there. -/
theorem test_meets_commit : memDev.mem.wf = true ∧ [false, false].length = ([1, 2] : List Byte).length
    ∧ (∀ i, i < 2 → memDev.retiredLine ((0x8007 + i) / 64) = false) ∧ (memDev.commitWrite 0x8007 [1, 2] [false, false]).mem = [(0x8007, 1), (0x8008, 2)] := by
  decide +kernel

/-! ## Control registers, traps, system words -/

/-- A hart with a handler at 0x1000, stopped at 0x40 at user level, and a page table that maps its save area. -/
def trapped : Hart := { hartAt 0 [(4, 12)] with tvec := 0x1001, pc := 0x40, rows := [] }

/-- The device with that hart: the table at 0 names the table at 2 MiB, whose first entry is a 1 GiB leaf. -/
def trapDev : State :=
  { dev trapped with mem := [(0, 1), (2, 0x20), (0x20_0000, 0x63), (0x20_0001, 0x03), (0x20_0003, 0x40)] }.modFn 0
    (fun g => { g with ptroot := 1 })

/-- Did a computation end with a value that a test accepts? -/
def endsOk (p : α → Bool) (r : EStateM.Result Stop State α) : Bool :=
  match r with
  | .ok a _ => p a
  | .error _ _ => false

/-- What a computation that ended with a value left. -/
theorem ends_ok {x : EStateM.Result Stop State α} {a : α} {p : α → Bool} (h : endsOk p x = true) (ha : ∀ b, p b = true → b = a) :
    ∃ t, x = .ok a t := by
  cases x with
  | ok b t => exact ⟨t, by rw [ha b h]⟩
  | error e t => simp [endsOk] at h

/-- What the statements on control registers ask, with a register of each kind. -/
theorem test_meets_csr :
    (dev alu).curHart = some alu ∧ alu.usable 4 = true ∧ alu.owed 3 = false ∧ alu.queue = [] ∧ alu.level ≠ 0 ∧ csrListed 0x012 = true
      ∧ csrReadOnly 0x00C = false ∧ csrW1c 0x00C = false ∧ (alu.hcrOf (alu.rd 4)).getLsbD 0 = false ∧ csrW1c 0x012 = true ∧ alu.rd 4 ≠ 0
      ∧ csrListed 0x106 = true ∧ csrListed 0x107 = false ∧ csrWritable 0x002 = false ∧ csrWritable 0x100 = true := by
  refine ⟨rfl, ?_⟩; decide +kernel

/-- What the trapping words of the statements encode to, and a hart at user level. -/
theorem test_meets_csr_traps :
    encode (.csrr 3 0x107) = some 0xF460_0107 ∧ encode (.csrw 4 2) = some 0xF404_1002 ∧ encode (.csrr 3 0x100) = some 0xF460_0100
      ∧ (hartAt 0 []).level = 0 ∧ encode (.csrw 5 0xC) = some 0xF405_100C ∧ ((hartAt 2 [(5, 5)]).hcrOf 5).getLsbD 2 = true
      ∧ ((hartAt 2 [(5, 5)]).hcrOf 5).getLsbD 0 = true := by
  decide +kernel

/-- CSRRW gives the old value and stores the new one; FRM stores 0 for a reserved mode (R170, R281). -/
theorem test_csrrw :
    (hartAfter (exec (.csrrw 3 4 0x106) (dev { alu with tscratch := 9 }))).rd 3 = 9
      ∧ (hartAfter (exec (.csrrw 3 4 0x106) (dev { alu with tscratch := 9 }))).tscratch = 12
      ∧ (hartAfter (exec (.csrw 6 0x00A) (dev (hartAt 2 [(6, 5)])))).frm = 0 := by
  decide +kernel

/-- At user level HCR keeps DET and CARRY (R172). -/
theorem test_hcr_user : (hartAfter (exec (.csrw 4 0x00C) (dev (hartAt 0 [(4, 0x1F)])))).hcr = 0x16 := by decide +kernel

/-- A trap that finds no handler, and a gang that is not stopped yet. -/
theorem test_meets_trap_stops : (dev alu).curHart = some alu ∧ alu.noHandler 0x01 = true ∧ (dev alu).gang? alu.gang = some gang0
    ∧ gang0.stop = none ∧ ({ alu with tvec := 1 } : Hart).noHandler 0x13 = true ∧ alu.stuckBefore { code := 0x01 } = false ∧ (dev alu).pushes = [] := by
  refine ⟨rfl, by decide +kernel, rfl, rfl, ?_⟩; decide +kernel

/-- A trap whose context is saved. -/
theorem test_meets_trap_enters : trapDev.curHart = some trapped ∧ trapped.noHandler 0x10 = false ∧ trapped.stuckBefore { code := 0x10 } = false
    ∧ trapDev.mayStop trapped none false = true ∧ ∃ s1, saveRegisterContext trapDev = .ok none s1 :=
  ⟨rfl, by decide +kernel, by decide +kernel, by decide +kernel, ends_ok (p := fun a => a.isNone) (by decide +kernel) (by simp)⟩

/-- TRAP commits, then enters the handler: cause, value, address of the next word, old level with ACTIVE and IMAGE, manager level (R217, R386). -/
theorem test_trap :
    let h := hartAfter (exec (.trap 5) trapDev)
    h.tcause = 0x10 ∧ h.tval = 5 ∧ h.tpc = 0x44 ∧ h.tstatus = 0xC ∧ h.level = 2 ∧ h.pc = 0x1000 := by
  decide +kernel

/-- A trap with no handler stops the gang with status 2 and the cause (R218). -/
theorem test_trap_stops : (((after (exec .vnext (dev alu))).gangs.head?).bind Gang.stop) = some (2, 1) := by decide +kernel

/-- In the handler: ACTIVE set, no image, and back at TPC at user level. -/
def handler : Hart := { hartAt 2 [] with tstatus := 0x4, tpc := 0x44 }

/-- What `EretReturns` asks: a handler without an image; one that would raise the level; none active; user level. -/
theorem test_meets_eret :
    (dev handler).curHart = some handler ∧ encode .eret = some 0xF800_0003 ∧ handler.level ≠ 0 ∧ handler.tstatus.getLsbD 2 = true
      ∧ handler.queue = [] ∧ handler.tstatus.toNat % 4 ≤ handler.level ∧ handler.tstatus.getLsbD 3 = false
      ∧ ({ handler with level := 1, tstatus := 6 } : Hart).level < (6 : Word).toNat % 4 ∧ alu.tstatus.getLsbD 2 = false ∧ ({ handler with level := 0 } : Hart).level = 0 := by
  refine ⟨rfl, ?_⟩; decide +kernel

/-- A handler whose image is all zero but for its checksum, or is not mapped. -/
def imaged (mapped : Bool) : State :=
  { trapDev with
    mem := if mapped then trapDev.mem ++ [(0x4000_01FC, 0x15), (0x4000_01FD, 0xBE), (0x4000_01FE, 0x90), (0x4000_01FF, 0x08)] else []
    harts := [{ handler with rows := [], tstatus := 0xC, img := some {
      id := 0, queue := [], qbase := 0, rows := [], sp := 0, vlSet := 0, loopSince := false, level := 0,
      inq := Vector.replicate 4 [], outq := Vector.replicate 4 [], toks := List.replicate 8 none, apxRow := 0 } }] }

set_option maxRecDepth 200000 in
/-- What the image clauses of `EretReturns` ask: an image that checks, and one that does not. -/
theorem test_meets_eret_image :
    (imaged true).mem.wf = true
      ∧ ((imaged true).curHart.bind Hart.img).map (fun i => endsOk (fun a => match a with
        | .ok level => level == i.level
        | .error _ => false) (restoreContext i 2 (imaged true))) = some true
      ∧ ((imaged false).curHart.bind Hart.img).map (fun i => endsOk (fun a => match a with
        | .ok _ => false
        | .error _ => true) (restoreContext i 2 (imaged false))) = some true := by
  decide +kernel

/-- ERET goes back to TPC at the old level (R388). -/
theorem test_eret : (hartAfter (exec .eret (dev handler))).pc = 0x44 ∧ (hartAfter (exec .eret (dev handler))).level = 0 := by decide +kernel

/-- Words of a level above the hart's. -/
theorem test_meets_privilege :
    (dev (hartAt 0 [])).curHart = some (hartAt 0 []) ∧ (hartAt 0 []).level = 0 ∧ ({ hartAt 0 [] with tstatus := 4 } : Hart).tstatus.getLsbD 2 = true ∧ encode .hstop = some 0xF800_0008
      ∧ encode (.heatage 4 5) = some 0xF804_2807 ∧ (hartAt 1 []).level < 2 ∧ encode (.csrs 4 0x106) = some 0xF404_2106 := by
  refine ⟨rfl, ?_⟩; decide +kernel

/-- HALT with and without work before it; HSTOP above user level. -/
theorem test_meets_system :
    alu.carry = false ∧ alu.queue = [] ∧ (∀ t ∈ alu.tokens.toList, t.job = none) ∧ (rowHart { op := opOf (.vdead 4) 0 0 0 }).queue ≠ []
      ∧ (rowHart { op := opOf (.vdead 4) 0 0 0 }).carry = false ∧ alu.level ≠ 0 ∧ alu.saved = false ∧ (dev alu).mayStop alu none false = true := by
  decide +kernel

/-- HSTOP ends the hart where it stands; HALT ends it at its own address (R387, R389). -/
theorem test_halt : (hartAfter (exec .halt (dev alu))).halted = true ∧ (hartAfter (exec .hstop (dev alu))).stopped = true
    ∧ (hartAfter (exec .hstop (dev alu))).pc = 0 := by decide +kernel

/-- Fences: an empty write buffer and one that is not; every queued word performed; a hart at a barrier. -/
theorem test_meets_fences :
    (dev alu).curHart = some alu ∧ alu.queue.length < 64 ∧ alu.wbuf = [] ∧ alu.performed = true ∧ alu.gbarWait = false ∧ alu.carry = false
      ∧ ({ alu with gbarWait := true } : Hart).gbarWait = true ∧ ((alu.inq[3]?).getD []).length < 16
      ∧ (hartAfter (exec (.stD 5 4 0) memDev)).wbuf.length = 1 := by
  refine ⟨rfl, ?_⟩; decide +kernel

/-- GBAR in a gang of one passes at once and counts the arrival (R382). -/
theorem test_gbar : (hartAfter (exec (.gbar 3) (dev alu))).gbarCount = 1 ∧ (hartAfter (exec (.gbar 3) (dev alu))).pc = 4 := by decide +kernel

/-- A FID that is open and one that is not. -/
theorem test_meets_fault_commands :
    ({ dev alu with faults := [⟨12, 0, 4, 1, false⟩] } : State).curHart = some alu ∧ (dev alu).kvMarks = [] ∧ alu.level ≠ 0 ∧ alu.usable 4 = true ∧ (alu.rd 4).toNat < 1024
      ∧ alu.wbuf = [] ∧ ({ dev alu with faults := [⟨12, 0, 4, 1, false⟩] } : State).faults.any (fun o => o.fid == (alu.rd 4).toNat && o.fn == 0) = true
      ∧ (dev alu).faults.any (fun o => o.fid == (alu.rd 4).toNat) = false := by
  refine ⟨rfl, ?_⟩; decide +kernel

/-- A parked hart, as the last clause of `FaultCommands` asks. -/
theorem test_meets_parked : ({ alu with park := some { fid := 12, cause := 1, va := 0 } } : Hart).park.map Park.fid = some 12 := by decide +kernel

/-- A stale FREPLAY is counted in FRSTAT (R384). -/
theorem test_freplay : ((after (exec (.freplay 4) (dev alu))).fn 0).frstat = 0x1_0001_000C := by decide +kernel

/-- GLAUNCH: a record address with LEV, in the page that is cached, and the read of it. -/
def launcher : Hart := hartAt 2 [(4, 0x4041), (5, 2), (6, 0), (7, 0x1FF_FFFF_FFFF_0040)]

/-- What `LaunchAndHeat` asks. -/
theorem test_meets_launch :
    (dev launcher).curHart = some launcher ∧ launcher.usable 4 = true ∧ launcher.usable 5 = true ∧ launcher.owed 3 = false ∧ launcher.level = 2
      ∧ (launcher.rd 4).toNat < regWindow ∧ regWindow ≤ (launcher.rd 7).toNat ∧ (launcher.rd 7).toNat < 2 ^ 57 ∧ launcher.usable 7 = true
      ∧ (launcher.rd 4).toNat % 64 < 2 ∧ launcher.wbuf = [] ∧ launcher.fn = 0
      ∧ endsOk (fun r => !r.2.any id) (readAny ((dev launcher).accOf launcher 0) 0x4040 64 [0, 1, 2, 3] ((dev launcher).retry 0 0)) = true
      ∧ (match submit 0 none 0x4040 0 2 (dev launcher) with
        | .ok y t => y.1 == 4 && t.curHart.any (fun k => !k.owed 3)
        | .error _ _ => false) = true
      ∧ (launcher.rd 6).toNat < 2 ^ 35 := by
  refine ⟨rfl, ?_⟩; decide +kernel

/-- GLAUNCH of a record of zeros answers MALFORMED (R383); HEATAGE halves the heat of frames 0 and 1 alone (R385). -/
theorem test_launch_heat :
    (hartAfter (exec (.glaunch 3 4) (dev launcher))).rd 3 = 4
      ∧ (after (exec (.heatage 6 5) { dev launcher with mem := [(0, 9), (2, 1), (4, 8)] })).mem = [(0, 4), (4, 8)] := by
  decide +kernel

/-! ## Steps -/

/-- The hart `alu` stands at a word whose line its die holds, and its issue is next. -/
def fetchDev (w : Nat) : State := { dev alu with agenda := [.issue 0], icache := [lineWith 0 0 0 (wordBytes w)] }

/-- What the statements on a step that issues ask: a word that decodes, one that does not, and no line. -/
theorem test_meets_step :
    (fetchDev 0x0C64_2800).hart? 0 = some alu ∧ ({ fetchDev 0x0C64_2800 with agenda := [], stalled := [] } : State).hartTurn alu = true
      ∧ alu.park = none
      ∧ ((fetchDev 0x0464_2800).iline alu 0).map (fun l => (l.poison, (decode (l.fetch 0)).toOption.map Prod.fst))
        = some (false, some (.add 3 4 5))
      ∧ ((fetchDev 0).iline alu 0).map (fun l => (l.poison, (decode (l.fetch 0)).toOption.isSome)) = some (false, false)
      ∧ ({ fetchDev 0 with icache := [] } : State).iline alu 0 = none := by
  refine ⟨rfl, ?_⟩; decide +kernel

/-- What the statements on a step that runs an event ask. -/
theorem test_meets_step_event :
    ({ rowDev { op := opOf (.vid 1 0) 0 0 0 } with stalled := [] } : State).rowTurn 0 0 = true ∧ encode .powerRemoval = none ∧ ({ fetchDev 0 with agenda := [.event .powerRemoval] } : State).agenda = [.event .powerRemoval]
    ∧ ∀ w, Instr.powerRemoval ≠ .illegalInstruction w := by
  refine ⟨by decide +kernel, by decide +kernel, rfl, by simp⟩

/-- Does a step answer a next state that passes a test? -/
def stepsTo (p : State → Bool) (o : Host.Outcome State Fault Refusal) : Bool :=
  match o with
  | .next t => p t
  | _ => false

/-- A state that such a test shows. -/
theorem steps_to {o : Host.Outcome State Fault Refusal} {p : State → Bool} (h : stepsTo p o = true) : ∃ t, o = .next t ∧ p t = true := by
  cases o with
  | next t => exact ⟨t, rfl, h⟩
  | fault f => simp [stepsTo] at h
  | refused r => simp [stepsTo] at h

/-- What `CanonicalKept` asks: a step that writes memory, with power. -/
theorem test_meets_canonical :
    let s : State := { memDev with agenda := [.event (.hostMemWrite 0x8008 2 0x300)] }
    s.powered = true ∧ s.mem.wf = true ∧ ∃ t, step s = .next t ∧ decide (t.mem = [(0x8009, 3)]) = true :=
  ⟨rfl, by decide +kernel, steps_to (by decide +kernel)⟩

/-- A step runs the word at the pc, and a miss waits for the line (R155). -/
theorem test_step :
    stepsTo (fun t => (t.harts.head?).any (fun h => h.rd 3 == 7 && h.pc == 4)) (step (fetchDev 0x0464_2800)) = true
      ∧ stepsTo (fun t => (t.harts.head?).any (fun h => h.fetchWait == some 0 && h.slip == 1 && h.pc == 0))
        (step { fetchDev 0 with icache := [] }) = true := by
  decide +kernel

/-- A device without power and with an empty agenda faults. -/
theorem test_no_power : (match step { State.reset with powered := false } with
    | .fault .noPower => true
    | _ => false) = true := by decide +kernel

/-! ## Vector configuration and the queue -/

/-- s4 asks for 70 elements. -/
def vec : Hart := hartAt 2 [(4, 70), (5, 1)]

/-- Lines with a loop body of one word before its VNEXT, at address 4. -/
def loopDev : State :=
  { dev vec with icache := [lineWith 0 0 0 (wordBytes 0x4402_0000 ++ wordBytes 0x6022_1908 ++ wordBytes 0x4800_0000)] }

/-- What `VectorControl` asks; at e8 with LMUL 1 a row holds 128 elements, at e64 it holds 16. -/
theorem test_meets_vector_control :
    (dev vec).curHart = some vec ∧ vec.queue.length < 64 ∧ 3 % 8 < 4 ∧ 3 / 8 < 4 ∧ 4 ≤ 4 % 8 ∧ 4 ≤ 32 / 8 ∧ vec.owed 3 = false
      ∧ vec.usable 4 = true ∧ (dev vec).gang? vec.gang = some gang0 ∧ vec.carry = false ∧ vec.queue = [] ∧ (vec.rd 4).toNat < 2 ^ 40
      ∧ (vec.rd 4 + (BitVec.ofNat 16 0).signExtend 64).toNat < 2 ^ 57 := by
  refine ⟨rfl, by decide +kernel, by decide, by decide, by decide, by decide, by decide +kernel, by decide +kernel, rfl, ?_⟩
  decide +kernel

/-- Did a computation end with a value and a state that a test accepts? -/
def okIn (p : α → State → Bool) (r : EStateM.Result Stop State α) : Bool :=
  match r with
  | .ok a t => p a t
  | .error _ _ => false

/-- The value and the state that such a test shows. -/
theorem ok_in {x : EStateM.Result Stop State α} {p : α → State → Bool} (h : okIn p x = true) : ∃ a t, x = .ok a t ∧ p a t = true := by
  cases x with
  | ok a t => exact ⟨a, t, rfl, h⟩
  | error e t => simp [okIn] at h

/-- Its value, where it left the state as it was. -/
theorem ok_same {s : State} {x : M α} {p : α → Bool} (h : okIn (fun a t => p a && decide (t = s)) (x s) = true) :
    ∃ a, x s = .ok a s ∧ p a = true := by
  obtain ⟨a, t, hx, hp⟩ := ok_in h
  simp only [Bool.and_eq_true, decide_eq_true_eq] at hp
  exact ⟨a, by rw [hx, hp.2], hp.1⟩

/-- The body of a VLOOP that checks. -/
theorem test_meets_vloop : loopDev.curHart = some vec
    ∧ ∃ words, readBody (iWord 0x11 0 4 0) (vec.pc + 4).toNat 256 [] loopDev = .ok words loopDev ∧ (words == [(4, .vaddI 1 2 3 4 1)]) = true
      ∧ ∃ body, words.mapM captureWord loopDev = .ok body loopDev ∧ (body.map Op.i == [.vaddI 1 2 3 4 1]) = true := by
  refine ⟨rfl, ?_⟩
  obtain ⟨words, hw, h⟩ := ok_same (s := loopDev) (x := readBody (iWord 0x11 0 4 0) (vec.pc + 4).toNat 256 [])
    (p := fun w => w == [(4, .vaddI 1 2 3 4 1)]) (by decide +kernel)
  have e : words = [(4, .vaddI 1 2 3 4 1)] := by simpa using h
  subst e
  exact ⟨_, hw, by decide +kernel, ok_same (by decide +kernel)⟩

/-- VSETL at e64 with LMUL 1 grants 16 of 70 elements, and its word ends one word further (R283); VLOOP goes on after its VNEXT (R286). -/
theorem test_vsetl_vloop :
    (hartAfter (exec (.vsetl 3 4 3) (dev vec))).rd 3 = 16 ∧ (hartAfter (exec (.vsetl 3 5 0) (dev vec))).rd 3 = 1
      ∧ (hartAfter (exec (.vloop 4) loopDev)).pc = 12 ∧ (hartAfter (exec (.vloop 4) loopDev)).queue.map Entry.n = [70] := by
  decide +kernel

/-- What `QueueWords` asks, with room in the queue and without. -/
theorem test_meets_queue_words :
    (dev alu).curHart = some alu ∧ queueWord (.vaddIS 1 2 4 5 0) = true ∧ alu.capturable (.vaddIS 1 2 4 5 0) = true
      ∧ alu.queue.length < 64 ∧ ({ alu with queue := List.replicate 64 { op := opOf .vnext 0 0 0 } } : Hart).queue.length = 64 := by
  refine ⟨rfl, ?_⟩; decide +kernel

/-- Scalars for the words with checked operands: the fields of a good record and of a bad one, at their limits. -/
def checked : Hart := hartAt 2 [(4, 0x400), (5, 0x401), (6, 0x8000_0000), (7, 0x8000_0001), (8, 0x7F7F_FFFF_7F7F_FFFF), (9, 0x4000), (10, 0xFFFF),
  (11, 0x10000), (12, 0xF_FFFF), (13, 0x10_0000), (14, 0xFF_FFFF), (15, 0x100_0000), (16, 0x1_0000_0000_00)]

/-- What `QueueWordsGuarded` asks, clause by clause. -/
theorem test_meets_queue_words_guarded :
    (dev checked).curHart = some checked ∧ checked.queue.length < 64 ∧ checked.wbuf = [] ∧ checked.performed = true ∧ checked.owed 3 = false
      ∧ (∀ i ∈ List.range 17, checked.usable i = true)
      ∧ 1 ≤ (checked.rd 4).toNat % 2048 ∧ (checked.rd 4).toNat % 2048 ≤ 1024 ∧ (checked.rd 4).toNat % 2 ^ 32 < 2048
      ∧ 1024 < (checked.rd 5).toNat % 2048 ∧ (checked.rd 0).toNat % 2048 = 0 ∧ 2048 ≤ (checked.rd 6).toNat % 2 ^ 32
      ∧ (checked.rd 6).toNat % 2 ^ 32 ≤ 2 ^ 31 ∧ 2 ^ 31 < (checked.rd 7).toNat % 2 ^ 32
      ∧ (let x := (checked.rd 8).toNat
         0 < x % 2 ^ 31 ∧ x % 2 ^ 31 < 0x7F80_0000 ∧ x / 2 ^ 31 % 2 = 0 ∧ x / 2 ^ 32 % 2 ^ 31 < 0x7F80_0000)
      ∧ (checked.rd 10).toNat < 2 ^ 16 ∧ 2 ^ 16 ≤ (checked.rd 11).toNat ∧ (checked.rd 12).toNat < 2 ^ 20 ∧ 2 ^ 20 ≤ (checked.rd 13).toNat
      ∧ (checked.rd 14).toNat < 2 ^ 24 ∧ 2 ^ 24 ≤ (checked.rd 15).toNat ∧ ((checked.outq[1]?).getD []).length < 16
      ∧ (checked.rd 14).toNat / 2 ^ 40 % 256 = 0 ∧ (checked.rd 16).toNat / 2 ^ 40 % 256 ≠ 0
      ∧ (∀ f ∈ [0, 1, 2, 3], ((checked.inq[f]?).getD []).length < 16)
      ∧ ¬ (List.replicate 16 ({ w := 0, query := false, after := [], res := none } : RawCmd)).length < 16
      ∧ regWindow < 0x1FF_FFFF_FFFE_FFC8 + 64 ∧ 0x1FF_FFFF_FFFE_FFC8 % 8 = 0 ∧ (checked.rd 4).toNat % 64 = 0 ∧ (checked.rd 5).toNat % 64 ≠ 0 := by
  refine ⟨rfl, ?_⟩; decide +kernel

/-- The record of SDRAW in memory, as that statement asks. -/
theorem test_meets_sdraw :
    okIn (fun r t => !r.2.any id && decide (leVal r.1 < 2 ^ 321) && (match t.curHart with
        | some k => k.qbase == checked.qbase && decide (k.queue = checked.queue) && decide (k = checked)
        | none => false))
      (readAny ((dev checked).accOf checked 5) 0x4000 64 [0] ((dev checked).retry 0 0)) = true
      ∧ (checked.rd 9).toNat = 0x4000 ∧ 0x4000 % 8 = 0 ∧ 0x4000 + 64 ≤ regWindow := by
  decide +kernel

/-- A word of the sampler whose record is bad traps; a good one enters the queue (R363). -/
theorem test_skth : (hartAfter (exec (.skth 3 1 4) (dev checked))).queue.length = 1
    ∧ (((after (exec (.skth 3 1 5) (dev checked))).gangs.head?).bind Gang.stop) = some (2, 3) := by decide +kernel

/-- What `ResultFrame` asks: a word of the scalar stream with a destination, and a register that is not it. -/
theorem test_meets_frame : (dev alu).curHart = some alu ∧ stepsTo (fun t => (t.harts.head?).any (fun h => h.rd 4 == 12)) (exec (.add 3 4 5) (dev alu)) = true := by
  refine ⟨rfl, ?_⟩; decide +kernel

/-! ## Rows -/

/-- Row 0 of a hart stands at a word that it begins afresh. -/
theorem row_at (o : Op) (hl : ({ op := o } : Entry).isLoop = false) (hc : o.comb = false) (hp : o.sf.poison = false) :
    (rowDev { op := o }).rowAt 0 0 (rowHart { op := o }) (row0 { op := o }) { op := o } o :=
  ⟨⟨rfl, rfl, rfl, rfl, rfl, rfl, rfl⟩, rfl, rfl, rfl, rfl, hl, hc, hp, rfl⟩

/-- Row 0 stands at an entry. -/
theorem row_has (e : Entry) : (rowDev e).rowHas 0 0 (rowHart e) (row0 e) e := ⟨rfl, rfl, rfl, rfl, rfl, rfl, rfl⟩

/-- A typed word's descriptor for one format. -/
def oneFmt (f : Nat) : Word := BitVec.ofNat 64 (f * 0x1041)

/-- A word of bytes. -/
def byteOp (i : Instr) : Op := opOf i 0 3 (oneFmt 0)

/-- What `RowEntries` asks of a VSETL's entry, VDEAD, a word where VL = 0, a barrier. -/
theorem test_meets_row_entries :
    (∀ e, (rowDev e).rowHas 0 0 (rowHart e) (row0 e) e) ∧ ({ op := byteOp .vnext, sub := 3, n := 200, vlmax := 128 } : Entry).sub = 3
      ∧ (elemOp 0 (byteOp (.vid 1 0)) none).isSome = true ∧ ({ op := byteOp (.vid 1 0) } : Entry).isLoop = false
      ∧ (rowHart { op := byteOp (.vid 1 0) }).allAt (row0 { op := byteOp (.vid 1 0) }).qdone = true ∧ (hartAt 2 []).home.vl = 0
      ∧ (row0 { op := byteOp (.vid 1 0) }).joined = true :=
  ⟨row_has, rfl, by decide +kernel⟩

/-- A row that VSETTL has added stands at an entry that it passes. -/
theorem test_meets_row_joins :
    let h : Hart := { rowHart { op := byteOp (.vid 1 0) } with rows := [{ row0 { op := byteOp (.vid 1 0) } with joined := false }] }
    (dev h).rowHas 0 0 h { row0 { op := byteOp (.vid 1 0) } with joined := false } { op := byteOp (.vid 1 0) } :=
  ⟨rfl, rfl, rfl, rfl, rfl, rfl, rfl⟩

/-- A loop of 70 that has begun. -/
def loopEntry : Entry := { op := byteOp (.vloop 4), n := 70, started := true, body := [byteOp (.vid 1 0)] }

/-- What its clause asks. -/
theorem test_meets_loop :
    let h : Hart := { rowHart loopEntry with vloopn := 70 }
    loopEntry.isLoop = true ∧ h.home.run = none ∧ h.loopOver loopEntry = false ∧ h.lowerIdle 0 h.home.qdone = false ∧ h.orphan = none
      ∧ h.vloopn ≠ 0 ∧ h.rowLive 0 = true ∧ h.entryOf 0 = some loopEntry := by
  decide +kernel

/-- What `RowCommit` asks, at both ends of the widths. -/
theorem test_meets_row_commit :
    let p : Put := (byteOp .vnext).plainDest (row0 { op := byteOp .vnext }) 1
    p.g.scaled = false ∧ 1 ≤ p.g.w ∧ p.g.w ≤ 64 ∧ (([(0, .raw 1, false), (3, .raw 2, true)] : List (Nat × Ex × Bool)).map Prod.fst).Nodup
      ∧ (opOf .vnext 0 0 0 3).sew = 64 ∧ fmtOf 0x09 = some (.int 4 false) ∧ fmtOf 0x06 = some (.int 64 true) := by
  decide +kernel

/-- What `RowInteger` asks, of a word with a vector and of one with a scalar operand. -/
theorem test_meets_row_integer :
    let o := byteOp (.vmaccI 3 1 2 4 0)
    let row := row0 { op := o }
    let act := row.actives 0 row.vstart.toNat
    (rowDev { op := o }).rowAt 0 0 (rowHart { op := o }) row { op := o } o ∧ row.vl ≠ 0
      ∧ (intWords true 3 1 2 4 0)[6]? = some o.i ∧ (intWords false 3 1 2 4 0)[6]? = some (.vmaccIS 3 1 2 4 0)
      ∧ (intRule (Desc.of o.sf.v) 0)[6]?.isSome = true ∧ (intRule (Desc.of o.sf.v) 0).map (fun x => x.2.2.1) = [true, true, true, true, true, true,
          true, true, true, true, true, true, true, false, false, true]
      ∧ o.typedOk 3 1 (some 2) false true (fun D => fmtInt D.fa && fmtInt D.fb && fmtInt D.fd && true) = true
      ∧ o.typedOk 3 1 none false true (fun D => fmtInt D.fa && fmtInt D.fb && fmtInt D.fd && true) = true
      ∧ row.readable o (act.flatMap (fun j => [(1, 8, j), (2, 8, j), (3, 8, j)].flatMap (fun x => (o.typed (Desc.of o.sf.v) x.1 0).reads x.2.2)))
      ∧ o.sb.poison = false :=
  ⟨row_at _ (by decide +kernel) rfl rfl, by decide +kernel, rfl, rfl, by decide +kernel, by decide +kernel, by decide +kernel, by decide +kernel,
    ⟨by decide +kernel, .inl (by decide +kernel)⟩, rfl⟩

/-- What `RowLogic` asks, of each of its words. -/
theorem test_meets_row_logic :
    (∀ i ∈ [Instr.vxor 3 1 2 0, .vxorS 3 1 2 0, .vnot 3 1 0, .vmv 3 1 0, .vbcast 3 2 0, .vid 3 0, .vmerge 3 1 2 1], ({ op := byteOp i } : Entry).isLoop = false)
      ∧ (logicWords true 3 1 2 0)[2]? = some (.vxor 3 1 2 0) ∧ (logicWords false 3 1 2 0)[2]? = some (.vxorS 3 1 2 0)
      ∧ (logicRule 8 1 0x80)[2]? = some 0x81 ∧ (byteOp .vnext).sb.poison = false ∧ (row0 { op := byteOp .vnext }).vl ≠ 0
      ∧ groupsOk (some ((byteOp .vnext).plain 3)) [(byteOp .vnext).plain 1, (byteOp .vnext).plain 2] true = true
      ∧ groupsOk (some ((byteOp .vnext).plain 3)) [] true = true
      ∧ (∀ x ∈ ((List.range 4).flatMap (fun j => ((byteOp .vnext).plain 1).reads j ++ ((byteOp .vnext).plain 2).reads j)),
          (row0 { op := byteOp .vnext }).rdPoison x = false)
      ∧ BB (byteOp .vnext).hcr 1 = false := by
  decide +kernel

/-- A word on numbers of eight bits with four exponent bits. -/
def fltOp (i : Instr) : Op := opOf i 0 3 (oneFmt 0x13)

/-- A word of one operand: its second format field is 0. -/
def sqrtOp : Op := opOf (.vsqrtF 3 1 4 0) 0 0 0x13013

/-- What `RowFloat` asks. -/
theorem test_meets_row_float :
    let o := fltOp (.vfmaF 3 1 2 4 0)
    (rowDev { op := o }).rowAt 0 0 (rowHart { op := o }) (row0 { op := o }) { op := o } o ∧ (row0 { op := o }).vl ≠ 0
      ∧ (fltWords true 3 1 2 4 0)[6]? = some o.i ∧ (fltWords false 3 1 2 4 0)[6]? = some (.vfmaFS 3 1 2 4 0) ∧ (fltRule true).length = 7
      ∧ o.typedOk 3 1 (some 2) false true (fun D => fmtFlt D.fa && fmtFlt D.fb && fmtFlt D.fd) = true
      ∧ sqrtOp.typedOk 3 1 none true false (fun D => fmtFlt D.fa && fmtFlt D.fd) = true
      ∧ (∀ x ∈ (List.range 4).flatMap (fun j => (o.typed (Desc.of o.sf.v) 1 0x13).reads j ++ (o.typed (Desc.of o.sf.v) 2 0x13).reads j
          ++ (o.typed (Desc.of o.sf.v) 3 0x13).reads j), (row0 { op := o }).rdPoison x = false)
      ∧ BB o.hcr 1 = false ∧ BB o.hcr 4 = false ∧ BB (0x10 : BitVec 5) 4 = true :=
  ⟨row_at _ (by decide +kernel) rfl rfl, by decide +kernel, rfl, rfl, rfl, by decide +kernel, by decide +kernel, by decide +kernel, by decide +kernel,
    by decide +kernel, by decide +kernel⟩

/-- A compare's descriptor: bytes, and format 0 for the mask. -/
def cmpOp (i : Instr) : Op := opOf i 0 127 0

/-- What `RowMasks` asks: a compare of bytes, and VEXT at the last element of its group and past it. -/
theorem test_meets_row_masks :
    let o := cmpOp (.vcmplt 1 1 2 4 0)
    (rowDev { op := o }).rowAt 0 0 (rowHart { op := o }) (row0 { op := o }) { op := o } o ∧ (compareWords true 1 1 2 4 0)[2]? = some o.i
      ∧ descBad o.sf.v false = false ∧ fmtInt (Desc.of o.sf.v).fa = true ∧ (Desc.of o.sf.v).fd = 0
      ∧ groupsOk none [o.typed (Desc.of o.sf.v) 1 0, o.typed (Desc.of o.sf.v) 2 0] true = true
      ∧ (cmpOp (.vext 3 1 4)).groupElems = 128 ∧ (cmpOp (.vext 3 1 4)).sb.v.toNat = 127 ∧ groupsOk none [(cmpOp (.vext 3 1 4)).plain 1] true = true
      ∧ ({ op := cmpOp (.vext 3 1 4) } : Entry).isLoop = false ∧ ({ op := cmpOp (.mand 1 2 3) } : Entry).isLoop = false
      ∧ ({ op := cmpOp (.mpopc 3 1) } : Entry).isLoop = false ∧ ([(0, true), (1023, false)].map Prod.fst).Nodup :=
  ⟨row_at _ rfl rfl rfl, rfl, by decide +kernel⟩

/-- What the reductions of `RowCross` ask. -/
theorem test_meets_row_reduction :
    let o := opOf (.vredsumO 3 1 2 4 0) 0 0 0
    let D := Desc.of o.sf.v
    (rowDev { op := o }).rowAt 0 0 (rowHart { op := o }) (row0 { op := o }) { op := o } o ∧ (row0 { op := o }).vl ≠ 0
      ∧ (reduceWords 3 1 2 4 0)[0]? = some o.i ∧ o.sf.poison = false ∧ descBad o.sf.v true = false ∧ fmtInt D.fa = true ∧ fmtInt D.fd = true
      ∧ groupsOk (some (o.typed D 3 D.fd)) [o.typed D 1 D.fa, o.typed D 2 D.fd] false = true
      ∧ (∀ x ∈ (List.range 4).flatMap (o.typed D 1 0).reads ++ (o.typed D 2 0).reads 0, (row0 { op := o }).rdPoison x = false) :=
  ⟨row_at _ (by decide +kernel) rfl rfl, by decide +kernel, rfl, rfl, by decide +kernel, by decide +kernel, by decide +kernel, by decide +kernel,
    by decide +kernel⟩

/-- What a row does, in a state that stands at it: how it ends, with the test of the end. -/
def rowEnds (i : Op) (p : EStateM.Result Stop State Nat → Bool) (snoop : List Nat := []) : Bool :=
  match elemOp 0 i none with
  | some x => p (x { rowDev { op := i } with cur := 0, snoop := snoop })
  | none => false

/-- What `RowCompletes` asks: a word that ends, one that traps, one that waits (a store to a line that the host holds). -/
theorem test_meets_row_completes :
    (row0 { op := byteOp .vnext }).vl ≠ 0
      ∧ (rowHart { op := byteOp (.vaddI 3 1 2 4 0) }).allAt (row0 { op := byteOp (.vaddI 3 1 2 4 0) }).qdone = true
      ∧ rowEnds (byteOp (.vaddI 3 1 2 4 0)) (fun r => okIn (fun fl t => fl == 0 && t.cur == 0 && (match t.hart? 0 with
          | some k => (k.rows.map Row.qdone) == [0]
          | none => false)) r) = true
      ∧ (byteOp (.vaddI 3 1 2 4 0)).apx = false ∧ BB (byteOp (.vaddI 3 1 2 4 0)).hcr 4 = false
      ∧ rowEnds (fltOp (.vaddI 3 1 2 4 0)) (fun r => match r with
        | .error (.trap _) _ => true
        | _ => false) = true
      ∧ rowEnds { byteOp (.vst 1 4 0 0 0) with sa := { v := 0x4000 } } (fun r => match r with
        | .error .wait _ => true
        | _ => false) [0x200] = true := by
  decide +kernel

/-- The row after an entry has run in it. -/
def rowAfter (o : Op) : Row := (hartAfter (execRowDispatch 0 0 (rowDev { op := o }))).home

/-- Sums of bytes wrap in the format; VSADD clamps and raises VXSAT (R186, R294, R305). -/
theorem test_vadd :
    (rowAfter (byteOp (.vaddI 3 1 2 4 0))).v[3] = 0x07010381 ∧ (rowAfter (byteOp (.vsadd 3 2 2 4 0))).v[3] = 0x06040280
      ∧ (hartAfter (execRowDispatch 0 0 (rowDev { op := byteOp (.vsadd 3 2 2 4 0) }))).vxsat = 1 := by
  decide +kernel

/-- VCVT of 256.0 to bytes with SAT clamps to 127 and raises VXSAT (R174, R186). -/
theorem test_vcvt_sat :
    let h := rowHart { op := opOf (.vcvt 3 1 4 0) 0 0 (BitVec.ofNat 64 (0x13 + 2 ^ 21)) }
    let k := hartAfter (execRowDispatch 0 0 (dev { h with rows := h.rows.map (fun (r : Row) => { r with v := r.v.setIfInBounds 1 0x3878_3878 }) }))
    (k.home.v[3]) = 0x017F_017F ∧ k.vxsat = 1 := by
  decide +kernel

/-- VMULH takes the high half; VDIV by a scalar rounds toward zero (R294). -/
theorem test_vmulh_vdiv :
    (rowAfter (byteOp (.vmulhI 3 2 2 4 0))).v[3] = 0x00000040 ∧ (rowAfter (byteOp (.vdivIS 3 2 2 4 0))).v[3] = 0x010000D6 := by
  decide +kernel

/-- 1 + 1 in eight bits, and a square root: 1.0 is 0x38, 2.0 is 0x40 (R179, R295). -/
theorem test_float :
    (rowAfter { fltOp (.vaddFS 3 4 2 4 0) with sb := { v := 0x38 } }).v[3] = 0x38383838
      ∧ (rowAfter { fltOp (.vbcast 3 2 0) with sb := { v := 0x48 } }).v[3] = 0x48484848 := by
  decide +kernel

/-- Shifts take their amount modulo the width; VSRA keeps the sign (R297). -/
theorem test_vsra : (rowAfter (opOf (.vsraS 3 2 4 0) 0 9 0)).v[3] = 0x010100C0 ∧ (rowAfter (opOf (.vsllS 3 1 4 0) 0 9 0)).v[3] = 0x08FE0402 := by
  decide +kernel

/-- Signed compare; m0 is never written (R298, R299). -/
theorem test_vcmp : ((rowAfter (cmpOp (.vcmplt 1 1 2 4 0))).m[1]).setWidth 4 = (4 : BitVec 4)
    ∧ (rowAfter (cmpOp (.vcmplt 0 1 2 4 0))).m[0] = (row0 { op := cmpOp .vnext }).m[0] := by decide +kernel

/-- 1 + 2 − 1 + 4, from element 0 of vb, −128 (R306). -/
theorem test_reduction : ((rowAfter (opOf (.vredsumO 3 1 2 4 0) 0 0 0)).v[3]).setWidth 8 = (0x86 : BitVec 8) := by decide +kernel

/-- VEXT writes its scalar in the home row, zero-extended; past the group it writes 0 (R300). -/
theorem test_vext :
    (hartAfter (execRowDispatch 0 0 (rowDev { op := opOf (.vext 3 1 4) 0 2 0 }))).rd 3 = 0xFF
      ∧ (hartAfter (execRowDispatch 0 0 (rowDev { op := opOf (.vext 3 1 4) 0 128 0 }))).rd 3 = 0 := by decide +kernel

/-- Slides and permutations move elements, zeros come in (R308, R310). -/
theorem test_slides :
    (rowAfter (opOf (.vslide1up 3 1 4 0) 0 9 0)).v[3] = 0xFF020109 ∧ (rowAfter (opOf (.viota 3 1 0) 0 0 0)).v[3] = 0 := by decide +kernel

/-! ## Engines -/

/-- s4 and s5 are source and destination of a copy, s8 to s11 its shape: two doublewords of one dimension. -/
def copier : Hart := { hartAt 2 [(4, 0x1FF_FFFF_FFF0_0000), (5, 0x1FF_FFFF_FFF0_0100), (8, 3), (9, 0), (10, 2), (11, 0)] with
  scratch := [(0, 0x11), (8, 0x22)], vlSet := 2 }

/-- What `Copies` asks: a record that is well formed and aligned, one that is malformed, and one that is not aligned. -/
theorem test_meets_copies :
    (dev copier).curHart = some copier ∧ (copyWords 5 4 8 0)[0]? = some (.copy 5 4 8 0) ∧ (encode (.copy 5 4 8 0)).isSome = true
      ∧ (∀ n, n < 4 → copier.usable (8 + n) = true) ∧ copier.usable 4 = true ∧ copier.usable 5 = true
      ∧ shapeBad 0 [3, 0, 2, 0] = none ∧ shapeMisaligned (copier.rd 4) (copier.rd 5) [3, 0, 2, 0] = none
      ∧ (List.range 4).map (fun n => copier.rd (8 + n)) = [3, 0, 2, 0]
      ∧ shapeBad 0 [3, 0, 2, 8] = some 8 ∧ shapeMisaligned (copier.rd 4) 0x101 [3, 0, 2, 0] = some 0x101 ∧ shapeBad 2 [0x4003, 0, 2, 0] = some 0x4003
      ∧ shapeBad 2 [0x1803, 0, 2, 0] = none
      ∧ ((copier.inq[0]?).getD []).length < 16 ∧ copier.wbuf = [] ∧ copier.performed = true ∧ copier.loopSince = false ∧ (copier.tokens[0]?).bind Token.job = none
      ∧ (dev copier).coreCopies copier.core < 64 ∧ copier.hcr.getLsbD 0 = false ∧ ({ copier with hcr := 1 } : Hart).hcr.getLsbD 0 = true := by
  refine ⟨rfl, ?_⟩; decide +kernel

/-- The device with that copy in flight. -/
def copyDev : State := after (execCopy 5 4 8 0 (dev copier))

/-- What the copy clause of `EngineEvents` asks. -/
theorem test_meets_copy_retire :
    let s0 := ({ copyDev with cur := 0 } : State).retry 0 65
    (copyDev.hart? 0).any (fun h => ((h.tokens[0]?).bind Token.job).any (fun r => s0.copyTurn h r && r.park.isNone && r.mode == 0
      && okIn (fun st u => st == (0, 0) && u.cur == 0 && u.curHart.any (fun k => ((k.tokens[0]?).bind Token.job).isSome)) (copyAll 0 r s0))) = true := by
  decide +kernel

/-- A copy moves its bytes and leaves the status OK (R346, R351). -/
theorem test_copy :
    (hartAfter (execCopyRetire 0 0 copyDev)).scratch = [(0, 0x11), (8, 0x22), (0x100, 0x11), (0x108, 0x22)]
      ∧ ((hartAfter (execCopyRetire 0 0 copyDev)).tokens[0]).status = 0 := by
  decide +kernel

/-- Commands for the queues: a plain word, a query, and words of other types. -/
def pusher : Hart := { hartAt 2 [(4, 5), (5, 0x0100_0000_0000_0003), (6, 0x0200_0000_0000_0000), (7, 0x0100_0000_0000_0008)] with
  outq := (hartAt 2 []).outq.setIfInBounds 0 [{ v := 9 }] }

/-- What `QueuePorts` asks. -/
theorem test_meets_queue_ports :
    (dev pusher).curHart = some pusher ∧ pusher.usable 4 = true ∧ pusher.usable 5 = true ∧ pusher.usable 6 = true ∧ pusher.usable 7 = true
      ∧ (pusher.rd 4).toNat / 2 ^ 56 = 0 ∧ (pusher.rd 5).toNat / 2 ^ 56 = 1 ∧ (pusher.rd 5).toNat / 8 % 2 ^ 53 = 0
      ∧ 1 < (pusher.rd 6).toNat / 2 ^ 56 ∧ (pusher.rd 7).toNat / 2 ^ 56 = 1 ∧ (pusher.rd 7).toNat / 8 % 2 ^ 53 ≠ 0
      ∧ pusher.wbuf = [] ∧ pusher.performed = true ∧ ((pusher.inq[0]?).getD []).length < 16 ∧ pusher.owed 3 = false
      ∧ (pusher.outq[4 - 4]?).getD [] = [{ v := 9 }] ∧ (pusher.outq[5 - 4]?).getD [] = []
      ∧ (hartAfter (exec (.stD 5 4 0) memDev)).wbuf ≠ [] := by
  refine ⟨rfl, ?_⟩; decide +kernel

/-- What a result in a FIFO asks, with room in the output and without. -/
theorem test_meets_fifo :
    let h := hartAfter (exec (.pushq 0 4) (dev pusher))
    (h.inq[0]?).getD [] = [{ w := 5, query := false, after := [], res := some 5 }] ∧ ((h.outq[0]?).getD []).length < 16
      ∧ ((dev h).harts.map Hart.id).Nodup ∧ 16 ≤ (List.replicate 16 ({ v := 0 } : Elem)).length := by
  decide +kernel

/-- A word pushed comes out of the FIFO behind what was there (R352). -/
theorem test_pushq :
    ((hartAfter (execFifoResult 0 0 (after (exec (.pushq 0 4) (dev pusher))))).outq[0]).map Elem.v = [9, 5]
      ∧ (hartAfter (exec (.popq 3 4) (dev pusher))).rd 3 = 9 := by
  decide +kernel

/-- s4 names the page that is cached, s5 slot 0, s6 slot 63. -/
def stander : Hart := hartAt 2 [(4, 0x4008), (5, 0), (6, 63), (7, 62)]

/-- The device with that hart, before and after it subscribes. -/
def standDev : State := { dev stander with mem := [(0x8008, 7)] }

/-- What `StandingLoads` asks of a subscription. -/
theorem test_meets_subscription :
    standDev.curHart = some stander ∧ stander.usable 4 = true ∧ stander.usable 5 = true ∧ stander.owed 3 = false ∧ (stander.rd 6).toNat < 64
      ∧ (stander.rd 7).toNat % 2 = 0 ∧ ((stander.inq[3]?).getD []).length < 16 ∧ 0x8008 + 8 ≤ paLimit ∧ stander.wbuf = [] ∧ stander.performed = true
      ∧ okIn (fun a t => a == none && decide (t = standDev)) (apertureOf (standDev.accOf stander 0) 0x4008 (standDev.retry 0 0)) = true
      ∧ okIn (fun x t => decide (t = standDev) && standDev.hereDest x.dest == .localM 0x8008 && okIn (fun r u => leVal r.1 == 7 && (match u.curHart with
          | some k => !k.owed 3
          | none => false)) (readPiece (standDev.accOf stander 0) 0x4008 x 8 true none (standDev.retry 0 0)))
        (xlate (standDev.accOf stander 0) 0x4008 false [0, 2] false (standDev.retry 0 0)) = true
      ∧ (standDev.subs.filter (fun (u : Sub) => u.dev.isNone && standDev.homeSlice (u.addr / 64) == standDev.homeSlice (0x8008 / 64))).length < 4096
      ∧ stander.slotFree 0 = true ∧ stander.slotFree 63 = true ∧ (standDev.subQuota 0).isNone = true ∧ standDev.subQuota 1 = some 0 := by
  refine ⟨rfl, ?_⟩; decide +kernel

/-- The hart with its slot installed. -/
def subscribed : Hart := hartAfter (exec (.ldstandLatest 3 4 5) standDev)

/-- What `StandingLoads` asks of SLOTRD and UNSUB. -/
theorem test_meets_slots :
    (subscribed.rd 5).toNat < 512 ∧ (subscribed.rd 5).toNat / 64 % 4 = 0 ∧ subscribed.owed 3 = false ∧ subscribed.slotFree 0 = false
      ∧ subscribed.secondOf 0 = false ∧ subscribed.slotPairs.getLsbD 0 = false
      ∧ (subscribed.slots[0]?).map (fun x => (x.toNat / 2 ^ 120 % 8, x.getLsbD 123)) = some (1, true)
      ∧ (subscribed.slotRead 0 false).isSome = true ∧ ((hartAfter (exec (.slotrd 3 5 7) (dev subscribed))).slotRead 0 false).isNone = true
      ∧ (subscribed.rd 6).toNat < 64 ∧ subscribed.slotFree 63 = true ∧ subscribed.wbuf = [] ∧ subscribed.performed = true
      ∧ (let s : State := { dev subscribed with subs := (after (exec (.ldstandLatest 3 4 5) standDev)).subs }
         okIn (fun _ t => t.curHart.any (fun k => !k.owed 3))
           ((s.subs.filter (fun u => u.hart == 0 && u.slot == 0)).forM (farUnsub (s.accOf subscribed 0) subscribed) (s.retry 0 0)) = true) := by
  decide +kernel

/-- A LATEST slot gives its value once (R358, R359). -/
theorem test_slotrd : (hartAfter (exec (.slotrd 3 5 7) (dev subscribed))).rd 3 = 7 ∧ subscribed.rd 3 = 0
    ∧ (hartAfter (exec (.unsub 3 5) { dev subscribed with subs := (after (exec (.ldstandLatest 3 4 5) standDev)).subs })).rd 3 = 0
    ∧ (hartAfter (exec (.unsub 3 6) (dev subscribed))).rd 3 = 1 := by decide +kernel

/-- What a push on its way asks. -/
theorem test_meets_push :
    let s : State := { dev subscribed with pushes := [{ hart := 0, slot := 0, value := 8, poison := false, seq := 1 }] }
    s.pushes.map Push.slot = [0] ∧ (s.hart? 0).isSome = true ∧ (subscribed.slots[0]?).map (fun x => BF x 120 3) = some 1
      ∧ (subscribed.slots[1]?).map (fun x => BF x 120 3) = some 0
      ∧ subscribed.saved = false ∧ (s.hart? 0).map Hart.saved = some false := by
  decide +kernel

/-- What the arrival of an element asks, with room and at the limit. -/
theorem test_meets_arrival :
    let s : State := { dev alu with dev := { (dev alu).dev with fabcfg := 639 * 2 ^ 16 } }
    s.devId < 640 ∧ ((s.receiver 0 0 0).map Hart.id) = some 0 ∧ alu.arrivals.length < 256
      ∧ 256 ≤ ({ alu with arrivals := List.replicate 256 { v := 0 } } : Hart).arrivals.length := by
  decide +kernel

/-- A stream record: two levels of two items of 8 bytes at SEW 64, a combiner of one word at 0x4000, its area in the page at 0x5000. -/
def streamRec : Nat := 8 + 1 * 2 ^ 8 + 3 * 2 ^ 16 + 0x0202 * 2 ^ 64 + 0x80 * 2 ^ 199 + 5 * 2 ^ 400

/-- The hart that binds it: s4 names the record. -/
def binder : Hart := hartAt 2 [(4, 0x4040), (5, 0), (6, 0x1_0000), (7, 0xFFFF), (8, 0x1FF_FFFF_FFFF_0000)]

/-- The device with the record, its combiner (an integer sum of 64 bits), and both pages cached. -/
def bindDev (comb : Nat) (r : Nat) : State :=
  { dev binder with
    tlb := [{ die := 0, fn := 0, page := 4, shift := 12, pte := 0x8363, pteAddr := 0x9000 },
      { die := 0, fn := 0, page := 5, shift := 12, pte := 0xA363, pteAddr := 0x9008 }]
    mem := Memory.write (Memory.write [] 0x8000 (leBytes 4 comb)) 0x8040 (leBytes 64 r) }

/-- The word that adds s 64-bit integers v1 and v0: the combiner of the tests. -/
def addWord : Nat := (encode (.vaddI 0 0 1 3 0)).getD 0

/-- Does PBIND's read of its record go as `AgateWords` asks, and then what a test says? -/
def bindReads (s : State) (p : Nat → State → Bool) : Bool :=
  okIn (fun rb s1 => !rb.2.any id && (match s1.curHart with
      | some k => !k.owed 3
      | none => false) && p (leVal rb.1) s1)
    (readAny { s.accOf binder 3 with uncounted := true } 0x4040 64 [0] (s.retry 0 0))

/-- What the PBIND clauses of `AgateWords` ask: a malformed record, a bad combiner, no room (a function whose quota is 0), and a bind. -/
theorem test_meets_pbind :
    (bindDev addWord streamRec).curHart = some binder ∧ ((binder.inq[1]?).getD []).length < 16 ∧ regWindow ≤ (binder.rd 8).toNat
      ∧ (binder.rd 8).toNat % 64 = 0 ∧ (binder.rd 8).toNat < 2 ^ 57 ∧ stComb streamRec + 4 * stWords streamRec ≤ regWindow ∧ binder.usable 4 = true ∧ binder.wbuf = [] ∧ binder.performed = true ∧ binder.owed 3 = false
      ∧ (binder.rd 4).toNat = 0x4040 ∧ bindReads (bindDev addWord 0) (fun r _ => streamMalformed r) = true
      ∧ bindReads (bindDev addWord streamRec) (fun r s1 => !streamMalformed r && r == streamRec
        && okIn (fun cb s2 => !cb.2.any id && !s2.badComb r [leVal cb.1] && s2.badComb r [0] && !s2.streamFull 0 && s2.streamFull 1
            && s2.freeHandle 0 == some 0
            && okIn (fun _ s3 => okIn (fun _ s4 => (match s4.curHart with
                | some k => !k.owed 3
                | none => false))
              (writeMem { (bindDev addWord streamRec).accOf binder 3 with uncounted := true } 0x5000 (List.replicate 64 0) (List.replicate 64 false) [0] true s3))
              (probePages { (bindDev addWord streamRec).accOf binder 3 with uncounted := true } true [0]
                ((List.range (storeBytes r / 4096)).map (fun i => stStore r + 4096 * i)) s2))
          (readAny { (bindDev addWord streamRec).accOf binder 3 with uncounted := true } (stComb r) (4 * stWords r) [0] s1)) = true := by
  refine ⟨rfl, ?_⟩; decide +kernel

/-- The device with that stream bound. -/
def boundDev : State := after (exec (.pbind 3 4) (bindDev addWord streamRec))

/-- PBIND gives handle 0; PSTAT of it reports a bound stream; of a free handle, 0 (R105, R115). -/
theorem test_pbind :
    (hartAfter (exec (.pbind 3 4) (bindDev addWord streamRec))).rd 3 = 0 ∧ boundDev.streams.map Stream.handle = [0]
      ∧ (hartAfter (exec (.pstat 3 5) boundDev)).rd 3 = 0x100 ∧ (hartAfter (exec (.pstat 3 5) (dev binder))).rd 3 = 0
      ∧ (hartAfter (exec (.pbind 3 4) (bindDev 0 streamRec))).rd 3 = 0x2_0000 := by
  decide +kernel

/-- What the clauses on bound, free and broken handles ask, and an operand past the handles. -/
theorem test_meets_streams :
    binder.usable 5 = true ∧ binder.usable 6 = true ∧ binder.usable 7 = true ∧ (binder.rd 7).toNat < 2 ^ 16 ∧ 2 ^ 16 ≤ (binder.rd 6).toNat
      ∧ ((boundDev.stream? 0 0).map Stream.broken) = some false ∧ (boundDev.stream? 0 0xFFFF).isNone = true
      ∧ (((boundDev.breakStream 0 0 2).stream? 0 0).map Stream.broken) = some true
      ∧ (boundDev.harts.map (fun g => g.agateBusy 0)) = [false] ∧ ((boundDev.stream? 0 0).map (fun st => st.synced 0)) = some true := by
  decide +kernel

/-- A stream with more items in its first level than that holds: two pairs of numbers. -/
def mergeDev (area : Bool) : State :=
  let it (x : Nat) : Item := { data := BitVec.ofNat 1024 x, poison := 0, first := 0, last := 0, count := 1 }
  let s := boundDev.modStream 0 0 (fun st => { st with
    levels := st.levels.mapIdx (fun l x => if l = 0 then { x with items := [it 1, it 2, it 3] } else x), appends := 3 })
  if area then s else { s with mem := [] }

/-- Its items. -/
def mergeItem (x : Nat) : Item := { data := BitVec.ofNat 1024 x, poison := 0, first := 0, last := 0, count := 1 }

/-- What the merge clause of `EngineEvents` asks of the stream. -/
theorem test_meets_merge :
    (((mergeDev true).stream? 0 0).map (fun st => (st.broken, st.park.isNone, st.due))) = some (false, true, some 0)
      ∧ ((mergeDev true).stream? 0 0).map (fun st => (st.level 0).items) = some [mergeItem 1, mergeItem 2, mergeItem 3] := by
  decide +kernel

/-- How a merge may end (whether the slots of a full level check is left to their layout, log 11): a level of capacity 0 with one item. -/
theorem test_meets_merge_ends :
    let st : Stream := { Stream.empty 0 0 0x100 [] with levels := [{ head := 0, items := [mergeItem 1], stamps := [] }, { head := 0, items := [], stamps := [] }] }
    st.due = some 0 ∧ okIn (fun r _ => r == some st) (mergeM st 0 (dev binder)) = true := by
  decide +kernel

/-- A Garnet pool of 16 pages of the physical function at 32 MiB: sequence 0 has a page that `ref` sequences hold. -/
def kvDev (ref : Nat) (h : Hart) : State :=
  let t (va : Nat) : TlbEntry := { die := 0, fn := 0, page := va, shift := 12, pte := BitVec.ofNat 64 (va * 4096 + 0x363), pteAddr := 0x9000 }
  let s : State := { dev h with
    tlb := [t 0x10, t 0x50, t 0x2000, t 0x2001, t 0x2002, t 0x2003]
    mem := [(0x1_0003, 1), (0x1_0080, 1), (0x1_0085, 1), (0x1_0086, 1), (0x5_0000, BitVec.ofNat 8 ref), (0x5_0140, 0xFE), (0x5_0141, 0xFF)] }
  s.modFn 0 (fun g => { g with kvpool := BitVec.ofNat 64 (0x200_0000 + 4 * 2 ^ 8 + 1), kvmeta := BitVec.ofNat 64 (0x1_0000 + 10), kvAlloc := 1 })

/-- Operands of Garnet: sequence 0 and position 0, sequence 1, one past the field. -/
def kvHart : Hart := hartAt 2 [(4, 0), (5, 1), (6, 0x100_0000), (7, 0x10_0001), (8, 0xFF_FFFF)]

/-- What `KvCommands` asks, command by command; the last is KVFORK.M to a function without a pool, which answers 1. -/
theorem test_meets_kv :
    (kvDev 1 kvHart).curHart = some kvHart ∧ (∀ i, i < 9 → kvHart.usable i = true) ∧ kvHart.wbuf = [] ∧ kvHart.performed = true
      ∧ ((kvDev 1 kvHart).fn 0).kvBusy = false ∧ ((kvDev 1 kvHart).fn 1).kvBusy = false ∧ kvHart.owed 3 = false ∧ kvHart.level = 2
      ∧ ((kvHart.outq[1]?).getD []).length < 16 ∧ ((kvHart.inq[1]?).getD []).length < 16 ∧ (kvHart.rd 8).toNat < 2 ^ 24 ∧ 2 ^ 24 ≤ (kvHart.rd 6).toNat
      ∧ (kvDev 1 kvHart).kvldOpen 0 0 = false
      ∧ (kvHart.rd 7).toNat < 2 ^ 27 ∧ (kvHart.rd 7).toNat / 2 ^ 20 = 1 ∧ (kvHart.rd 4).toNat = 0 ∧ (kvHart.rd 5).toNat = 1 := by
  refine ⟨rfl, ?_⟩; decide +kernel

/-- Does a state still have the hart free to take an answer? -/
def kvFree (t : State) : Bool :=
  match t.curHart with
  | some k => !k.owed 3 && decide (((k.inq[1]?).getD []).length < 16)
  | none => false

/-- How the commands end: an address, statuses, a page copied. -/
theorem test_meets_kv_ends :
    let acc := (kvDev 1 kvHart).accOf kvHart 4
    okIn (fun r t => (match r with
      | .ok va => va == 0x200_0000
      | .error _ => false) && kvFree t) (kvRun acc (kvMap acc 0 0 0) (kvDev 1 kvHart)) = true
      ∧ okIn (fun r t => (match r with
        | .ok _ => false
        | .error st => st == 5) && kvFree t) (kvRun acc (kvMap acc 0 0 1) (kvDev 1 kvHart)) = true
      ∧ okIn (fun st t => st == 0 && kvFree t) (kvStatus acc (kvFork acc 1 0) (kvDev 1 kvHart)) = true
      ∧ okIn (fun st t => st == 0 && kvFree t) (kvStatus acc (kvRelease acc 0 0) (kvDev 1 kvHart)) = true
      ∧ okIn (fun r t => (match r with
        | .ok _ => false
        | .error st => st == 9) && kvFree t) (kvRun acc (kvCow acc 0 0) (kvDev 1 kvHart)) = true
      ∧ okIn (fun r t => (match r with
        | .ok bad => kvFree (bad.foldl (fun (u : State) z => u.kvNotify z.1 z.2.1 z.2.2) t)
        | .error _ => false)) (kvRun acc (kvCow acc 0 0) (kvDev 2 kvHart)) = true
      ∧ okIn (fun st t => st == 1 && kvFree t) (kvStatus acc (kvForkM acc 1 1 0) (kvDev 1 kvHart)) = true := by
  decide +kernel

/-- KVMAP of the row at position 0 of sequence 0 gives the pool's base; of one past its tokens, RANGE (R127, R377). -/
theorem test_kvmap :
    (hartAfter (exec (.kvmap 3 4 4) (kvDev 1 kvHart))).rd 3 = 0x200_0000
      ∧ (hartAfter (exec (.kvmap 3 4 5) (kvDev 1 kvHart))).rd 3 = 0x8000_0000_0000_0005 := by
  decide +kernel

/-- A pool that initialises, with tables of one page. -/
def kvInitDev : State :=
  let s : State := { dev kvHart with tlb := [{ die := 0, fn := 0, page := 0, shift := 30, pte := 0x363, pteAddr := 0x9000 }] }
  s.modFn 0 (fun g => { g with kvpool := BitVec.ofNat 64 (0x200_0000 + 4 * 2 ^ 8 + 1), kvmeta := 0x1_0000, kvBusy := true })

/-- What the clause on initialisation asks. -/
theorem test_meets_kv_init :
    (kvInitDev.fn 0).kvBusy = true ∧ (kvInitDev.fn 0).kvPark = none ∧ okIn (fun _ _ => true) (kvInitM 0 kvInitDev) = true := by
  decide +kernel

/-! ## Events -/

/-- A device in operation, with a hart whose LEFT bit is set, and repair state of one bank. -/
def opDev : State :=
  { dev { alu with hcr := 4 } with
    dev := { DevRegs.reset with idstat := 7 }
    repair := { (dev alu).repair with ppr := [((0, 0, 1), 3), ((0, 0, 2), 4)] } }

/-- What `PowerEvents` asks: power and stages, at the ends of their ranges. -/
theorem test_meets_power :
    ({ State.reset with powered := false } : State).powered = false ∧ State.reset.powered = true ∧ BF State.reset.dev.idstat 0 4 = 0
      ∧ State.reset.dev.devtime = 0 ∧ opDev.powered = true ∧ BF opDev.dev.idstat 0 4 = 7 ∧ BB (6 : Word) 4 = false ∧ BF (3 : Word) 0 4 = 3
      ∧ BF (6 : Word) 0 4 < 7 ∧ 1 ≤ BF (1 : Word) 0 4 := by
  decide +kernel

/-- What its clauses on power, current and lanes ask, with the cap of 8 and without. -/
theorem test_meets_lanes :
    BF opDev.dev.pwrctl 0 13 < 4501 ∧ 4 < BF opDev.dev.pwrstat 3 5 ∧ (100 * 4274 < 95 * BF opDev.dev.pwrctl 0 13)
      ∧ BB opDev.dev.pwrstat 2 = false ∧ BF (WS opDev.dev.pwrstat 3 5 12) 3 5 < 16 ∧ BF (WS opDev.dev.pwrstat 3 5 4) 3 5 < 8
      ∧ BB (WS opDev.dev.pwrstat 2 1 1) 2 = true ∧ 9000 < 9001 := by
  decide +kernel

set_option maxRecDepth 200000 in
/-- What its clauses on repair ask: the fourth post-package row, a full bank, no remap entry left, a bank being copied, no spare left. -/
theorem test_meets_repair :
    let r := opDev.repair
    let full : Repair := { r with remaps := List.replicate 4096 ((0, 0, 0, 0), 0) }
    opDev.bankAt 0 0 = some 0 ∧ (0, 0, 1, 5) ∉ r.retired ∧ (∀ x ∈ r.copying, x.1 ≠ 0) ∧ r.pprUsed (0, 0, 1) < 4 ∧ 4 ≤ r.pprUsed (0, 0, 2)
      ∧ r.remapped 0 < 4096 ∧ r.nextReserved = some 0 ∧ ¬ full.remapped 0 < 4096 ∧ full.freeSpares.head? = some 0
      ∧ (∃ x ∈ ({ full with copying := [(0, 8)] } : Repair).copying, x.1 = 0) ∧ ({ full with sparesUsed := List.range 9 } : Repair).freeSpares = [] := by
  decide +kernel

/-- What its clauses on a copy to a spare, machine checks and timing errors ask. -/
theorem test_meets_machine_check :
    ([(0, 8)] : List (Nat × Nat)).find? (fun y => y.1 == 0) = some (0, 8) ∧ opDev.gang? 0 = some gang0
      ∧ opDev.gangOn 0 (fun c => c == 0) = true ∧ opDev.gangOn 0 (fun c => c / 48 == 0) = true ∧ (∃ h ∈ opDev.harts, BB h.hcr 2 = true)
      ∧ (∀ f, f < 65 → BB (opDev.fn f).kvpool 0 = false) ∧ opDev.gangs.all (fun g => g.phase == .queued) = false
      ∧ [({ gang0 with phase := .queued } : Gang)].all (fun g => g.phase == .queued) = true :=
  ⟨rfl, rfl, by decide +kernel⟩

/-- A machine check of core 0 stops its gang with status 6; a check of a base die resets the device once its gang has completed (R69, R234). -/
theorem test_machine_check :
    (after (execMachineCheck 0 0 1 opDev)).gangs.map (fun g => g.stop.map Prod.fst) = [some 6]
      ∧ (after (execMachineCheck 2 0 1 opDev)).gangs.map (fun g => g.stop.map Prod.fst) = [some 6] ∧ (after (execMachineCheck 2 0 1 opDev)).dev.idstat = 7
      ∧ (after (execGangCompletion 0 (after (execMachineCheck 2 0 1 opDev)))).dev.idstat = 3 := by
  decide +kernel

/-- A stage that fails sets the error bit; the trip begins again at stage 3 (R15, R16). -/
theorem test_power :
    (after (execBringupStage false { State.reset with dev := { DevRegs.reset with idstat := 5 } })).dev.idstat = 0x15
      ∧ (after (execThermalTrip 115 opDev)).dev.idstat = 3 ∧ BF (after (execThermalCap 105 opDev)).dev.pwrstat 3 5 = 8
      ∧ BF (after (execLanesDecrease 4501 opDev)).dev.pwrstat 3 5 = 12 ∧ (after (execDevtimeAdvance opDev)).dev.devtime = 1 := by
  decide +kernel

/-- A function with work begun in its registers: a flush of record 3 and of all, an invalidation of page 4, a fault record that waits. -/
def regDev : State :=
  (dev alu).modFn 0 (fun g => { g with
    surfBusy := true, surfPending := [3], xlBusy := true, xlVA := 4, xlLog2n := 1, fqWaiting := [7], fqcfg := 0x1_0001, msixMask := 2, msixPend := 2
    kvpool := 1, treeWaiting := [] })

/-- What `RegisterWrites` asks of registers whose writes depend on their state. -/
theorem test_meets_registers :
    let g := regDev.fn 0
    regDev.powered = true ∧ BB g.kvpool 0 = true ∧ g.kvAlloc = 0 ∧ BB ((dev alu).fn 0).kvpool 0 = false ∧ ((dev alu).fn 0).fqWaiting = []
      ∧ g.surfBusy = true ∧ g.xlBusy = true ∧ regDev.xlQuiet 0 = true ∧ g.xlWaiting = [] ∧ g.fqWaiting = [7] ∧ g.fqRoom = true
      ∧ (regDev.modFn 0 (fun g => { g with fqHead := 1 })).fn 0 ≠ g ∧ ((regDev.modFn 0 (fun g => { g with fqHead := 1 })).fn 0).fqRoom = false
      ∧ regDev.heldLines 0x1_0000 32 = [] ∧ ({ regDev with snoop := [0x400] } : State).heldLines 0x1_0000 32 = [0x400]
      ∧ BB g.msixMask 1 = true ∧ BB g.msixPend 1 = true ∧ g.treeWaiting = [] ∧ regDev.gangs.map Gang.fn = [0] := by
  decide +kernel

/-- A tree record at 0x4000, which the page table of `trapDev` maps: install, remove; and a command address that is not mapped. -/
def treeDev (r : Nat) : State :=
  { trapDev with
    tlb := []
    mem := Memory.write trapDev.mem 0x4000_4000 (leBytes 64 r)
    trees := [{ id := 5, owner := 0, installed := true, record := 0, nodes := [] }] }

/-- That device as a tree command begins. -/
def treeStart (r : Nat) : State := ((treeDev r).modFn 0 (fun g => { g with treeWaiting := [0x4000] })).retry (2 ^ 33) 0

/-- What its clauses on tree commands ask. -/
theorem test_meets_tree_commands :
    okIn (fun r _ => r == none) (treeRead 0 0x4000_0000 64 (treeStart 5)) = true
      ∧ okIn (fun r _ => r == some 0x105 && bit 0x105 8 && treeMalformed 0x105) (treeRead 0 0x4000 64 (treeStart 0x105)) = true
      ∧ okIn (fun r t => r == some 5 && !bit 5 8 && (t.trees.find? (fun t => t.id == bits 5 0 8)).isSome) (treeRead 0 0x4000 64 (treeStart 5)) = true
      ∧ okIn (fun _ _ => true) (treeCommand 0 0x4000 (treeStart 5)) = true
      ∧ (match treeCommand 0 0x4000 { treeStart 5 with buckets := (List.range 4).map (fun p => { port := p, fn := 0, cls := 0, fill := 0 }) } with
        | .error .wait _ => true
        | _ => false) = true := by
  decide +kernel

/-- What the clause on a gang's reset ask: a gang of line 0, placed and running, and one that waits. -/
theorem test_meets_gang_reset :
    ((dev alu).gangs.find? (fun x => x.fn == 0 && x.line == some 0)) = some gang0 ∧ gang0.phase ≠ .queued ∧ (dev alu).gangHalted gang0.id = false
      ∧ (dev { alu with halted := true }).gangHalted gang0.id = true ∧ gang0.stop = none
      ∧ ({ gang0 with phase := .queued } : Gang).phase = .queued := by
  decide +kernel

/-- Writes clamp: PWRCTL to 1,800 and 4,500 W; KVMETA is kept while the pool is on (R13, R121, R122). -/
theorem test_registers :
    (after (execPwrctlWrite 0 regDev)).dev.pwrctl = 1800 ∧ (after (execPwrctlWrite 0x1FFF regDev)).dev.pwrctl = 4500
      ∧ (after (execKvmetaWrite 0 0x1_0014 regDev)).fn 0 = regDev.fn 0 ∧ ((after (execKvmetaWrite 1 0x1_0014 regDev)).fn 1).kvmeta = 0x1_0014
      ∧ ((after (execFqcfgWrite 1 0x1_0001 regDev)).fn 1).fqcfg = 0x1_0002 := by
  decide +kernel

/-- A hart with a served write and one that is not yet served. -/
def writer : Hart := { alu with wbuf := [{ pa := 0x8000, bytes := [7], poison := false, fn := 0, die := 0, gang := 0, served := true, since := 0 }] }

/-- The device with it; `served` says which. -/
def writeDev (served : Bool) : State :=
  dev { alu with wbuf := [{ pa := 0x8000, bytes := [7], poison := false, fn := 0, die := 0, gang := 0, served := served, since := 0 }] }

/-- A device whose line 0x200 has had three corrected errors. -/
def errDev : State := { opDev with repair := { opDev.repair with errs := [(opDev.lineLoc 0x200, 3)] } }

/-- What `HostEvents` asks of memory requests. -/
theorem test_meets_requests :
    (writeDev true).powered = true ∧ 16 % 16 = 0 ∧ 1 % 16 ≠ 0 ∧ (writeDev true).hart? 0 = some writer ∧ (0x8000 : Nat) < paLimit
      ∧ writer.wbuf.map PendWrite.served = [true] ∧ ((writeDev true).memoryError 0 0x200 1).heldLines 0x8000 1 = []
      ∧ errDev.retiredLine 0x200 = false ∧ errDev.llc = [] ∧ errDev.repair.errs.find? (fun x => x.1 == errDev.lineLoc 0x200) = some (errDev.lineLoc 0x200, 3)
      ∧ BB (errDev.fn 0).fqcfg 0 = false ∧ ((writeDev false).portWaiting 0 ++ (writeDev false).portWaiting 1 ++ (writeDev false).portWaiting 2 ++ (writeDev false).portWaiting 3).length = 1 := by
  refine ⟨rfl, by decide, by decide, rfl, ?_⟩; decide +kernel

/-- The port that serves the write, and that its tokens are there. -/
theorem test_meets_port_serve :
    (writeDev false).portWaiting (l2Port 0 0x200) = [{ port := l2Port 0 0x200, fn := 0, cls := 2, hart := 0, agent := 1000, need := 1, order := 0, live := true }] ∧ ((writeDev false).pay (l2Port 0 0x200) 0 2 1).isSome = true := by
  decide +kernel

/-- A device with a live window at 0x40000, a line the host holds, and a function that resets. -/
def hostDev : State :=
  { dev alu with
    dev := { DevRegs.reset with idstat := 7, launchwin := 0x4_0000 }
    snoop := [0x200], snoopWait := [0x200] }

/-- What its clauses on the host's reads and writes ask: no window, the window's first line whole and in part. -/
theorem test_meets_host :
    hostDev.windowsAt 0x8000 = [] ∧ hostDev.windowsAt 0x4_0000 = [(0, 0)] ∧ hostDev.windowsAt 0x4_03C0 = [(0, 15)] ∧ hostDev.windowsAt 0x4_0400 = []
      ∧ hostDev.vfResetting = [] ∧ 0x200 ∈ hostDev.snoopWait ∧ 0 < 64 ∧ 0x4_0000 / 64 = (0x4_0000 + 64 - 1) / 64 ∧ 0x8000 + 64 ≤ paLimit := by
  decide +kernel

/-- A write to the host of a hart that is gone. -/
def orphan : ExtReq :=
  { id := 0, hart := 77, agent := 65, host := true, port := 0, addr := 0, len := 8, write := true, data := 0, poison := 0, fill := false,
    since := 0, reply := none }

/-- A device whose function 4 is under reset, with a hart that has stopped and a frame, number 8. -/
def vfDev : State :=
  let s : State := { hostDev with
    harts := hostDev.harts ++ [{ alu with id := 1, fn := 4, stopped := true, rows := [] }]
    mem := [(hostDev.frameEntry 8 + 1, 4)], snoop := [], vfResetting := [4] }
  { s with dev := { s.dev with fabcfg := 0x64_0005_0000 } }

/-- What its clauses on the reset of a function ask: a write of a copy that is out, a subscription that must be removed at another device, a line of its
frame or of its frame's owner that the host holds, an owner's byte that waits, and a reset that ends. -/
theorem test_meets_vf_reset :
    3 + 1 ∉ hostDev.vfResetting ∧ 3 + 1 ∈ vfDev.vfResetting ∧ vfDev.fnWrites 4 false = false
      ∧ ({ vfDev with ext := [{ orphan with hart := 1 }] } : State).fnWrites 4 false = true
      ∧ (({ vfDev with subs := [{ addr := 7 * 2 ^ 47 + 64, fn := 4, hart := 1, slot := 0, seq := 0, dev := some 7 }] } : State).vfUnsub 4).fnWrites 4 true = true
      ∧ (vfDev.vfUnsub 4).fnWrites 4 true = false ∧ (vfDev.vfUnsub 4).framesOf 4 = [8] ∧ (vfDev.vfUnsub 4).snoop = []
      ∧ (vfDev.frameEntry 8 + 1) / 64 = 0 ∧ ({ vfDev with homeWait := [.bytes 17 [0] none] } : State).homeBusy (vfDev.frameEntry 8 + 1) 1 = true
      ∧ (vfDev.vfUnsub 4).homeBusy (vfDev.frameEntry 8 + 1) 1 = false ∧ BB ((vfDev.vfUnsub 4).fn 4).kvpool 0 = false
      ∧ (((vfDev.vfUnsub 4).vfSubs 4 [8]).kvDetach 4).2 = true := by
  decide +kernel

/-- The reset waits for the write, then for the subscription's home, and ends with the frame free (R75, R99). -/
theorem test_vf_reset :
    (after (execVfResetComplete 3 vfDev)).vfResetting = [] ∧ (after (execVfResetComplete 3 vfDev)).mem.read1 17 = 127
      ∧ (after (execVfResetComplete 3 { vfDev with ext := [{ orphan with hart := 1 }] })).vfResetting = [4]
      ∧ (after (execVfResetComplete 3 { vfDev with snoop := [0] })).snoopWait = [0x200, 0] := by
  decide +kernel

/-- A function whose one sequence names a page of the physical function's pool, while the host may cache that pool's page table. -/
def detachDev : State :=
  let s := kvDev 2 kvHart
  State.modFn { s with
    tlb := s.tlb ++ [{ die := 0, fn := 4, page := 0x60, shift := 12, pte := 0x6_0363, pteAddr := 0x9000 }]
    mem := (0xC1, 4) :: s.mem ++ [(0x6_0003, 1), (0x6_0006, 0x10), (0x6_0080, 1), (0x6_0085, 1), (0x6_0086, 1)]
    snoop := [0x1400], vfResetting := [4] } 4 (fun g => { g with kvpool := 0x201, kvmeta := 0x6_0000 })

/-- Its release waits for the host, and the reset with it (R62, R75, R140); once the line is free it is done. -/
theorem test_meets_vf_detach :
    detachDev.snoop.filter (fun l => (detachDev.framesOf 4).contains (l / 64)) = [] ∧ detachDev.fnWrites 4 false = false
      ∧ ((detachDev.vfSubs 4 (detachDev.framesOf 4)).kvDetach 4).2 = false
      ∧ (after (execVfResetComplete 3 detachDev)).vfResetting = [4] ∧ (after (execVfResetComplete 3 { detachDev with snoop := [] })).vfResetting = []
      ∧ (after (execVfResetComplete 3 { detachDev with snoop := [] })).mem.read1 0x5_0000 = 1 := by
  decide +kernel

/-- A write of part of a window line is counted and launches nothing; a whole line goes to the scheduler (R65 to R67). -/
theorem test_host :
    ((after (execHostMemWrite 0x4_0000 8 1 hostDev)).fn 0).partial16 = 1 ∧ (after (execHostMemWrite 0x4_0000 8 1 hostDev)).launchQ = []
      ∧ (after (execHostMemWrite 0x4_0000 64 1 hostDev)).launchQ = [(0, 0, 1)]
      ∧ (after (execBisnpResponse 0x200 hostDev)).snoop = [] ∧ (after (execMemoryRequest 0 1 0x8000 0 (writeDev true) 0 true)).mem = [(0x8000, 7)]
      ∧ BF (after (execMemoryRequest 0 16 0x8000 0 (writeDev true) 0 true)).dev.memerr 0 32 = 1
      ∧ (hartAfter (execMemoryRequest 0 16 0x8000 0 (writeDev true) 0 true)).wbuf = []
      ∧ (after (execMemoryRequest 0 1 0x8000 0 errDev 2 false)).poison = [0x800] := by
  decide +kernel

/-! ## The fabric -/

/-- Device 5 of a fabric: port 0 up on 8 lanes, port 1 down since 0, a request since 0, partition 3, a tree of one inner node with two
leaves, and 200,000 ns of DEVTIME against a limit of 100 µs. -/
def fabDev : State :=
  let s : State := { dev alu with
    dev := { DevRegs.reset with
      idstat := 7, fabcfg := 0x64_0005_0000, devtime := 200000
      fabpstat := DevRegs.reset.fabpstat.setIfInBounds 0 0x81 }
    portFails := (dev alu).portFails.setIfInBounds 2 16
    portDown := (dev alu).portDown.setIfInBounds 1 (some 0)
    mem := [(0x8008, 7)]
    ext := [{ orphan with id := 9, hart := 0, agent := 0, host := false, write := false }]
    replay := (dev alu).replay.setIfInBounds 0 [(1, 2)]
    trees := [{ id := 5, owner := 0, installed := true, record := BitVec.ofNat 512 (0x105 + 4 * 2 ^ 12 + 100 * 2 ^ 32 + 4 * 2 ^ 48), nodes := [
      { node := 0x300, parent := 0, root := true, children := [0, 1], ops := [none, none], timer := some 0 },
      { node := 0, parent := 0x300, root := false, children := [], ops := [], timer := none }] }]
    treeUp := [(5, 0x300, 0, 7, 0, 0), (5, 0x301, 0, 7, 0, 0)], treeDown := [(5, 0x300, 9, 0, 0), (5, 0, 9, 0, 0)] }
  s.modFn 0 (fun g => { g with fabpart := 3 })

/-- What `FabricEvents` asks of ports, at the run of 16. -/
theorem test_meets_ports :
    fabDev.powered = true ∧ BB ((fabDev.dev.fabpstat[0]?).getD 0) 0 = true ∧ BB ((fabDev.dev.fabpstat[1]?).getD 0) 0 = false
      ∧ 16 ≤ (fabDev.portFails[2]?).getD 0 ∧ (fabDev.portFails[0]?).getD 0 < 16 ∧ 16 ≤ ((fabDev.portFails.setIfInBounds 0 16)[0]?).getD 0
      ∧ (fabDev.portDown[1]?).getD none = some 0 ∧ BF fabDev.dev.fabcfg 32 16 * 1000 < fabDev.dev.devtime.toNat - 0
      ∧ 11 % 16 < 12 ∧ 12 ≤ 12 % 16 ∧ ((fabDev.replay[0]?).getD [])[0]? = some (1, 2)
      ∧ ((fabDev.replay[0]?).getD [])[1]? = none ∧ (dev alu).devId = 0x3FF := by
  decide +kernel

/-- What its clauses on requests of other devices ask: of this partition, of another, past the end of memory; each kind. -/
theorem test_meets_remote :
    (fabDev.ext.find? (fun e => e.id == 9 && decide (BF fabDev.dev.fabcfg 32 16 * 1000 ≤ fabDev.dev.devtime.toNat - e.since))).isSome = true
      ∧ fabDev.devId < 640 ∧ (3 : Nat) ≠ 0 ∧ BF (fabDev.fn (fabDev.frameOwner (0x8008 / 4096))).fabpart 0 16 = 3
      ∧ 0x8008 % 64 + 8 ≤ 64 ∧ 0x8008 + 8 ≤ paLimit ∧ paLimit < paLimit - 8 + 16 ∧ (paLimit - 8) % 64 + 8 ≤ 64
      ∧ fabDev.frameOwner (0x8008 / 4096) ∉ fabDev.vfResetting ∧ fabDev.snoop.contains (0x8008 / 64) = false ∧ fabDev.remWait = []
      ∧ (fabDev.homeBytes 0x8008 8).2.any id = false ∧ amoValue (bits 4 0 8) 64 7 0 0 = some 7 ∧ bit 0 32 = false
      ∧ (vamoValue (bits 66 0 8 - 64) 64 7 0).1 = 0 ∧ ({ fabDev with poison := [0x800] }.homeBytes 0x8008 8).2.any id = true
      ∧ (fabDev.subs.filter (fun (u : Sub) => u.dev.isNone && fabDev.homeSlice (u.addr / 64) == fabDev.homeSlice (0x8008 / 64))).length < 4096
      ∧ bit (2 ^ 32) 32 = true ∧ fabDev.subAsked { kind := 7, src := 6, part := 3, fn := 0, addr := 0x8008, len := 8, data := 0, poison := 0, half := 0, tag := 0 } = false
      ∧ ({ fabDev with ext := [{ orphan with hart := 0, agent := 0, host := false, addr := 6 * 2 ^ 47 + 0x8008 }] } : State).subAsked
          { kind := 7, src := 6, part := 3, fn := 0, addr := 0x8008, len := 8, data := 0, poison := 0, half := 0, tag := 0 } = true := by
  decide +kernel

/-- A table whose slice is full. -/
theorem test_meets_full (s : State) (u : Sub) (h : u.dev.isNone = true) :
    4096 ≤ ((List.replicate 4096 u).filter (fun (x : Sub) => x.dev.isNone && s.homeSlice (x.addr / 64) == s.homeSlice (u.addr / 64))).length :=
  Nat.le_of_eq (by rw [List.filter_replicate, if_pos (by simp [h]), List.length_replicate])

/-- What its clauses on trees ask: an operand that waits for its sibling, one that completes, a node that is not here, a timer run out. -/
theorem test_meets_trees :
    (5, 0x300, 0, 7, 0, 0) ∈ fabDev.treeUp ∧ (5, 0x301, 0, 7, 0, 0) ∈ fabDev.treeUp ∧ (fabDev.treeNode? 5 0x301).isNone = true
      ∧ ((fabDev.treeNode? 5 0x300).map (fun x => (x.2.ops, x.2.children.findIdx? (fun c => c == 0), x.2.timer)))
        = some ([none, none], some 0, some 0)
      ∧ ([none, none] : List (Option (Nat × Nat × Nat))).set 0 (some (7, 0, 0)) = [some (7, 0, 0), none]
      ∧ ([none, some (8, 0, 0)] : List (Option (Nat × Nat × Nat))).set 0 (some (7, 0, 0)) = [(7, 0, 0), (8, 0, 0)].map some
      ∧ nodeDev 0xA001 ≠ fabDev.devId ∧ (5, 0x300, 9, 0, 0) ∈ fabDev.treeDown ∧ (5, 0, 9, 0, 0) ∈ fabDev.treeDown ∧ (fabDev.treeNode? 5 0).isSome = true
      ∧ (fabDev.trees.find? (fun t => t.id == 5)).map (fun t => (t.installed, decide (BF t.record 32 16 * 1000 ≤ fabDev.dev.devtime.toNat - 0)))
        = some (true, true) := by
  and_intros <;> decide +kernel

/-- A request of another partition is refused with PART; a read of this one answers the value in a flit (R49, R50). -/
theorem test_remote :
    (after (execRemoteRequest 0 6 2 0 0x8008 8 0 fabDev 0 0 0)).outbox.length = fabDev.outbox.length + 1
      ∧ (after (execRemoteRequest 2 6 3 0 0x8008 8 9 fabDev 0 0 0)).mem = [(0x8008, 9)]
      ∧ (after (execRemoteRequest 2 6 2 0 0x8008 8 9 fabDev 0 0 0)).mem = [(0x8008, 7)]
      ∧ (after (execRemoteRequest 2 6 3 0 0x8008 1 0x94 fabDev 1 2 0)).mem = [(0x8008, 0x97)]
      ∧ (after (execRemoteRequest 2 6 3 0 0x8008 1 0x94 fabDev 1 2 0)).poison = [0x800]
      ∧ (after (execFabricRequestTimeout 9 fabDev)).ext.map ExtReq.reply = [some (3, 0, 0)]
      ∧ (after (execReductionTimeout 5 0x300 fabDev)).trees.map Tree.installed = [false] := by
  decide +kernel

/-! ## The scheduler -/

/-- A launch record of one hart: class, and the guaranteed class's deadline. -/
def launchRec (cls : Nat) : Nat :=
  1 + cls * 2 ^ 8 + 1 * 2 ^ 32 + 1 * 2 ^ 40 + 1 * 2 ^ 320 + 1 * 2 ^ 352 + (if cls = 0 then 0xFFFF_FFFF * 2 ^ 384 else 0)

/-- An idle device in operation with slot 0 and cluster 0 of each core reserved, and a push of that record to line 0 (or of zeros to line 1). -/
def pushDev (cls : Nat) : State :=
  { State.reset with
    dev := { DevRegs.reset with idstat := 7, schedcfg := 0x6411 }
    launchQ := [(0, 0, BitVec.ofNat 512 (launchRec cls)), (0, 1, 0)] }

set_option maxRecDepth 200000 in
/-- What `SchedulerEvents` asks of a launch: a busy line, a malformed record, one that can not be admitted, one that waits, one placed. -/
theorem test_meets_launches :
    (∀ c ∈ [0, 2], (pushDev c).launchQ.find? (fun x => x.1 == 0 && x.2.1 == 0) = some (0, 0, BitVec.ofNat 512 (launchRec c)))
      ∧ (pushDev 2).launchQ.find? (fun x => x.1 == 0 && x.2.1 == 1) = some (0, 1, BitVec.ofNat 512 0) ∧ (pushDev 2).resetDue = false
      ∧ (pushDev 2).gangs = [] ∧ recMalformed (launchRec 2) = false ∧ recMalformed (launchRec 0) = false ∧ recMalformed 0 = true
      ∧ (pushDev 2).refuse 0 (launchRec 2) = none ∧ (pushDev 0).refuse 0 (launchRec 0) = none
      ∧ ({ pushDev 0 with dev := { (pushDev 0).dev with schedcfg := 0x6400 } } : State).refuse 0 (launchRec 0) = some 6
      ∧ ((pushDev 0).planOf ((pushDev 0).newGang 0 (some 0) 0 (BitVec.ofNat 512 (launchRec 0)) 0)).isSome = true
      ∧ ((pushDev 2).newGang 0 (some 0) 0 (BitVec.ofNat 512 (launchRec 2)) 0).cls = 2 := by
  decide +kernel

/-- The busy line. -/
theorem test_meets_busy : ∃ x ∈ (dev alu).gangs, x.fn = 0 ∧ x.line = some 0 := ⟨gang0, List.mem_singleton.mpr rfl, rfl, rfl⟩

/-- A gang whose hart has ended; one that waits; one past its budget. -/
def endedDev : State := dev { alu with halted := true }

/-- The device with gang 0 queued and no hart. -/
def waitDev : State := { dev alu with dev := { DevRegs.reset with idstat := 7 }, harts := [], gangs := [{ gang0 with phase := .queued, record := BitVec.ofNat 512 (launchRec 2) }] }

set_option maxRecDepth 200000 in
/-- What its clauses on completion, placing and budgets ask. -/
theorem test_meets_gangs :
    endedDev.gang? 0 = some gang0 ∧ waitDev.accepts = true ∧ gang0.phase = .placed ∧ endedDev.gangEnded 0 = true ∧ gang0.line.isSome = true
      ∧ ((waitDev.waiting 2).head?.map Gang.id) = some 0 ∧ (waitDev.waiting 0).head?.isNone = true ∧ (waitDev.waiting 1).head?.isNone = true
      ∧ ((waitDev.gang? 0).bind waitDev.planOf).isSome = true
      ∧ (dev alu).gangEnded 0 = false ∧ 5120 * BF gang0.record 320 32 < 1 := by
  refine ⟨rfl, rfl, ?_⟩; decide +kernel

/-- A device whose slots are all taken by harts of a low gang, 0, while a high gang, 1, has headed its queue for 200 µs. -/
def fullDev : State :=
  let s : State := { dev alu with
    dev := { DevRegs.reset with idstat := 7, devtime := 200000, schedcfg := 0x64EE }
    harts := (List.range 192).map (fun i => { alu with id := i, core := i, rows := [] })
    gangs := [{ gang0 with record := BitVec.ofNat 512 (launchRec 3) },
      { gang0 with id := 1, phase := .queued, record := BitVec.ofNat 512 (launchRec 1), headSince := some 0 }] }
  s.modFn 0 (fun g => { g with savecfg := 0x81 })

set_option maxRecDepth 200000 in
/-- What its clause on pre-emption asks. -/
theorem test_meets_preempt :
    ((fullDev.waiting 1).head?.map Gang.id) = some 1 ∧ BF fullDev.dev.schedcfg 8 16 * 1000 ≤ fullDev.dev.devtime.toNat - 0
      ∧ (fullDev.gang? 1).map (fun g => (g.cls, g.headSince, (fullDev.planOf g).isNone)) = some (1, some 0, true)
      ∧ (fullDev.gang? 1).map (fun g => fullDev.pickVictims g (fullDev.victims g.cls) []) = some (some [0]) := by
  decide +kernel

/-- A hart with a suspended row beside its home row, in the device whose page table maps its area. -/
def suspended : Hart := { alu with rows := alu.rows ++ alu.rows.map (fun (r : Row) => { r with cluster := none }) }

/-- The device with that hart. -/
def restoreDev : State := { trapDev with harts := [suspended] }

set_option maxRecDepth 200000 in
/-- What the clause on restoring a row asks, but for the check itself, which holds or fails. -/
theorem test_meets_restore :
    (suspended.rows.map Row.cluster) = [some 0, none] ∧ suspended.saved = false ∧ suspended.stopped = false
      ∧ (let order := searchOrder suspended.core
         let cands := order.filter (fun c => !restoreDev.reserved c) ++ order.filter (fun c => restoreDev.reserved c)
         cands.find? (fun c => !(suspended.rows.filterMap Row.cluster).contains c
           && restoreDev.clusterOk restoreDev.occ (restoreDev.clsOf suspended) false c)) = some 1 := by
  decide +kernel

/-- And that the row's block, two pages from 0x94000, is mapped. -/
theorem test_meets_restore_block :
    let mapped (va : Nat) : Bool := okIn (fun x _ => x.isSome) (xlateQuiet (restoreDev.trapAcc suspended) va false [0] restoreDev)
    restoreDev.areaVA suspended = 0 ∧ mapped 0x9_4000 = true ∧ mapped 0x9_5000 = true := by
  decide +kernel

/-- What its clauses on promotion and on instruction lines ask. -/
theorem test_meets_fill :
    (rowHart { op := byteOp (.vid 1 0) }).rowLive 0 = true ∧ (row0 { op := byteOp (.vid 1 0) }).qdone < 0 + 1 ∧ 1138 ≤ 1138 - 0
      ∧ (let h : Hart := { alu with fetchWait := some 0x4000 }
         let s := dev h
         (s.harts.find? (fun h => h.fn == 0 && h.waitsLine 0 0x4000 && !h.saved)).map Hart.id = some 0
           ∧ okIn (fun b _ => b.1.length == 64 && h.level != 0) (readLine (s.fetchAcc h 0) 0x4000 false (s.retry h.id 100)) = true) := by
  decide +kernel

set_option maxRecDepth 200000 in
/-- A completed gang leaves; its record names its line (R69). -/
theorem test_completion :
    (after (execGangCompletion 0 endedDev)).gangs = [] ∧ (after (execGangCompletion 0 endedDev)).harts = []
      ∧ (after (execGangPlace 0 waitDev)).harts.map (fun h => (h.core, h.slot, h.level)) = [(0, 0, 0)] := by
  decide +kernel

/-! ## More of the engines, the scheduler and rows -/

/-- A home slice whose 4,096 entries are in use. -/
def fullSubs : State := { standDev with subs := List.replicate 4096 { addr := 0x8008, fn := 0, hart := 1, slot := 0, seq := 0, dev := none } }

/-- What `StandingLoads` asks of a full slice. -/
theorem test_meets_stand_full :
    fullSubs.curHart = some stander ∧ (fullSubs.subQuota 0).isNone = true
      ∧ okIn (fun a _ => a == none) (apertureOf (fullSubs.accOf stander 0) 0x4008 (fullSubs.retry 0 0)) = true
      ∧ 4096 ≤ (fullSubs.subs.filter (fun (u : Sub) => u.dev.isNone && fullSubs.homeSlice (u.addr / 64) == fullSubs.homeSlice (0x8008 / 64))).length := by
  refine ⟨rfl, by decide +kernel, by decide +kernel, ?_⟩
  exact test_meets_full fullSubs { addr := 0x8008, fn := 0, hart := 1, slot := 0, seq := 0, dev := none } rfl

/-- The memory of device 9, where the hart's page 4 lies, at offset 8. -/
def farWord : Nat := 9 * 2 ^ 47 + 0x8008

/-- Device 5 as that hart's subscription there is answered: a full table gives 2^64. -/
def farStand (status value : Nat) : State :=
  { fabDev with
    harts := [stander]
    tlb := [{ die := 0, fn := 0, page := 4, shift := 12, pte := BitVec.ofNat 64 (farWord - 8 + 0x373), pteAddr := 0x9000 }]
    ext := [{ orphan with
      id := 3, hart := 0, agent := 0, host := false, addr := farWord, data := subTag 0 * 64, reply := some (status, value, 0) }] }

/-- What its clauses on memory of another device ask: a full table, a value, a status. -/
theorem test_meets_stand_far :
    let ask : ExtAsk := { host := false, kind := 6, addr := farWord, len := 8, write := true, data := subTag 0 * 64 + 0 }
    let asks (s : State) (p : Except Nat (Nat × BitVec 4 × Bool) → State → Bool) : Bool :=
      okIn (fun x t => s.hereDest x.dest == .remote farWord false && decide (t = s.retry 0 0)) (xlate (s.accOf stander 0) 0x4008 false [0, 2] false (s.retry 0 0))
      && okIn (fun r t => p r t && t.curHart.any (fun k => !k.owed 3)) (extAccess (s.accOf stander 0) ask (s.retry 0 0))
    asks (farStand 0 7) (fun r _ => match r with
      | .ok v => v.1 == 7
      | .error _ => false) = true
    ∧ asks (farStand 0 (2 ^ 64)) (fun r _ => match r with
      | .ok v => v.1 == 2 ^ 64
      | .error _ => false) = true
    ∧ asks (farStand 4 0) (fun r _ => match r with
      | .ok _ => false
      | .error st => st == 4) = true := by
  decide +kernel

/-- LDSTAND of that word: the status of a full table, and the fabric fault, which stops a gang without a handler (R51, R357). -/
theorem test_stand_far :
    (hartAfter (exec (.ldstandLatest 3 4 5) (farStand 0 (2 ^ 64)))).rd 3 = 3
      ∧ (after (exec (.ldstandLatest 3 4 5) (farStand 0 7))).subs.map Sub.dev = [some 9]
      ∧ (((after (exec (.ldstandLatest 3 4 5) (farStand 4 0))).gangs.head?).bind Gang.stop) = some (2, 0x400B) := by
  decide +kernel

/-- The hart with a QUEUE pair of `count` entries in slots 0 and 1, the oldest at place 3, of which some were dropped. -/
def pairHart (count : Nat) : Hart :=
  { stander with
    slots := (stander.slots.setIfInBounds 0 (BitVec.ofNat 512 (2 * 2 ^ 120 + 2 ^ 124 + 3 * 2 ^ 125 + count * 2 ^ 112 + 41 * 2 ^ 64))).setIfInBounds 1 (BitVec.ofNat 512 (77 * 2 ^ 192))
    slotPairs := 1 }

/-- What the clauses of `StandingLoads` on a QUEUE pair ask, and what they say: the oldest entry, its number and DROPPED; NONE, or a wait (R359). -/
theorem test_meets_stand_queue :
    (pairHart 2).slots[0]? = some (BitVec.ofNat 512 (2 * 2 ^ 120 + 2 ^ 124 + 3 * 2 ^ 125 + 2 * 2 ^ 112 + 41 * 2 ^ 64)) ∧ (pairHart 2).slotPairs.getLsbD 0 = true
      ∧ ((pairHart 2).slotRead 0 false).map (fun x => (x.1, x.2.1, x.2.2.1)) = some (77, false, 0x0100_0000_0000_0029)
      ∧ ((pairHart 0).slotRead 0 false).isNone = true ∧ ((pairHart 0).slotRead 0 true).map (fun x => x.2.2.1) = some 0x0400_0000_0000_0000 := by
  refine ⟨rfl, ?_⟩; decide +kernel

/-- Device 5 as the removal of that hart's subscription at device 9 is answered with a status. -/
def farUnsubbed (status : Nat) : State :=
  { farStand status 0 with
    harts := [subscribed]
    subs := [{ addr := farWord, fn := 0, hart := 0, slot := 0, seq := 0, dev := some 9 }]
    ext := [{ orphan with
      id := 3, hart := 0, agent := 0, host := false, addr := farWord, data := 2 ^ 32 + subTag 0 * 64, reply := some (status, 0, 0) }] }

/-- What its clause on UNSUB there asks, and what it says: the fabric fault; without an error, status 0 (R51, R360). -/
theorem test_meets_unsub_far :
    ((farUnsubbed 4).subs.filter (fun u => u.hart == subscribed.id && u.slot == 0)).map Sub.dev = [some 9]
      ∧ okIn (fun r _ => match r with
        | .ok _ => false
        | .error st => st == 4)
        (extAccess ((farUnsubbed 4).accOf subscribed 0) { addr := farWord, fn := 0, hart := 0, slot := 0, seq := 0, dev := some 9 : Sub }.endAsk
          ((farUnsubbed 4).retry 0 0)) = true
      ∧ (((after (exec (.unsub 3 5) (farUnsubbed 4))).gangs.head?).bind Gang.stop) = some (2, 0x400B)
      ∧ (after (exec (.unsub 3 5) (farUnsubbed 0))).subs = [] := by
  decide +kernel

/-- Another hart has had a PFREE of handle 0 accepted, or has a command of its own for it there. -/
def sharedDev (g : Hart) : State := { boundDev with harts := boundDev.harts ++ [{ g with id := 1 }] }

/-- What `AgateWords` asks of what reaches Agate after a PFREE, and of a PFREE that waits. -/
theorem test_meets_agate_more :
    (∃ g ∈ (sharedDev { alu with pfreeAt := some 0 }).harts, g.fn = binder.fn ∧ g.id ≠ binder.id ∧ g.pfreeAt = some 0)
      ∧ binder.agateBusy 0 = false ∧ ({ binder with agateAt := some 0 } : Hart).agateBusy 0 = true
      ∧ (∃ g ∈ (sharedDev { alu with agateAt := some 0 }).harts, g.fn = binder.fn ∧ g.id ≠ binder.id ∧ g.agateBusy 0 = true)
      ∧ (hartAfter (exec (.pstat 3 5) (sharedDev { alu with pfreeAt := some 0 }))).rd 3 = 0
      ∧ (hartAfter (exec (.pfree 5) (sharedDev { alu with agateAt := some 0 }))).pfreeAt = some 0 := by
  refine ⟨⟨{ { alu with pfreeAt := some 0 } with id := 1 }, ?_, ?_⟩, by decide +kernel, by decide +kernel,
    ⟨{ { alu with agateAt := some 0 } with id := 1 }, ?_, ?_⟩, by decide +kernel⟩
  · exact List.mem_append_right _ (List.mem_singleton.mpr rfl)
  · decide +kernel
  · exact List.mem_append_right _ (List.mem_singleton.mpr rfl)
  · decide +kernel

/-- The pool's device while it initialises, the destination's does, or a parked KVLD names sequence 0. -/
def kvWaits : State := (kvDev 1 kvHart).modFn 0 (fun g => { g with kvBusy := true })

/-- That of function 1. -/
def kvFarBusy : State := (kvDev 1 kvHart).modFn 1 (fun g => { g with kvBusy := true })

/-- A hart whose row is parked at a KVLD of sequence 0. -/
def kvldHart : Hart :=
  let e : Entry := { op := opOf (.kvld 1 4 5) 0 0 0 }
  { rowHart e with rows := (rowHart e).rows.map (fun r => { r with park := some { fid := 3, cause := 1, va := 0, kv := true } }) }

/-- What the waits of `KvCommands` ask, and what they say: nothing changes. The destinations of KVFORK.M at the ends of the range. -/
theorem test_meets_kv_more :
    (kvWaits.fn 0).kvBusy = true ∧ (kvFarBusy.fn 0).kvBusy = false ∧ (kvFarBusy.fn ((kvHart.rd 7).toNat / 2 ^ 20)).kvBusy = true
      ∧ ({ dev kvldHart with harts := [kvldHart] } : State).kvldOpen 0 0 = true
      ∧ 64 < 65 * 2 ^ 20 / 2 ^ 20 % 128 ∧ 0 * 2 ^ 20 / 2 ^ 20 % 128 = 0 ∧ 64 * 2 ^ 20 < 2 ^ 27 ∧ 1 ≤ 64 * 2 ^ 20 / 2 ^ 20
      ∧ (match exec (.kvmap 3 4 4) kvWaits, exec (.kvforkM 7 4) kvFarBusy with
        | .next t, .next u => decide (t = kvWaits) && decide (u = kvFarBusy)
        | _, _ => false) = true := by
  decide +kernel

set_option maxRecDepth 200000 in
/-- What `SchedulerEvents` asks of a guaranteed launch, whose regions are read first, and of one while a reset is due. -/
theorem test_meets_guaranteed :
    okIn (fun _ t => (t.refuse 0 (launchRec 0)).isNone && !t.resetDue && (t.planOf (t.newGang 0 (some 0) 0 (BitVec.ofNat 512 (launchRec 0)) 0)).isSome)
        (regionReads 0 (launchRec 0) { pushDev 0 with launchQ := [], gangCtr := 1 }) = true
      ∧ ({ pushDev 2 with resetDue := true } : State).resetDue = true ∧ ({ pushDev 2 with resetDue := true } : State).refuse 0 (launchRec 2) = none := by
  decide +kernel

/-- A gang launched by GLAUNCH from the record at 0x4000, whose hart has ended. -/
def launchedDev : State := { endedDev with gangs := [{ gang0 with line := none, recVA := 0x4000, record := BitVec.ofNat 512 (launchRec 2) }] }

set_option maxRecDepth 200000 in
/-- What its completion asks: the record's place can be written; and what it says: the record stands 64 bytes after the launch record (R69, R383). -/
theorem test_meets_launched :
    (launchedDev.gang? 0).map (fun g => (g.line.isNone, BF g.record 256 46, g.stop.isNone, g.cyc)) = some (true, 0, true, 0) ∧ launchedDev.gangEnded 0 = true
      ∧ (let c : Cpl := { id := 0, fn := 0, va := 0x4040, record := 5, irq := none }
        okIn (fun _ _ => true) (writeMem c.acc c.va (leBytes 32 5) (List.replicate 32 false) [0, 1, 2, 3] true
          (({ launchedDev with cpls := [c] } : State).retry c.acc.hart 0)) = true)
      ∧ (after (execGangCompletion 0 launchedDev)).mem = [(0x8042, 0x10)] ∧ (after (execGangCompletion 0 launchedDev)).gangs = []
      ∧ ({ launchedDev with gangs := launchedDev.gangs.map (fun g => { g with bytes := 65537 }) } : State).gangs.map
          (fun g => decide (g.phase ≠ GangPhase.queued ∧ g.stop = none ∧ 65536 * BF g.record 352 32 < g.bytes)) = [true] := by
  decide +kernel

/-- What the clause of `SchedulerEvents` on a gang that still waits for a removal elsewhere asks. -/
theorem test_meets_far_removal :
    let s : State := { farStand 0 0 with
      harts := [{ subscribed with halted := true }], ext := []
      subs := [{ addr := farWord, fn := 0, hart := 0, slot := 0, seq := 0, dev := some 9 }] }
    s.gangEnded 0 = true ∧ (s.unsubAll 0).gangEnded 0 = false := by
  decide +kernel

/-! Rows. -/

/-- Row 0 of `rowDev` may run a typed word of one operand, with its formats: no operand is poisoned or dead. -/
def singleOk (o : Op) (ok : Desc → Bool) : Bool :=
  let D := Desc.of o.sf.v
  o.typedOk 4 2 none true false ok && (List.range 4).all (fun j => ((o.typed D 2 D.fa).reads j).all (fun x => !(row0 { op := o }).rdPoison x))
    && !BB o.hcr 1 && !({ op := o } : Entry).isLoop && !o.comb

/-- A typed word of one operand from format fa to format fd. -/
def oneOp (i : Instr) (fa fd : Nat) : Op := opOf i 0 0 (BitVec.ofNat 64 (fa + fd * 2 ^ 12))

/-- What the clauses of `RowFloat` on one operand ask: conversions from integers and from values, the class, the estimates. -/
theorem test_meets_row_single :
    singleOk (oneOp (.vcvt 4 2 4 0) 0 0x13) (fun D => fmtInt D.fa && (fmtInt D.fd || fmtFlt D.fd)) = true
      ∧ singleOk (oneOp (.vcvt 4 2 4 0) 0x13 0) (fun D => fmtFlt D.fa && (fmtInt D.fd || fmtFlt D.fd)) = true
      ∧ singleOk (oneOp (.vclass 4 2 4 0) 0x11 2) (fun D => fmtFlt D.fa && fmtInt D.fd && decide (16 ≤ fmtWidth D.fd)) = true
      ∧ singleOk (oneOp (.vrecpe 4 2 4 0) 0x13 0x13) (fun D => fmtFlt D.fa && fmtFlt D.fd && !D.bse) = true
      ∧ singleOk (oneOp (.vexp2e 4 2 4 0) 0x13 0x13) (fun D => fmtFlt D.fa && fmtFlt D.fd && !D.bse) = true := by
  decide +kernel

/-- Estimates that `RowFloat` names: of 1, of −2 and of zero; 2 to the power 1/2 lies between its bounds (R303, R304). -/
theorem test_meets_estimates :
    recipIs (.fin false 1 0) (.fin false (2 ^ 17 / 257) (-9), 1) ∧ recipIs (.fin true 0 3) (.inf true, 8) ∧ exp2Is (.inf true) (.fin false 0 0, 0)
      ∧ (2 * 3037000500 - 1) ^ 64 ≤ 2 ^ (64 * 32 + 32) ∧ 2 ^ (64 * 32 + 32) < (2 * 3037000500 + 1) ^ 64 := by
  refine ⟨⟨fun h => absurd h (by decide), fun l _ h1 h2 => ?_⟩, ⟨fun _ => rfl, fun l h => absurd h (by decide)⟩, rfl, by decide +kernel, by decide +kernel⟩
  have : l = 1 := by
    rcases l with _ | _ | l
    · simp at h1
    · rfl
    · simp [Nat.pow_succ] at h2; have := Nat.one_le_two_pow (n := l); omega
  subst this; rfl

/-- What its clause on codebook weights asks. -/
theorem test_meets_codebook :
    let o := oneOp (.vcvt 4 2 4 0) 0x18 0x13
    let D := Desc.of o.sf.v
    D.fa = 0x18 ∧ descBad o.sf.v true = false ∧ fmtFlt D.fd = true ∧ groupsOk (some (o.typed D 4 D.fd)) [o.typed D 2 D.fa] false = true
      ∧ (∀ x ∈ (List.range 4).flatMap (fun j => [⟨2, 16, j / 8⟩]), (row0 { op := o }).rdPoison x = false)
      ∧ ({ rowHart { op := o } with cbt := some [1, 2] } : Hart).cbt = some [1, 2] := by
  decide +kernel

/-- The row with element 2 of v1 poisoned. -/
def badRow (o : Op) : State :=
  let e : Entry := { op := o }
  dev { rowHart e with rows := (rowHart e).rows.map (fun r => { r with vpoison := r.vpoison.setIfInBounds 1 4 }) }

/-- What the clauses of `RowMasks` on floating compares ask, and on one that meets poison: bits 0 and 1 are written, and its place is kept. -/
theorem test_meets_row_compare :
    let o := opOf (.vcmpun 1 1 2 4 0) 0 0 (BitVec.ofNat 64 (0x13 * 65))
    let D := Desc.of o.sf.v
    (compareWords true 1 1 2 4 0 ++ [Instr.vcmpun 1 1 2 4 0])[6]? = some o.i ∧ descBad o.sf.v false = false ∧ fmtFlt D.fa = true ∧ fmtFlt D.fb = true ∧ D.fd = 0
      ∧ groupsOk none [o.typed D 1 D.fa, o.typed D 2 D.fb] true = true ∧ (compareRule (.nan false) (.inf false))[6]? = some (true, 0)
      ∧ (∀ z ∈ (o.typed D 1 D.fa).reads 1 ++ (o.typed D 2 D.fb).reads 1, (row0 { op := o }).rdPoison z = false)
      ∧ (match (badRow o).harts.head?.map Hart.home with
        | some r => ((o.typed D 1 D.fa).reads 2).any r.rdPoison && !((o.typed D 1 D.fa).reads 1).any r.rdPoison
        | none => false) = true := by
  decide +kernel

/-- What `RowCross` asks of a scan, of floating reductions, and of the words that move elements. -/
theorem test_meets_row_cross :
    let o := oneOp (.vscanO 3 1 4 0) 0 0x13
    let q := opOf (.vslideup 3 1 4 0) 0 2 0
    let p := opOf (.vperm 3 1 2 0) 0 0 0
    let D := Desc.of o.sf.v
    descBad o.sf.v true = false ∧ groupsOk (some (o.typed D 3 D.fd)) [o.typed D 1 D.fa] false = true ∧ fmtInt D.fa = true ∧ fmtFlt D.fd = true
      ∧ (reduceWords 3 1 2 4 0)[2]? = some (.vredmin 3 1 2 4 0) ∧ fmtFlt (Desc.of (oneOp (.vredmin 3 1 2 4 0) 0x13 0x13).sf.v).fa = true
      ∧ groupsOk (some (q.plain 3)) [q.plain 1] false = true ∧ q.sb.poison = false ∧ q.groupElems = 128
      ∧ groupsOk (some (p.plain 3)) [p.plain 1, p.plain 2] false = true ∧ (∀ j, j < 4 → (row0 { op := p }).elemPoison 2 p.sew j = false) ∧ BB p.hcr 1 = false
      ∧ (rowHart { op := p }).hcr.getLsbD 0 = false := by
  decide +kernel

/-- Row 0 of `pad` at a vector memory word, with s1 the base. -/
def memOp (i : Instr) (space base : Nat) : Op := { opOf i (BitVec.ofNat 64 base) 0 0 with vmt := BitVec.ofNat 2 space }

/-- What `VectorMemory` asks of a load, a store and an atomic of the scratchpad: bytes at 0x100, indices in v2. -/
theorem test_meets_vector_pad :
    let o := memOp (.vld 4 1 0 0 0) 1 0x100
    let row := row0 { op := o }
    let v : VMode := ⟨0, 1, 8, 0, 4, none, false, 0⟩
    let x : VMode := ⟨2, 1, 8, 0, 4, some 8, false, 0⟩
    memMode o.i = some v ∧ memMode (.vst 4 1 0 0 0) = some { v with kind := 1 } ∧ (vamoWords true 4 1 8 0 0)[0]? = some (.vamoaddI 4 1 8 0 0)
      ∧ row.vl ≠ 0 ∧ row.vl.toNat * o.sew ≤ o.lmul * 1024 ∧ v.vd % o.lmul = 0 ∧ v.vd + v.nf * o.lmul ≤ 32 ∧ o.group 32 ≤ 8 ∧ 8 % o.group 32 = 0
      ∧ 8 + o.group 32 ≤ 32 ∧ x.vd + x.nf * o.lmul ≤ 8 ∧ x.eew = o.sew
      ∧ (∀ j, j < 4 → row.elemPoison 8 32 j = false ∧ row.elemPoison 4 8 j = false)
      ∧ (∀ j, j < 4 → (v.accs o row j).all (fun a => a.va % a.n == 0 && decide (a.va + a.n ≤ 0x7_F000)) = true
        ∧ (x.accs o row j).all (fun a => a.va % a.n == 0 && decide (a.va + a.n ≤ 0x7_F000)) = true)
      ∧ o.sa.poison = false ∧ BB o.hcr 1 = false ∧ (rowHart { op := o }).scratch.wf = true ∧ (rowHart { op := o }).scratchPoison = []
      ∧ (rowHart { op := o }).tokens.toList.all (fun t => t.job.isNone) = true := by
  decide +kernel

/-- What its clauses on device memory ask: four bytes in the cached page, one request, which goes to the home. -/
theorem test_meets_vector_home :
    let o := memOp (.vld 4 1 0 0 0) 0 0x4000
    let s := rowDev { op := o }
    let h := rowHart { op := o }
    let row := row0 { op := o }
    let v : VMode := ⟨0, 1, 8, 0, 4, none, false, 0⟩
    let l := (row.actives 0 0).flatMap (v.accs o row)
    let acc : Acc := { s.accOf h 0 with agent := 1 }
    let t0 : State := { s.rowTry 0 0 with cur := 0 }
    l.length = 4 ∧ misaligned v l = [] ∧ (∀ a ∈ l, badPlace v o h.level a = none ∧ (inRegWindow a.va).isNone = true) ∧ formReqs (v.ord == 1) l = [l]
      ∧ okIn (fun _ t => decide (t = t0)) (probeSpace 0 o v acc l t0) = true
      ∧ okIn (fun got t => decide (t.harts = t0.harts) && t.cur == 0 && got.length == 4 && l.all (fun a => got.any (fun g => g.1 == a.e && g.2.1 == a.i)))
          (readReq o acc l t0) = true
      ∧ okIn (fun _ t => decide (t.harts = t0.harts) && t.cur == 0)
          (writeReq o acc (fun _ _ => pure ()) (l.map (fun a => (a, 5, false))) t0) = true := by
  decide +kernel

/-- What its last part asks of a request: it lies in a line of the cached page, and the port serves it. -/
theorem test_meets_request :
    let acc : Acc := { memDev.accOf mem 0 with agent := 1 }
    let q : List VAcc := [{ e := 0, i := 0, va := 0x4008, n := 4 }, { e := 1, i := 0, va := 0x400C, n := 4 }]
    (∀ a ∈ q, 0x4008 ≤ a.va ∧ a.va + a.n ≤ 0x4008 / 64 * 64 + 64 ∧ 0 < a.n) ∧ q.any (fun a => a.va == 0x4008) = true ∧ 0x4008 < regWindow
      ∧ (∀ a ∈ q, okIn (fun r t => r == none && decide (t = memDev)) (apertureOf acc a.va memDev) = true)
      ∧ okIn (fun x t => x.dest == .localM 0x8008 && decide (t = memDev)) (xlate acc 0x4008 true [0, 1, 2, 3] false memDev) = true
      ∧ 0x8008 % 64 = 0x4008 % 64 ∧ 0x8008 + 64 ≤ paLimit ∧ acc.engine = 0 ∧ acc.base = false ∧ memDev.snoop = [] ∧ memDev.retiredLine (0x8008 / 64) = false
      ∧ memDev.mem.wf = true ∧ BB memDev.dev.heatcfg 32 = false
      ∧ (memDev.serve (l2Port acc.die (0x8008 / 64)) acc.fn acc.cls acc.hart acc.agent (popcount 4 (reqGranules q))).isSome = true := by
  decide +kernel

/-- A tile of BF16 rows, all zero but for its first. -/
def tile64 : Tile := { state := 2, fmt := 0x11, rows := [(0, 0x3F80)] }

/-- What `MatrixWords` asks: a tile load, a row of A in a register and one in memory, FX64 sums, and their reading and clearing. -/
theorem test_meets_matrix :
    let load : Op := { memOp (.mtload 0 4 5 8) 1 0x100 with sb := { v := 128 }, sf := { v := BitVec.ofNat 64 (0x11 * 65) } }
    let mrow : Op := opOf (.mrow 4 8 0 9) 0 0 (BitVec.ofNat 64 (0x11 + 0x10 * 2 ^ 12))
    let fixed := Desc.of (BitVec.ofNat 64 (0x13 + 0x1F * 2 ^ 12))
    let read := Desc.of (BitVec.ofNat 64 (0x1F + 0x11 * 2 ^ 12))
    let row := row0 { op := mrow }
    descBad load.sf.v false = false ∧ (Desc.of load.sf.v).fd = 0 ∧ tilePaired 0x11 0x11 false = true ∧ tileRowBytes 0x11 = 128 ∧ ownSide 0x11 = 64
      ∧ (row.mtrow = 0 ∧ 0x100 + 128 * 64 + 128 ≤ 0x7_F000)
      ∧ descBad mrow.sf.v true = false ∧ (Desc.of mrow.sf.v).fd = 0x10 ∧ (Desc.of mrow.sf.v).bse = false ∧ tile64.state = 2
      ∧ tilePaired (Desc.of mrow.sf.v).fa tile64.fmt tile64.scaled = true ∧ 4 % (ownSide tile64.fmt / 32) = 0
      ∧ (∀ k, k < 64 → row.elemPoison 4 32 k = false ∧ (row.aRow 8).poisoned 0x11 false k = false
        ∧ ARow.poisoned ⟨0, 0, List.replicate 128 false, []⟩ 0x11 false k = false)
      ∧ BB mrow.hcr 2 = false ∧ BB mrow.hcr 1 = false ∧ fixed.fa = 0x13 ∧ fixed.fd = 0x1F ∧ read.fa = 0x1F ∧ read.fd ∈ [0x10, 0x11, 0x12]
      ∧ descBad (BitVec.ofNat 64 (0x13 + 0x1F * 2 ^ 12)) true = false ∧ descBad (BitVec.ofNat 64 (0x1F + 0x11 * 2 ^ 12)) true = false
      ∧ (∀ k, k < 128 → row.elemPoison 8 64 k = false ∧ (row.aRow 1).poisoned 0x13 false k = false)
      ∧ (row.aRow 0).val 0x13 false 5 = .fin false 0 (-9) ∧ (Tile.weight { state := 2, fmt := 0x13 } [] 0 3) = .fin false 0 (-9) := by
  decide +kernel

/-- What `TileWords` asks: the words of a tile of one row, with their operands, and SWGT. -/
theorem test_meets_tile :
    let o (i : Instr) : Op := opOf i 0 0 0 2
    let h := rowHart { op := o (.smax 3 1) }
    let row := row0 { op := o (.smax 3 1) }
    (∀ x ∈ h.rows, x.joined = true ∧ x.qdone = row.qdone ∧ x.cluster.isSome = true) ∧ h.img.isNone = true ∧ (o (.smax 3 1)).sew = 32
      ∧ ((o (.smax 3 1)).plain 1).ok = true ∧ (∀ j, j < 4 → row.elemPoison 1 32 j = false)
      ∧ row.elem 1 32 0 = 0x04FF0201 ∧ row.elem 1 32 1 = 0
      ∧ groupsOk (some ((o (.xchg 3 1 4)).plain 3)) [(o (.xchg 3 1 4)).plain 1] false = true
      ∧ (0x100 / 2 ^ 16 = 0 ∧ 0x100 / 4 % 2 ^ 6 = 0 ∧ 0x100 % 4 ≠ 3)
      ∧ (∀ i, i < 256 → leVal ((List.range 8).map (fun k => h.scratch.read1 (8 * i + k))) < 2 ^ 33)
      ∧ groupsOk (some ((o (.swgt 3 1 4)).plain 3)) [(o (.swgt 3 1 4)).plain 1] true = true ∧ h.allAt row.qdone = true
      ∧ h.hcr.getLsbD 0 = false := by
  decide +kernel

/-- What the clause of `RowCompletes` on flags that trap asks: the last row, the enable in HCR, and flags. -/
theorem test_meets_late :
    let o : Op := { fltOp (.vdivF 3 2 8 4 0) with hcr := 0x10 }
    (rowHart { op := o }).lastAt 0 = true ∧ BB o.hcr 4 = true
      ∧ rowEnds o (fun r => okIn (fun fl t => fl != 0 && (t.harts.head?).any (fun k => k.late.isEmpty)) r) = true := by
  decide +kernel

/-- That trap: a cause of the vector kind, with the flags of a division by zero and of 0 / 0 (R189, R220). -/
theorem test_late : (after (execRowDispatch 0 0 (rowDev { op := { fltOp (.vdivF 3 2 8 4 0) with hcr := 0x10 } }))).gangs.map (fun g => g.stop)
    = [some (2, 0x111)] := by
  decide +kernel

end Sys2Proof.Tests
end

section
/-! SUPPORT. Bit fields of written values and of stored registers. -/

namespace Sys2Proof.Proofs

open Sys2Proof Sys2Proof.Machine

/-! Bit fields: what a field of a written value, of a stored register and of a register with one field replaced is. -/

theorem testBit_bits (x lo n j : Nat) : (bits x lo n).testBit j = (decide (j < n) && x.testBit (lo + j)) := by
  simp [bits, Nat.testBit_mod_two_pow, Nat.testBit_shiftRight]

theorem bits_lt (x lo n : Nat) : bits x lo n < 2 ^ n := Nat.mod_lt _ (Nat.two_pow_pos n)

theorem bit_eq_testBit (x lo : Nat) : bit x lo = x.testBit lo := by
  rw [bit, bits, Nat.pow_one, Nat.testBit_eq_decide_div_mod_eq, Nat.shiftRight_eq_div_pow]
  rfl

theorem testBit_setBits (x lo n v i : Nat) :
    (setBits x lo n v).testBit i = if i < lo then x.testBit i else if i < lo + n then v.testBit (i - lo) else x.testBit i := by
  have hx : x % 2 ^ lo < 2 ^ lo := Nat.mod_lt _ (Nat.two_pow_pos lo)
  have hv : v % 2 ^ n < 2 ^ n := Nat.mod_lt _ (Nat.two_pow_pos n)
  have he : setBits x lo n v = 2 ^ lo * (2 ^ n * (x >>> (lo + n)) + v % 2 ^ n) + x % 2 ^ lo := by
    rw [setBits, Nat.pow_add, Nat.mul_add]; ac_rfl
  rw [he, Nat.testBit_two_pow_mul_add _ hx, Nat.testBit_two_pow_mul_add _ hv, Nat.testBit_mod_two_pow,
    Nat.testBit_mod_two_pow, Nat.testBit_shiftRight]
  by_cases h1 : i < lo
  · simp [h1]
  · by_cases h2 : i < lo + n
    · have h3 : i - lo < n := by omega
      simp [h1, h2, h3]
    · have h3 : ¬ i - lo < n := by omega
      have h4 : lo + n + (i - lo - n) = i := by omega
      simp [h1, h2, h3, h4]

theorem BF_ofNat {w v lo n : Nat} (h : lo + n ≤ w) : BF (BitVec.ofNat w v) lo n = bits v lo n := by
  refine Nat.eq_of_testBit_eq fun j => ?_
  rw [BF, testBit_bits, testBit_bits, BitVec.toNat_ofNat, Nat.testBit_mod_two_pow]
  by_cases hj : j < n
  · have : lo + j < w := by omega
    simp [hj, this]
  · simp [hj]

theorem BB_ofNat {w v lo : Nat} (h : lo < w) : BB (BitVec.ofNat w v) lo = bit v lo := by
  have := BF_ofNat (v := v) (show lo + 1 ≤ w from h)
  unfold BF at this
  rw [BB, bit, bit, this]

theorem BB_eq_getLsbD {w : Nat} (x : BitVec w) (lo : Nat) : BB x lo = x.getLsbD lo := bit_eq_testBit _ _

theorem bit_iff (x lo : Nat) : bit x lo = true ↔ bits x lo 1 = 1 := beq_iff_eq

theorem BF_WS_same (x : Word) {lo n : Nat} (v : Nat) (h : lo + n ≤ 64) : BF (WS x lo n v) lo n = v % 2 ^ n := by
  rw [WS, BF_ofNat h]
  refine Nat.eq_of_testBit_eq fun j => ?_
  rw [testBit_bits, testBit_setBits, Nat.testBit_mod_two_pow]
  by_cases hj : j < n
  · have h1 : ¬ lo + j < lo := by omega
    simp [hj, h1]
  · simp [hj]

theorem BF_WS_other (x : Word) {lo n lo' n' : Nat} (v : Nat) (h : lo' + n' ≤ 64) (hd : lo' + n' ≤ lo ∨ lo + n ≤ lo') :
    BF (WS x lo n v) lo' n' = BF x lo' n' := by
  rw [WS, BF_ofNat h, BF]
  refine Nat.eq_of_testBit_eq fun j => ?_
  rw [testBit_bits, testBit_bits, testBit_setBits]
  by_cases hj : j < n'
  · have : lo' + j < lo ∨ lo + n ≤ lo' + j := by omega
    rcases this with h1 | h1
    · simp [h1]
    · have h2 : ¬ lo' + j < lo := by omega
      have h3 : ¬ lo' + j < lo + n := by omega
      simp [h2, h3]
  · simp [hj]

end Sys2Proof.Proofs
end

section
/-! SUPPORT. Vector configuration, loops and hints at issue (R283 to R289), and O36. -/

namespace Sys2Proof.Proofs

open Sys2Proof Sys2Proof.Machine

/-! Facts about the current hart and its queue. -/

theorem get_ok (s : State) : (get : M State) s = .ok s s := rfl

theorem owed_placed (h : Hart) (now end_ : Nat) (e : Entry) (he : e.sub ≠ 0) (n : Nat) :
    (h.placed now end_ e).owed n = h.owed n := by
  have hne : (e.sub == 0) = false := by simpa using he
  unfold Hart.owed Hart.ahead Hart.placed
  cases h.rows with
  | nil => simp [hne]
  | cons r rs =>
    have hq : (if r.qdone = end_ then { r with readySince := now } else r).qdone = r.qdone := by split <;> rfl
    simp only [List.map_cons, hq, List.drop_append, List.any_append]
    cases (r.qdone - h.qbase - h.queue.length) <;> simp [hne]

theorem owed_of_no_queue {h : Hart} (hq : h.queue = []) (n : Nat) : h.owed n = false := by
  unfold Hart.owed Hart.ahead
  cases h.rows <;> simp [hq]

theorem curHart_placed {s : State} {h : Hart} (hc : s.curHart = some h) (e : Entry) :
    (s.placed h e).curHart = some (h.placed s.dev.devtime.toNat (h.qbase + h.queue.length) e) :=
  State.curHart_modHart hc _ (fun _ => rfl)

/-- A capture of no scalar operand waits for nothing. -/
theorem capture_none {s : State} {h : Hart} {i : Instr} (hc : s.curHart = some h) (hi : captures i = (none, none, none, none)) :
    capture i none none none none s = .ok (h.captured i) s := by
  have hf : h.capturable i = true := by simp [Hart.capturable, Hart.freeOpt, hi]
  have := capture_ok hc hf
  rwa [hi] at this

/-- The hart changes, then takes a result and goes on. -/
theorem result_modHart (s : State) (f : Hart → Hart) (hf : ∀ k, (f k).id = k.id) (d : Nat) (v : Word) (p : Bool) :
    (s.modHart s.cur f).result d v p = s.modHart s.cur (fun k => ((f k).wr d v p).advance) :=
  State.modHart_modHart _ _ _ _ hf

theorem modHart_placed (s : State) (h : Hart) (e : Entry) (f : Hart → Hart) :
    (s.placed h e).modHart s.cur f
      = s.modHart s.cur (fun k => f (k.placed s.dev.devtime.toNat (h.qbase + h.queue.length) e)) :=
  State.modHart_modHart _ _ _ _ (fun _ => rfl)

/-! VSETL (R283). -/

/-- What the issue of a VSETL sets in its hart besides placing its entry. -/
def configured (v vlmax n : Nat) (k : Hart) : Hart :=
  { k with vtype := BitVec.ofNat 6 v, vlmax := BitVec.ofNat 11 vlmax, vlSet := BitVec.ofNat 11 (min vlmax n), loopSince := false }

theorem owed_configured (v vlmax n : Nat) (k : Hart) (d : Nat) : (configured v vlmax n k).owed d = k.owed d := rfl

/-- The configuration entry of a VSETL with a grant of n elements. -/
def vsetlEntry (h : Hart) (d a v vlmax n : Nat) : Entry := { op := h.captured (.vsetl d a v), sub := 3, n := n, vlmax := vlmax }

theorem vsetlM_ok {s : State} {h : Hart} {d a v vlmax n : Nat} (hc : s.curHart = some h) (hl : h.queue.length < 64)
    (hv : v % 8 < 4) (hm : v / 8 < 4) (hd : h.owed d = false) (ha : h.usable a = true)
    (hvl : vlmax = effVlmax (v % 8) (v / 8) s.lanes) (hn : n = min (h.rd a).toNat (h.tl * vlmax)) :
    vsetlM d a v s = .ok () (s.modHart s.cur (fun k =>
      ((configured v vlmax n (k.placed s.dev.devtime.toNat (h.qbase + h.queue.length) (vsetlEntry h d a v vlmax n))).wr d
        (BitVec.ofNat 64 n)).advance)) := by
  have hno : ¬(4 ≤ v % 8 ∨ 4 ≤ v / 8) := by omega
  have hcap : capture (.vsetl d a v) none none none none s = .ok (h.captured (.vsetl d a v)) s := capture_none hc rfl
  have hc1 := curHart_placed hc (vsetlEntry h d a v vlmax n)
  have hc2 := State.curHart_modHart hc1 (configured v vlmax n) (fun _ => rfl)
  have hd2 := (owed_configured v vlmax n _ d).trans ((owed_placed h s.dev.devtime.toNat (h.qbase + h.queue.length)
    (vsetlEntry h d a v vlmax n) (by simp [vsetlEntry]) d).trans hd)
  unfold vsetlM
  simp only [hno, if_false]
  rw [M.bind_ok (destFree_ok hc hd), M.bind_ok (useS_ok hc ha), M.bind_ok (theHart_ok hc), M.bind_ok (get_ok s)]
  simp only [← hvl, ← hn]
  rw [M.bind_ok hcap]
  refine (M.bind_ok (enqueue_ok hc hl (vsetlEntry h d a v vlmax n))).trans ?_
  refine (M.bind_ok (modH_ok (configured v vlmax n) _)).trans ?_
  refine (wrS_advance hc2 hd2 _ _).trans ?_
  refine congrArg _ ((result_modHart (s.placed h _) (configured v vlmax n) (fun _ => rfl) _ _ _).trans ?_)
  exact modHart_placed s h _ _

/-! VSETTL (R284). -/

/-- Rows that hold a cluster. -/
def clustered (l : List Row) : Nat := (l.filter (fun r => r.cluster.isSome)).length

theorem clustered_cons (r : Row) (l : List Row) : clustered (r :: l) = b2n r.cluster.isSome + clustered l := by
  cases h : r.cluster.isSome <;> simp [clustered, b2n, h, Nat.add_comm]

theorem clustered_dropRows (target : Nat) (l : List Row) (k : Nat) (hk : k ≤ target) :
    clustered (dropRows target l k) = min (target - k) (clustered l) := by
  induction l generalizing k with
  | nil => simp [dropRows, clustered]
  | cons r l ih =>
    unfold dropRows
    by_cases hlt : k < target
    · have hb : b2n r.cluster.isSome ≤ 1 := by unfold b2n; split <;> omega
      rw [if_pos hlt, clustered_cons, clustered_cons, ih _ (by omega)]
      omega
    · rw [if_neg hlt, show target - k = 0 by omega]
      simp [clustered]

/-- A hart whose rows a change of its grant has made others. -/
def regranted (f : List Row → List Row) (k : Hart) : Hart := { k with rows := f k.rows }

/-- A hart with an empty queue whose rows change takes its new number of clusters as the result. -/
theorem regranted_ok {s : State} {h : Hart} (hc : s.curHart = some h) (hq : h.queue = []) (f : List Row → List Row) (d : Nat) :
    (modH (regranted f) >>= fun _ => theHart >>= fun k => wrS d (BitVec.ofNat 64 k.tl) >>= fun _ => advance) s
    = .ok () (s.modHart s.cur (fun k => ((regranted f k).wr d (BitVec.ofNat 64 (clustered (f h.rows)))).advance)) := by
  have hc1 := State.curHart_modHart hc (regranted f) (fun _ => rfl)
  have hd1 : (regranted f h).owed d = false := owed_of_no_queue (h := regranted f h) hq d
  refine (M.bind_ok (modH_ok _ s)).trans ((M.bind_ok (theHart_ok hc1)).trans ((wrS_advance hc1 hd1 _ _).trans ?_))
  exact congrArg _ (result_modHart s (regranted f) (fun _ => rfl) d _ false)

theorem vsettlM_ok {s : State} {h : Hart} {g : Gang} {d a target : Nat} {fresh : List Row} (hc : s.curHart = some h)
    (hg : s.gang? h.gang = some g) (hca : h.carry = false) (ha : h.usable a = true) (hq : h.queue = [])
    (ht : target = min (min (max (if (h.rd a).toNat = 0 then g.tlmax else (h.rd a).toNat) g.tlmin) g.tlmax) (saveRows (s.fn h.fn).savecfg))
    (hf : fresh = (((s.growGrant g.cls false (target - (h.rows.length - (h.rows.filterMap Row.cluster).length)) s.occ
        { core := h.core, slot := h.slot, clusters := h.rows.filterMap Row.cluster }).1).clusters.drop
          (h.rows.filterMap Row.cluster).length).map (fun c =>
        { Row.fresh (some c) h.qbase 0xFFFF_FFFF s.dev.devtime.toNat with joined := false })) :
    let f (old : List Row) : List Row := if target < h.tl then dropRows (max 1 target) old 0 else old ++ fresh
    vsettlM d a s = .ok () (s.modHart s.cur (fun k =>
      ((regranted f k).wr d (BitVec.ofNat 64 (clustered (f h.rows)))).advance)) := by
  intro f
  unfold vsettlM
  rw [M.bind_ok (theHart_ok hc)]
  simp only [hca, Bool.false_eq_true, if_false]
  rw [M.bind_ok (destFree_ok hc (owed_of_no_queue hq d)), M.bind_ok (useS_ok hc ha)]
  simp only [hq, List.isEmpty_nil]
  rw [M.bind_ok (waitUnless_true s), M.bind_ok (get_ok s)]
  simp only [hg, ← ht]
  by_cases hlt : target < h.tl
  · simp only [f, hlt, if_true]
    exact regranted_ok hc hq (fun old => dropRows (max 1 target) old 0) d
  · simp only [f, hlt, if_false, ← hf]
    exact regranted_ok hc hq (fun old => old ++ fresh) d

/-! VDEAD, VLOOP, ICPF, CWAIT (R286 to R289). -/

theorem usable_owed {h : Hart} {n : Nat} (hn : h.usable n = true) : h.owed n = false := by
  simp only [Hart.usable, Bool.and_eq_true, Bool.not_eq_true'] at hn
  exact hn.1

theorem usable_rdP {h : Hart} {n : Nat} (hn : h.usable n = true) : h.rdP n = false := by
  simp only [Hart.usable, Bool.and_eq_true, Bool.not_eq_true'] at hn
  exact hn.2

theorem vdeadM_ok {s : State} {h : Hart} {a : Nat} (hc : s.curHart = some h) (hl : h.queue.length < 64) (ha : h.usable a = true) :
    (useS a >>= fun _ => enqueueI (.vdead a)) s = .ok () (s.queued h { op := h.captured (.vdead a) }) := by
  have hcap : h.capturable (.vdead a) = true := by
    change (!h.owed a && true && true && true) = true
    simp [usable_owed ha]
  exact (M.bind_ok (useS_ok hc ha)).trans (enqueueI_ok hc hcap hl)

/-- What the issue of a VLOOP with a body of n words sets in its hart besides placing its entry. -/
def looped (n : Nat) (k : Hart) : Hart := { k with loopSince := true, pc := k.pc + 4 * (BitVec.ofNat 64 n + 2) }

theorem vloopM_ok {s : State} {h : Hart} {a : Nat} {words : List (Nat × Instr)} {body : List Op} (hc : s.curHart = some h)
    (hl : h.queue.length < 64) (hca : h.carry = false) (ha : h.usable a = true) (hx : (h.rd a).toNat < 2 ^ 40)
    (hw : readBody (iWord 0x11 0 a 0) (h.pc + 4).toNat 256 [] s = .ok words s) (hb : words.mapM captureWord s = .ok body s) :
    vloopM a s = .ok () (s.modHart s.cur (fun k => looped body.length
      (k.placed s.dev.devtime.toNat (h.qbase + h.queue.length) { op := h.captured (.vloop a), n := (h.rd a).toNat, body := body }))) := by
  have hcap : capture (.vloop a) none none none none s = .ok (h.captured (.vloop a)) s := capture_none hc rfl
  have hx' : ¬2 ^ 40 ≤ (h.rd a).toNat := by omega
  unfold vloopM
  rw [M.bind_ok (theHart_ok hc)]
  simp only [hca, Bool.false_eq_true, if_false]
  rw [M.bind_ok hw, M.bind_ok (rdS_ok hc (usable_owed ha))]
  simp only [hx', if_false, usable_rdP ha]
  refine (M.bind_ok (show consume false s = .ok () s from rfl)).trans ?_
  rw [M.bind_ok hb, M.bind_ok hcap]
  refine (M.bind_ok (enqueue_ok hc hl _)).trans ((modH_ok (looped body.length) _).trans ?_)
  exact congrArg _ (modHart_placed s h _ _)

theorem bit_eq_decide (x k : Nat) : bit x k = decide (x / 2 ^ k % 2 = 1) := by
  rw [bit, bits, Nat.shiftRight_eq_div_pow, Nat.pow_one]
  rfl

theorem cwait_ready_iff (h : Hart) (i : Nat) :
    (List.range 8).all (fun k => !bit i k || ((h.tokens[k]?).bind Token.job).isNone) = true
      ↔ ∀ k, k < 8 → i / 2 ^ k % 2 = 1 → (h.tokens[k]?).bind Token.job = none := by
  simp only [List.all_eq_true, List.mem_range, Bool.or_eq_true, Bool.not_eq_true', bit_eq_decide, decide_eq_false_iff_not,
    Option.isNone_iff_eq_none]
  exact forall₂_congr fun k _ => Decidable.imp_iff_not_or.symm

theorem execCwait_eq {s : State} {h : Hart} (hc : s.curHart = some h) (i : Nat) :
    execCwait i s = .next (if ∀ k, k < 8 → i / 2 ^ k % 2 = 1 → (h.tokens[k]?).bind Token.job = none then s.skip else s) := by
  unfold execCwait
  by_cases hr : ∀ k, k < 8 → i / 2 ^ k % 2 = 1 → (h.tokens[k]?).bind Token.job = none
  · rw [if_pos hr]
    refine finish_ok ((M.bind_ok (theHart_ok hc)).trans ?_)
    rw [(cwait_ready_iff h i).mpr hr]
    exact (M.bind_ok (waitUnless_true s)).trans (advance_ok s)
  · rw [if_neg hr]
    refine finish_wait ((M.bind_ok (theHart_ok hc)).trans ?_)
    rw [(Bool.not_eq_true _).mp (fun hh => hr ((cwait_ready_iff h i).mp hh))]
    exact M.bind_error (show waitUnless false s = .error .wait s from rfl)

theorem execIcpf_eq {s : State} {h : Hart} {a : Nat} (hc : s.curHart = some h) (ha : h.owed a = false) (i : Nat) :
    execIcpf a i s = .next (if h.rdP a = false ∧ (h.rd a + imm16 i).toNat < 2 ^ 57 ∧ s.iline h (h.rd a + imm16 i).toNat = none
      then (s.icacheHint h (h.rd a + imm16 i).toNat).skip else s.skip) := by
  have hcond : (!h.rdP a && (h.rd a + imm16 i).toNat >>> 57 == 0 && (s.iline h (h.rd a + imm16 i).toNat).isNone) = true
      ↔ h.rdP a = false ∧ (h.rd a + imm16 i).toNat < 2 ^ 57 ∧ s.iline h (h.rd a + imm16 i).toNat = none := by
    simp only [Bool.and_eq_true, Bool.not_eq_true', beq_iff_eq, Option.isNone_iff_eq_none, Nat.shiftRight_eq_div_pow,
      Nat.div_eq_zero_iff_lt (Nat.two_pow_pos 57), and_assoc]
  unfold execIcpf
  refine finish_ok ((M.bind_ok (rdS_ok hc ha)).trans ((M.bind_ok (theHart_ok hc)).trans ((M.bind_ok (get_ok s)).trans ?_)))
  by_cases h1 : h.rdP a = false ∧ (h.rd a + imm16 i).toNat < 2 ^ 57 ∧ s.iline h (h.rd a + imm16 i).toNat = none
  · rw [if_pos h1]
    simp only [hcond.mpr h1, if_true]
    rfl
  · rw [if_neg h1]
    simp only [mt hcond.mp h1]
    rfl

/-- Settles O36: each instruction's meaning, run on a hart whose operands are free, is the state written out. -/
theorem vectorControl : Obligations.VectorControl := by
  unfold Obligations.VectorControl
  intro s h d a v i hc hl
  refine ⟨?vsetl, ?vsetlForm, ?vsettl, ?vsetmt, ?vdead, ?vloop, ?vnext, ?icpf, ?cwait⟩
  case vsetl =>
    intro hv hm hd ha
    exact finish_ok (vsetlM_ok hc hl hv hm hd ha rfl rfl)
  case vsetlForm =>
    intro hv
    refine finish_trapTo (x := vsetlM d a v) ?_
    unfold vsetlM
    simp only [hv, if_true]
    rfl
  case vsettl =>
    intro g hg hca hd ha hq
    refine ⟨finish_ok (vsettlM_ok hc hg hca ha hq rfl rfl), fun hlt => ?_⟩
    simp only [hlt, if_true]
    refine (clustered_dropRows _ h.rows 0 (Nat.zero_le _)).trans ?_
    change min _ h.tl = _
    omega
  case vsetmt => exact finish_ok (congrArg (EStateM.Result.ok ()) (State.modHart_modHart s s.cur
    (fun k => { k with vmt := BitVec.ofNat 2 i }) Hart.advance (fun _ => rfl)))
  case vdead => exact fun ha => finish_ok (vdeadM_ok hc hl ha)
  case vloop => exact fun words body hca ha hx hw hb => finish_ok (vloopM_ok hc hl hca ha hx hw hb)
  case vnext => exact finish_trapTo rfl
  case icpf => exact fun ha => execIcpf_eq hc ha i
  case cwait => exact execCwait_eq hc i

end Sys2Proof.Proofs
end

section
/-! SUPPORT. What a write of each register of BAR0 stores (R10 to R384, as Bar.lean and RegEvents.lean name them). -/

namespace Sys2Proof.Proofs

open Sys2Proof Sys2Proof.Machine

/-! Registers of BAR0: what a write of each stores. -/

theorem pfEvent_eq {s : State} (hp : s.powered = true) (off v : Nat) :
    s.pfEvent off v = .next (s.pfWrite off (BitVec.ofNat 64 v)) := by
  rw [State.pfEvent, State.whenOn, if_pos hp]

theorem fnEvent_eq {s : State} (hp : s.powered = true) {fn : Nat} (hf : fn < 65) (off v : Nat) :
    s.fnEvent fn off v = .next (s.fnWrite fn off (BitVec.ofNat 64 v)) := by
  rw [State.fnEvent, State.whenOn, if_pos hp, if_pos hf]

theorem w1c_ofNat (old : Word) (v : Nat) {lo n : Nat} (h : lo + n ≤ 64) :
    w1c old (BitVec.ofNat 64 v) lo n = if bits v lo n = 0 then old else WS old lo n 0 := by
  rw [w1c, BF_ofNat h]

theorem BF_w1c_same (old : Word) (v : Nat) {lo n : Nat} (h : lo + n ≤ 64) :
    BF (w1c old (BitVec.ofNat 64 v) lo n) lo n = if bits v lo n = 0 then BF old lo n else 0 := by
  rw [w1c_ofNat old v h]
  split
  · rfl
  · rw [BF_WS_same old 0 h, Nat.zero_mod]

theorem BF_w1c_other (old v : Word) {lo n lo' n' : Nat} (h : lo' + n' ≤ 64) (hd : lo' + n' ≤ lo ∨ lo + n ≤ lo') :
    BF (w1c old v lo n) lo' n' = BF old lo' n' := by
  unfold w1c
  split
  · rfl
  · exact BF_WS_other old 0 h hd

/-- A field that is 0 takes the bits put there. -/
theorem setBits_of_bits_zero {x lo n : Nat} (hx : bits x lo n = 0) (v : Nat) : setBits x lo n v = x + v % 2 ^ n * 2 ^ lo := by
  have h1 : x = 2 ^ lo * (x >>> lo) + x % 2 ^ lo := by
    rw [Nat.shiftRight_eq_div_pow]; exact (Nat.div_add_mod _ _).symm
  have h2 : x >>> lo = 2 ^ n * (x >>> (lo + n)) := by
    have h3 := Nat.div_add_mod (x >>> lo) (2 ^ n)
    rw [← Nat.shiftRight_eq_div_pow, ← Nat.shiftRight_add] at h3
    unfold bits at hx
    omega
  rw [setBits]
  conv => rhs; rw [h1, h2]
  rw [Nat.pow_add]
  ac_rfl

theorem WS_of_bits_zero {x lo n v : Nat} (hx : bits x lo n = 0) (hl : x < 2 ^ 64) (hv : v < 2 ^ n) :
    WS (BitVec.ofNat 64 x) lo n v = BitVec.ofNat 64 (x + v * 2 ^ lo) := by
  rw [WS, BitVec.toNat_ofNat, Nat.mod_eq_of_lt hl, setBits_of_bits_zero hx, Nat.mod_eq_of_lt hv]

/-- One more field of a write to a register that starts at 0. -/
theorem wFields_snoc {v x lo n : Nat} {fs : List (Nat × Nat)} (hfs : wFields 0 (BitVec.ofNat 64 v) fs = BitVec.ofNat 64 x)
    (hx : bits x lo n = 0) (hl : x < 2 ^ 64) (h : lo + n ≤ 64) :
    wFields 0 (BitVec.ofNat 64 v) (fs ++ [(lo, n)]) = BitVec.ofNat 64 (x + bits v lo n * 2 ^ lo) := by
  rw [wFields, List.foldl_append]
  change WS (wFields 0 (BitVec.ofNat 64 v) fs) lo n (BF (BitVec.ofNat 64 v) lo n) = _
  rw [hfs, BF_ofNat h, WS_of_bits_zero hx hl (bits_lt v lo n)]

theorem wFields_one (v : Nat) {lo n : Nat} (h : lo + n ≤ 64) :
    wFields 0 (BitVec.ofNat 64 v) [(lo, n)] = BitVec.ofNat 64 (bits v lo n * 2 ^ lo) :=
  (wFields_snoc (fs := []) (x := 0) rfl (by simp [bits]) (by decide) h).trans (by rw [Nat.zero_add])

/-- PTROOT as a write stores it. -/
theorem wFields_ptroot (v : Nat) :
    wFields 0 (BitVec.ofNat 64 v) [(21, 26), (0, 1)] = BitVec.ofNat 64 (bits v 21 26 * 2 ^ 21 + bits v 0 1) := by
  have hb := bits_lt v 21 26
  refine (wFields_snoc (wFields_one v (lo := 21) (n := 26) (by decide)) ?_ (by omega) (by decide)).trans (by rw [Nat.pow_zero, Nat.mul_one])
  rw [bits, Nat.shiftRight_zero]; omega

/-- TRAPENTRY of a virtual function as a write stores it. -/
theorem wFields_trapentry (v : Nat) :
    wFields 0 (BitVec.ofNat 64 v) [(2, 55), (0, 1)] = BitVec.ofNat 64 (bits v 2 55 * 2 ^ 2 + bits v 0 1) := by
  have hb := bits_lt v 2 55
  refine (wFields_snoc (wFields_one v (lo := 2) (n := 55) (by decide)) ?_ (by omega) (by decide)).trans (by rw [Nat.pow_zero, Nat.mul_one])
  rw [bits, Nat.shiftRight_zero]; omega

/-- TRAPENTRY of the physical function as a write stores it, with LLEV. -/
theorem wFields_trapentry_llev (v : Nat) :
    wFields 0 (BitVec.ofNat 64 v) [(2, 55), (1, 1), (0, 1)]
      = BitVec.ofNat 64 (bits v 2 55 * 2 ^ 2 + bits v 1 1 * 2 ^ 1 + bits v 0 1) := by
  have hb := bits_lt v 2 55
  have hb1 := bits_lt v 1 1
  have h2 := wFields_snoc (lo := 1) (n := 1) (wFields_one v (lo := 2) (n := 55) (by decide))
    (by rw [bits, Nat.shiftRight_eq_div_pow]; omega) (by omega) (by decide)
  refine (wFields_snoc (lo := 0) (n := 1) h2 ?_ (by omega) (by decide)).trans (by rw [Nat.pow_zero, Nat.mul_one])
  rw [bits, Nat.shiftRight_zero]; omega

theorem gadm_eq_zero_iff (s : State) : s.gadm = 0 ↔ ¬∃ g ∈ s.gangs, g.cls = 0 := by
  simp [State.gadm]

/-! The registers of the physical function alone, one equation each (R10, R13, R16, R21, R48, R100, R141, R195). -/

theorem pfWrite_pwrctl (s : State) (v : Nat) : s.pfWrite 0x0040 (BitVec.ofNat 64 v)
    = s.modDev (fun d => { d with pwrctl := BitVec.ofNat 64 (max 1800 (min 4500 (bits v 0 13))) }) := by
  simp [State.pfWrite, BF_ofNat]

theorem pfWrite_pwrstat (s : State) (v : Nat) : s.pfWrite 0x0048 (BitVec.ofNat 64 v)
    = s.modDev (fun d => { d with pwrstat := if bits v 16 16 = 0 then d.pwrstat else WS d.pwrstat 16 16 0 }) := by
  simp [State.pfWrite, w1c_ofNat]

theorem pfWrite_thermstat (s : State) (v : Nat) : s.pfWrite 0x0050 (BitVec.ofNat 64 v)
    = s.modDev (fun d => { d with thermstat :=
        (let x := if bits v 2 1 = 0 then d.thermstat else WS d.thermstat 2 1 0
         if bits v 1 1 = 0 then x else WS x 1 1 0) }) := by
  simp [State.pfWrite, w1c_ofNat]

theorem pfWrite_memerr (s : State) (v : Nat) : s.pfWrite 0x0030 (BitVec.ofNat 64 v)
    = s.modDev (fun d => { d with memerr := if bits v 0 32 = 0 then d.memerr else WS d.memerr 0 32 0 }) := by
  simp [State.pfWrite, w1c_ofNat]

theorem pfWrite_oscnt (s : State) (v : Nat) : s.pfWrite 0x0058 (BitVec.ofNat 64 v)
    = s.modDev (fun d => { d with oscnt :=
        (let x := if bits v 32 32 = 0 then d.oscnt else WS d.oscnt 32 32 0
         if bits v 0 32 = 0 then x else WS x 0 32 0) }) := by
  simp [State.pfWrite, w1c_ofNat]

theorem pfWrite_heatcfg (s : State) (v : Nat) : s.pfWrite 0x0070 (BitVec.ofNat 64 v)
    = s.modDev (fun d => { d with heatcfg :=
        (let n := max 4 (min 16 (bits v 16 5))
         BitVec.ofNat 64 (bits v 32 1 * 2 ^ 32 + n * 2 ^ 16 + bits v 0 16 % 2 ^ n)) }) := by
  simp [State.pfWrite, BF_ofNat]

theorem pfWrite_schedcfg (s : State) (v : Nat) : s.pfWrite 0x0020 (BitVec.ofNat 64 v)
    = s.modDev (fun d => { d with schedcfg :=
        (BitVec.ofNat 64 (max 1 (bits v 8 16) * 2 ^ 8
          + (if ∃ g ∈ s.gangs, g.cls = 0 then bits v 0 8 ||| BF d.schedcfg 0 8 else bits v 0 8))) }) := by
  simp only [State.pfWrite, BF_ofNat, gadm_eq_zero_iff, ite_not, Nat.reduceAdd, Nat.reduceLeDiff]

theorem pfWrite_schedstat (s : State) (v : Nat) : s.pfWrite 0x0028 (BitVec.ofNat 64 v)
    = s.modDev (fun d => { d with preempt := if bits v 48 16 = 0 then d.preempt else 0 }) := by
  simp [State.pfWrite, BF_ofNat]

theorem pfWrite_fabcfg (s : State) (v : Nat) : s.pfWrite 0x0200 (BitVec.ofNat 64 v)
    = s.modDev (fun d => { d with fabcfg := BitVec.ofNat 64 (max 1 (bits v 32 16) * 2 ^ 32 + bits v 16 10 * 2 ^ 16) }) := by
  simp [State.pfWrite, BF_ofNat]

theorem pfWrite_frametab (s : State) (v : Nat) : s.pfWrite 0x0068 (BitVec.ofNat 64 v)
    = s.modDev (fun d => { d with frametab := BitVec.ofNat 64 (bits v 21 26 * 2 ^ 21) }) := by
  simp only [State.pfWrite, wFields_one v (show 21 + 26 ≤ 64 by decide)]

/-- The registers that the physical function has one of for each port, function or virtual function. -/
theorem pfWrite_table (s : State) {off : Nat} (ho : 0x0280 ≤ off) (ha : off % 8 = 0) (v : Word) : s.pfWrite off v
    = if off < 0x0320 then s.modPort ((off - 0x0280) / 8) (fun o => w1c (w1c o v 32 16) v 16 16)
      else if 0x0400 ≤ off ∧ off < 0x0608 then
        s.modFn ((off - 0x0400) / 8) (fun g => { g with fabpart := BitVec.ofNat 64 (min 256 (BF v 16 9) * 2 ^ 16 + BF v 0 16) })
      else if 0x1000 ≤ off ∧ off < 0x1800 then s.vfcfgWrite ((off - 0x1000) / 32 + 1) (off / 8 % 4) v
      else if 0x2000 ≤ off ∧ off < 0x2820 then s.qosWrite ((off - 0x2000) / 32) (off / 8 % 4) v
      else if 0x4000 ≤ off ∧ off < 0x5040 then s.hrangeWrite ((off - 0x4000) / 64) ((off - 0x4000) / 16 % 4) (off / 8 % 2) v
      else s := by
  unfold State.pfWrite
  split
  case h_11 => simp only [ha, ne_eq, not_true_eq_false, if_false, ho, true_and]
  all_goals omega

theorem pfWrite_fabpstat (s : State) {p : Nat} (hp : p < 20) (v : Word) :
    s.pfWrite (0x0280 + 8 * p) v = s.modPort p (fun o => w1c (w1c o v 32 16) v 16 16) := by
  rw [pfWrite_table s (by omega) (by omega), if_pos (by omega)]
  congr 1; omega

theorem pfWrite_fabpart (s : State) {fn : Nat} (hf : fn < 65) (v : Nat) : s.pfWrite (0x0400 + 8 * fn) (BitVec.ofNat 64 v)
    = s.modFn fn (fun g => { g with fabpart := BitVec.ofNat 64 (min 256 (bits v 16 9) * 2 ^ 16 + bits v 0 16) }) := by
  rw [pfWrite_table s (by omega) (by omega), if_neg (by omega), if_pos (by omega), BF_ofNat (by decide), BF_ofNat (by decide)]
  congr 1; omega

theorem pfWrite_vfcfg (s : State) {vf word : Nat} (hf : vf < 64) (hw : word < 4) (v : Word) :
    s.pfWrite (0x1000 + 32 * vf + 8 * word) v = s.vfcfgWrite (vf + 1) word v := by
  rw [pfWrite_table s (by omega) (by omega), if_neg (by omega), if_neg (by omega), if_pos (by omega)]
  congr 1 <;> omega

theorem pfWrite_qosctx (s : State) {fn c : Nat} (hf : fn < 65) (hc : c < 4) (v : Word) :
    s.pfWrite (0x2000 + 32 * fn + 8 * c) v = s.qosWrite fn c v := by
  rw [pfWrite_table s (by omega) (by omega), if_neg (by omega), if_neg (by omega), if_neg (by omega), if_pos (by omega)]
  congr 1 <;> omega

theorem pfWrite_hrange (s : State) {fn i word : Nat} (hf : fn < 65) (hi : i < 4) (hw : word < 2) (v : Word) :
    s.pfWrite (0x4000 + 64 * fn + 16 * i + 8 * word) v = s.hrangeWrite fn i word v := by
  rw [pfWrite_table s (by omega) (by omega), if_neg (by omega), if_neg (by omega), if_neg (by omega), if_neg (by omega),
    if_pos (by omega)]
  congr 1 <;> omega

/-! Changes of a function's registers. -/

theorem fn_modFn_same (s : State) {f : Nat} (hf : f < 65) (g : FnRegs → FnRegs) : (s.modFn f g).fn f = g (s.fn f) := by
  simp [State.fn, State.modFn, hf]

theorem modFn_congr (s : State) (f : Nat) {g k : FnRegs → FnRegs} (h : g (s.fn f) = k (s.fn f)) : s.modFn f g = s.modFn f k := by
  rw [State.modFn, State.modFn, h]

theorem fqDrain_of_none {s : State} {fn : Nat} (h : (s.fn fn).fqWaiting = []) : s.fqDrain fn = s := by
  simp [State.fqDrain, h]

/-! The registers of a function's own BAR0, one equation each (R28, R36, R63, R67, R82, R87, R91, R121, R122, R215, R228, R384). -/

theorem fnWrite_surftab (s : State) (fn v : Nat) : s.fnWrite fn 0x0100 (BitVec.ofNat 64 v)
    = s.modFn fn (fun g => { g with surftab := BitVec.ofNat 64 (bits v 16 41 * 2 ^ 16 + min 1024 (bits v 0 11)) }) := by
  simp [State.fnWrite, BF_ofNat]

theorem fnWrite_surfflush (s : State) (fn v : Nat) : s.fnWrite fn 0x0108 (BitVec.ofNat 64 v)
    = s.modFn fn (fun g => { g with
        surfBusy := true, surfPending := g.surfPending ++ [if bits v 11 1 = 1 then 2048 else bits v 0 11] }) := by
  simp [State.fnWrite, BF_ofNat, BB_ofNat, bit_iff]

theorem fnWrite_launchstat (s : State) (fn v : Nat) : s.fnWrite fn 0x0148 (BitVec.ofNat 64 v)
    = s.modFn fn (fun g => { g with partial16 := if bits v 32 16 = 0 then g.partial16 else 0 }) := by
  simp [State.fnWrite, BF_ofNat]

theorem fnWrite_frstat (s : State) (fn v : Nat) : s.fnWrite fn 0x01B8 (BitVec.ofNat 64 v)
    = s.modFn fn (fun g => { g with frstat := if bits v 32 16 = 0 then g.frstat else WS g.frstat 32 16 0 }) := by
  simp [State.fnWrite, w1c_ofNat]

theorem fnWrite_xlinv (s : State) (fn v : Nat) : s.fnWrite fn 0x0188 (BitVec.ofNat 64 v)
    = s.modFn fn (fun g => if g.xlBusy then { g with xlWaiting := g.xlWaiting ++ [BitVec.ofNat 64 v] }
        else { g with xlBusy := true, xlVA := bits v 12 45, xlLog2n := bits v 0 6 }) := by
  simp [State.fnWrite, State.xlinvWrite, BF_ofNat]

theorem fnWrite_savecfg (s : State) (fn v : Nat) : s.fnWrite fn 0x0110 (BitVec.ofNat 64 v)
    = if ∃ x ∈ s.gangs, x.fn = fn then s
      else s.modFn fn (fun g => { g with savecfg :=
        (BitVec.ofNat 64 (bits v 21 36 * 2 ^ 21 + max 1 (min 64 (bits v 7 7)) * 2 ^ 7 + min 16 (bits v 0 5))) }) := by
  simp [State.fnWrite, BF_ofNat]

theorem fnWrite_kvpool (s : State) (fn v : Nat) : s.fnWrite fn 0x01A0 (BitVec.ofNat 64 v)
    = (let x := BitVec.ofNat 64 (bits v 21 36 * 2 ^ 21 + max 4 (min 24 (bits v 8 5)) * 2 ^ 8 + min 5 (bits v 1 3) * 2 + bits v 0 1)
       if BB (s.fn fn).kvpool 0 = false then s.modFn fn (fun g => { g with kvpool := x, kvBusy := decide (bits v 0 1 = 1) })
       else if bits v 0 1 = 0 ∧ (s.fn fn).kvAlloc = 0 then
         s.modFn fn (fun g => { g with kvpool := x, kvBusy := false, kvPark := none })
       else s) := by
  have hrs : (if 5 < bits v 1 3 then 5 else bits v 1 3) = min 5 (bits v 1 3) := by split <;> omega
  have hb : bit v 0 = decide (bits v 0 1 = 1) := by rw [Bool.eq_iff_iff, bit_iff, decide_eq_true_iff]
  have hz : bits v 0 1 = 0 ↔ ¬bits v 0 1 = 1 := by have := bits_lt v 0 1; omega
  simp only [State.fnWrite, State.kvpoolWrite, BF_ofNat, BB_ofNat, hrs, hb, Nat.reduceAdd, Nat.reduceLeDiff, Nat.reduceLT]
  cases BB (s.fn fn).kvpool 0 <;> simp [hz]

theorem fnWrite_kvmeta (s : State) (fn v : Nat) : s.fnWrite fn 0x01A8 (BitVec.ofNat 64 v)
    = if BB (s.fn fn).kvpool 0 then s
      else s.modFn fn (fun g => { g with kvmeta := BitVec.ofNat 64 (bits v 12 45 * 2 ^ 12 + max 10 (min 20 (bits v 0 5))) }) := by
  simp [State.fnWrite, BF_ofNat]

theorem fnWrite_fqptr {s : State} {fn : Nat} (hf : fn < 65) (hw : (s.fn fn).fqWaiting = []) (v : Nat) :
    s.fnWrite fn 0x0198 (BitVec.ofNat 64 v)
    = s.modFn fn (fun g => { g with fqHead := BitVec.ofNat 16 (bits v 0 16 % g.fqSize) }) := by
  simp only [State.fnWrite, BF_ofNat, Nat.reduceAdd, Nat.reduceLeDiff]
  exact fqDrain_of_none (by rw [fn_modFn_same s hf]; exact hw)

theorem fnWrite_fqcfg {s : State} {fn : Nat} (hf : fn < 65) (hw : (s.fn fn).fqWaiting = []) (v : Nat) :
    s.fnWrite fn 0x0190 (BitVec.ofNat 64 v)
    = (let n := min 9 (bits v 8 4)
       let bad := !s.ownsRange fn (bits v 12 35 * 4096) (4096 * 2 ^ n)
       s.modFn fn (fun g => { g with fqcfg := BitVec.ofNat 64 (bits v 12 35 * 2 ^ 12 + n * 2 ^ 8 + (if bad then 2 else bits v 0 1)) })) := by
  have hn : 128 * 2 ^ min 9 (bits v 8 4) * 32 = 4096 * 2 ^ min 9 (bits v 8 4) := by omega
  simp only [State.fnWrite, State.fqcfgWrite, BF_ofNat, Nat.reduceAdd, Nat.reduceLeDiff, hn]
  refine (fqDrain_of_none (by rw [fn_modFn_same s hf]; exact hw)).trans (modFn_congr s fn ?_)
  cases s.ownsRange fn (bits v 12 35 * 4096) (4096 * 2 ^ min 9 (bits v 8 4)) <;> simp [b2n]

theorem fnWrite_launchwin (s : State) (v : Nat) : s.fnWrite 0 0x0140 (BitVec.ofNat 64 v)
    = s.modDev (fun d => { d with launchwin := BitVec.ofNat 64 (bits v 10 37 * 1024) }) := by
  simp only [State.fnWrite, wFields_one v (show 10 + 37 ≤ 64 by decide), if_true, Nat.reducePow]

theorem fnWrite_ptroot (s : State) (fn v : Nat) : s.fnWrite fn 0x0180 (BitVec.ofNat 64 v)
    = s.modFn fn (fun g => { g with ptroot := BitVec.ofNat 64 (bits v 21 26 * 2 ^ 21 + bits v 0 1) }) := by
  simp only [State.fnWrite, wFields_ptroot]

theorem fnWrite_trapentry (s : State) (fn v : Nat) : s.fnWrite fn 0x0118 (BitVec.ofNat 64 v)
    = s.modFn fn (fun g => { g with trapentry :=
        (BitVec.ofNat 64 (bits v 2 55 * 4 + (if fn = 0 then bits v 1 1 * 2 else 0) + bits v 0 1)) }) := by
  by_cases h : fn = 0
  · simp only [State.fnWrite, h, if_true, wFields_trapentry_llev, Nat.reducePow]
  · simp only [State.fnWrite, h, if_false, wFields_trapentry, Nat.reducePow, Nat.add_zero]

/-! Writes by address (R63). -/

theorem barWrite_fn (s : State) (fn : Nat) {off : Nat} (h : 0x0100 ≤ off ∧ off < 0x0200) (v : Word) :
    s.barWrite fn off v = s.fnWrite fn off v := by
  unfold State.barWrite
  split
  · subst fn; rw [if_neg (by omega)]
  · rw [if_neg (by omega)]

theorem barWrite_pf (s : State) (fn : Nat) {off : Nat} (h : 0x0018 ≤ off ∧ off < 0x0100) (v : Word) :
    s.barWrite fn off v = if fn = 0 then s.pfWrite off v else s := by
  unfold State.barWrite
  rw [if_pos (Or.inl h), if_pos h.2]

theorem execRegisterWrite_eq {s : State} (hp : s.powered = true) {fn off : Nat} (hf : fn < 65) (ho : off < 0x1_0000) (ha : off % 8 = 0)
    (v : Nat) : execRegisterWrite fn off v s = .next (s.barWrite fn off (BitVec.ofNat 64 v)) := by
  rw [execRegisterWrite, State.whenOn, if_pos hp, if_pos ⟨hf, ho, ha⟩]

/-! VFCFG, QOSCTX, HRANGE (R64, R77, R85). -/

theorem vfcfgWrite_low (s : State) (f v : Nat) : s.vfcfgWrite f 0 (BitVec.ofNat 64 v)
    = s.modFn f (fun g => { g with vfcfg := BitVec.ofNat 256 (setBits (s.fn f).vfcfg.toNat 0 42 (bits v 0 42)) }) := by
  simp [State.vfcfgWrite, BF_ofNat]

theorem vfcfgWrite_size (s : State) (f v : Nat) : s.vfcfgWrite f 1 (BitVec.ofNat 64 v)
    = s.modFn f (fun g => { g with vfcfg :=
        (BitVec.ofNat 256 (setBits (setBits (s.fn f).vfcfg.toNat 64 32 (bits v 0 32)) 96 17 (min 65536 (bits v 32 17)))) }) := by
  simp [State.vfcfgWrite, BF_ofNat]

theorem vfcfgWrite_window (s : State) (f v : Nat) : s.vfcfgWrite f 2 (BitVec.ofNat 64 v)
    = s.modFn f (fun g => { g with vfcfg :=
        (BitVec.ofNat 256 (setBits (setBits (s.fn f).vfcfg.toNat 128 21 (min 1048576 (bits v 0 21))) 160 32 (bits v 32 32))) }) := by
  simp [State.vfcfgWrite, BF_ofNat]

theorem vfcfgWrite_control (s : State) (f v : Nat) : s.vfcfgWrite f 3 (BitVec.ofNat 64 v)
    = (let t := s.modFn f (fun g => { g with vfcfg :=
        (BitVec.ofNat 256 (setBits (setBits (setBits (s.fn f).vfcfg.toNat 192 5 (bits v 0 5)) 224 1 (bits v 32 1)) 227 1 (bits v 35 1))) })
       if bits v 33 1 = 1 then t.vfResetStart f else t) := by
  simp [State.vfcfgWrite, BF_ofNat, BB_ofNat, bit_iff]

theorem sumN_eq_sum (l : List Nat) : sumN l = l.sum := List.sum_eq_foldl.symm

theorem qosWrite_eq (s : State) (f c v : Nat) : s.qosWrite f c (BitVec.ofNat 64 v)
    = (let want := min 4096 (bits v 0 16)
       let old := BF (s.qosctx f c) 0 16
       let others := (((List.range 65).filter (fun x => x != f)).map (fun x => BF (s.qosctx x 0) 0 16)).sum
       let rate := if c ≠ 0 ∨ want ≤ old ∨ others + want ≤ 2048 then want else max old (2048 - others)
       s.modFn f (fun g => { g with qos :=
         (g.qos.setIfInBounds c (BitVec.ofNat 64 (bits v 32 1 * 2 ^ 32 + max 1 (bits v 16 16) * 2 ^ 16 + rate))) })) := by
  simp only [State.qosWrite, BF_ofNat, sumN_eq_sum, Nat.reduceAdd, Nat.reduceLeDiff]

/-- Range i of a function holds the number x. -/
def putRange (s : State) (f i x : Nat) : State :=
  s.modFn f (fun g => { g with hrange := g.hrange.setIfInBounds i (BitVec.ofNat 128 x) })

/-- Bytes of the far ranges of a function that are enabled (R85). -/
def farBytes (s : State) (f : Nat) : Nat :=
  ((s.fn f).hrange.toList.map (fun r => if BB r 0 && BF r 1 1 == 0 then (BF r 76 40 - BF r 12 40) * 4096 else 0)).sum

/-- Range i of a function takes the number x; a far range that would take the function past FARQ is stored disabled (R85). -/
def keepRange (s : State) (f i x : Nat) : State :=
  if f ≠ 0 ∧ bits x 0 2 = 1 ∧ BF (s.fn f).vfcfg 21 21 * 2 ^ 21 < farBytes (putRange s f i x) f then putRange s f i (x - 1)
  else putRange s f i x

theorem far_enabled_iff {x : Nat} : (BB (BitVec.ofNat 128 x) 0 = true ∧ BF (BitVec.ofNat 128 x) 1 1 = 0) ↔ bits x 0 2 = 1 := by
  rw [BB_ofNat (by decide), BF_ofNat (by decide), bit_iff]
  simp only [bits, Nat.shiftRight_eq_div_pow]
  omega

theorem ofNat_disabled {x : Nat} (h : bits x 0 2 = 1) :
    BitVec.ofNat 128 x &&& ~~~(1 : BitVec 128) = BitVec.ofNat 128 (x - 1) := by
  have hx : x % 2 = 1 := by simp only [bits, Nat.shiftRight_zero] at h; omega
  refine BitVec.eq_of_getLsbD_eq fun j hj => ?_
  rw [BitVec.getLsbD_and, BitVec.getLsbD_not, BitVec.getLsbD_ofNat, BitVec.getLsbD_ofNat,
    show (1 : BitVec 128).getLsbD j = (decide (0 < 128) && decide (j = 0)) from BitVec.getLsbD_one]
  cases j with
  | zero =>
    have h1 : (x - 1) % 2 = 0 := by omega
    simp [h1]
  | succ j =>
    have h1 : (x - 1) / 2 = x / 2 := by omega
    simp [Nat.testBit_succ, h1, hj]

theorem hrangeWrite_eq (s : State) (f i w x : Nat) (v : Word)
    (hx : (if w = 0 then BitVec.ofNat 128 (BF (((s.fn f).hrange[i]?).getD 0) 64 64 * 2 ^ 64 + BF v 12 40 * 2 ^ 12 + BF v 0 2)
      else BitVec.ofNat 128 (BF v 12 40 * 2 ^ 76 + BF (((s.fn f).hrange[i]?).getD 0) 0 64)) = BitVec.ofNat 128 x) :
    s.hrangeWrite f i w v = keepRange s f i x := by
  unfold State.hrangeWrite keepRange
  simp only [hx, sumN_eq_sum, ← far_enabled_iff (x := x), and_assoc]
  by_cases hc : f ≠ 0 ∧ BB (BitVec.ofNat 128 x) 0 = true ∧ BF (BitVec.ofNat 128 x) 1 1 = 0
      ∧ BF (s.fn f).vfcfg 21 21 * 2 ^ 21 < farBytes (putRange s f i x) f
  · rw [if_pos hc]
    refine (if_pos hc).trans ?_
    exact congrArg (fun y => s.modFn f (fun g => { g with hrange := g.hrange.setIfInBounds i y }))
      (ofNat_disabled (far_enabled_iff.mp ⟨hc.2.1, hc.2.2.1⟩))
  · rw [if_neg hc]
    exact if_neg hc

theorem hrangeWrite_base (s : State) (f i v : Nat) : s.hrangeWrite f i 0 (BitVec.ofNat 64 v)
    = keepRange s f i ((((s.fn f).hrange[i]?).getD 0).toNat / 2 ^ 64 * 2 ^ 64 + bits v 12 40 * 2 ^ 12 + bits v 0 2) := by
  refine hrangeWrite_eq s f i 0 _ _ ?_
  have hh : BF (((s.fn f).hrange[i]?).getD 0) 64 64 = (((s.fn f).hrange[i]?).getD 0).toNat / 2 ^ 64 := by
    rw [BF, bits, Nat.shiftRight_eq_div_pow]
    have := (((s.fn f).hrange[i]?).getD 0).isLt
    exact Nat.mod_eq_of_lt (by omega)
  rw [if_pos rfl, hh, BF_ofNat (by decide), BF_ofNat (by decide)]

theorem hrangeWrite_limit (s : State) (f i v : Nat) : s.hrangeWrite f i 1 (BitVec.ofNat 64 v)
    = keepRange s f i (bits v 12 40 * 2 ^ 76 + (((s.fn f).hrange[i]?).getD 0).toNat % 2 ^ 64) := by
  refine hrangeWrite_eq s f i 1 _ _ ?_
  have hl : BF (((s.fn f).hrange[i]?).getD 0) 0 64 = (((s.fn f).hrange[i]?).getD 0).toNat % 2 ^ 64 := by
    rw [BF, bits, Nat.shiftRight_zero]
  rw [if_neg (by decide), hl, BF_ofNat (by decide)]

end Sys2Proof.Proofs
end

section
/-! SUPPORT. Interrupts, writes that commit within one line, and what registers start: fault records, flushes, invalidations, unmasking, gang resets. -/

namespace Sys2Proof.Proofs

open Sys2Proof Sys2Proof.Machine

/-! Interrupts (R71, R75). -/

/-- A function under reset sends no message and notes none. -/
theorem msix_of_resetting {s : State} {fn : Nat} (h : fn ∈ s.vfResetting) (v : Nat) : s.msix fn v = s := by
  rw [State.msix, if_pos (List.contains_iff_mem.mpr h)]

theorem msix_of_unmasked {s : State} {fn v : Nat} (h : fn ∉ s.vfResetting) (hm : BB (s.fn fn).msixMask v = false) :
    s.msix fn v = s.send (.msix fn v) := by
  rw [State.msix, if_neg (mt List.contains_iff_mem.mp h), hm]
  rfl

theorem msix_outbox {s : State} {fn v : Nat} (hm : BB (s.fn fn).msixMask v = false) :
    (s.msix fn v).outbox = if fn ∈ s.vfResetting then s.outbox else s.outbox ++ [.msix fn v] := by
  by_cases h : fn ∈ s.vfResetting
  · rw [msix_of_resetting h, if_pos h]
  · rw [msix_of_unmasked h hm, if_neg h]; rfl

@[simp] theorem msix_mem (s : State) (fn v : Nat) : (s.msix fn v).mem = s.mem := by
  unfold State.msix; split
  · rfl
  · split <;> rfl

/-- A message leaves of every function all but what is pending. -/
theorem msix_fn (s : State) {fn : Nat} (hf : fn < 65) (v : Nat) :
    ∃ p, (s.msix fn v).fn fn = { s.fn fn with msixPend := p } := by
  unfold State.msix; split
  · exact ⟨_, rfl⟩
  · split
    · exact ⟨_, fn_modFn_same s hf _⟩
    · exact ⟨_, rfl⟩

/-! Writes that commit within one line (R27). -/

theorem linePieces_in_line {α : Type} {a : Nat} {l : List α} (hl : l ≠ []) (ha : a % 64 + l.length ≤ 64) : linePieces a l = [(a, l)] := by
  have hn : l.length ≤ 64 - a % 64 := by omega
  have he : l.isEmpty = false := List.isEmpty_eq_false_iff.mpr hl
  rw [linePieces, cutLines, he, if_neg (by decide)]
  simp only [List.take_of_length_le hn, List.drop_of_length_le hn, cutLines, List.isEmpty_nil, if_true]

/-- A touch of a line changes the LLC and what places lines in it. -/
theorem llcTouch_frame (s : State) (line secs : Nat) :
    ∃ llc plru fill ro, s.llcTouch line secs = { s with llc := llc, plru := plru, fill := fill, roCache := ro } := by
  unfold State.llcTouch
  cases s.llc.find? (fun l => l.line == line) with
  | none => exact ⟨_, _, _, _, rfl⟩
  | some l => exact ⟨_, _, _, _, rfl⟩

/-- A request that commits at a line changes memory, poison, the LLC, and the pushes of its subscriptions; in a retired row nothing (R27, R40). -/
theorem commitLine_frame (alloc : Bool) (s : State) (line : Nat) (runs : List (Nat × List (Byte × Bool))) :
    ∃ llc plru fill ro poison subs pushes, s.commitLine alloc line runs = { s with
      llc := llc, plru := plru, fill := fill, roCache := ro, poison := poison, subs := subs, pushes := pushes
      mem := if s.retiredLine line then s.mem else
        runs.foldl (fun (m : Memory) (x : Nat × List (Byte × Bool)) => m.write x.1 (x.2.map Prod.fst)) s.mem } := by
  have ht : ∃ llc plru fill ro, (if alloc || s.llc.any (fun l => l.line == line) then s.llcTouch line
      (runs.foldl (fun (g : Nat) (x : Nat × List (Byte × Bool)) => g ||| granules x.1 x.2.length) 0) else s)
      = { s with llc := llc, plru := plru, fill := fill, roCache := ro } := by
    split
    · exact llcTouch_frame s line _
    · exact ⟨s.llc, s.plru, s.fill, s.roCache, rfl⟩
  obtain ⟨llc, plru, fill, ro, ht⟩ := ht
  unfold State.commitLine
  by_cases hr : s.retiredLine line = true
  · rw [if_pos hr, if_pos hr]
    exact ⟨s.llc, s.plru, s.fill, s.roCache, s.poison, s.subs, s.pushes, rfl⟩
  · rw [if_neg hr, if_neg hr]
    simp only [ht]
    exact ⟨_, _, _, _, _, _, _, rfl⟩

/-- A write within one line, as one request (R27, R40). -/
theorem commitWrite_in_line (s : State) {a : Nat} {bs : List Byte} {ps : List Bool} (hb : bs ≠ []) (hp : ps.length = bs.length)
    (ha : a % 64 + bs.length ≤ 64) :
    ∃ llc plru fill ro poison subs pushes, s.commitWrite a bs ps = { s with
      llc := llc, plru := plru, fill := fill, roCache := ro, poison := poison, subs := subs, pushes := pushes
      mem := if s.retiredLine (a / 64) then s.mem else s.mem.write a bs } := by
  have hz : (bs.zip ps).length = bs.length := by rw [List.length_zip, hp, Nat.min_self]
  have hne : bs.zip ps ≠ [] := fun h => hb (List.length_eq_zero_iff.mp (by rw [← hz, h]; rfl))
  have hm : (bs.zip ps).map Prod.fst = bs := List.map_fst_zip (by omega)
  rw [State.commitWrite, linePieces_in_line hne (by omega)]
  obtain ⟨llc, plru, fill, ro, poison, subs, pushes, h⟩ := commitLine_frame true s (a / 64) [(a, bs.zip ps)]
  refine ⟨llc, plru, fill, ro, poison, subs, pushes, h.trans ?_⟩
  simp only [List.foldl_cons, List.foldl_nil, hm]

/-- Bytes written read back. -/
theorem readN_write_same (m : Memory) (a : Nat) (bs : List Byte) : (m.write a bs).readN a bs.length = bs := by
  refine List.ext_getElem (by simp [Memory.readN]) fun i h1 h2 => ?_
  have hr : Memory.read1 ((m.write a bs).filter (fun c => decide (a ≤ c.1) && decide (c.1 < a + bs.length))) (a + i)
      = (m.write a bs).read1 (a + i) := by
    unfold Memory.read1
    rw [Laws.find_filter_keep (fun c _ hc => by simp [hc, h2])]
  simp only [Memory.readN, List.getElem_map, List.getElem_range, hr, Laws.memory_read_write_same m a bs h2]
  rw [List.getD_eq_getElem?_getD, List.getElem?_eq_getElem h2, Option.getD_some]

theorem length_leBytes (n x : Nat) : (leBytes n x).length = n := by
  induction n generalizing x with
  | zero => rfl
  | succ n ih => simp [leBytes, ih]

/-! FAULT_RECORD_WRITE (R92). -/

/-- Address of the place in the ring where a function's next fault record goes (R91). -/
def fqNext (g : FnRegs) : Nat := BF g.fqcfg 12 35 * 4096 + 32 * g.fqTail.toNat

theorem fqWriteOne_full {s : State} {fn : Nat} (hr : (s.fn fn).fqRoom = false) : s.fqWriteOne fn = s := by
  unfold State.fqWriteOne
  cases hw : (s.fn fn).fqWaiting with
  | nil => simp only [hw]
  | cons r rest => simp only [hw, hr, Bool.false_eq_true, if_false]

theorem fqWriteOne_held {s : State} {fn : Nat} {r : BitVec 256} {rest : List (BitVec 256)} (hw : (s.fn fn).fqWaiting = r :: rest)
    (hr : (s.fn fn).fqRoom = true) (hh : s.heldLines (fqNext (s.fn fn)) 32 ≠ []) :
    s.fqWriteOne fn = s.askHost (s.heldLines (fqNext (s.fn fn)) 32) := by
  have he : (s.heldLines (fqNext (s.fn fn)) 32).isEmpty = false := List.isEmpty_eq_false_iff.mpr hh
  unfold State.fqWriteOne
  simp only [hw, hr, if_true]
  rw [show BF (s.fn fn).fqcfg 12 35 * 4096 + 32 * (s.fn fn).fqTail.toNat = fqNext (s.fn fn) from rfl, he]
  rfl

/-- The registers of a function whose oldest waiting fault record has been written. -/
def fqAdvanced (rest : List (BitVec 256)) (g : FnRegs) : FnRegs :=
  { g with fqWaiting := rest, fqTail := BitVec.ofNat 16 ((g.fqTail.toNat + 1) % g.fqSize) }

theorem fqWriteOne_written {s : State} {fn : Nat} {r : BitVec 256} {rest : List (BitVec 256)} (hw : (s.fn fn).fqWaiting = r :: rest)
    (hr : (s.fn fn).fqRoom = true) (hh : s.heldLines (fqNext (s.fn fn)) 32 = []) :
    s.fqWriteOne fn = ((s.commitWrite (fqNext (s.fn fn)) (leBytes 32 (s.stamped r.toNat).toNat) (List.replicate 32 false)).modFn fn
      (fqAdvanced rest)).msix fn 0 := by
  unfold State.fqWriteOne
  simp only [hw, hr, if_true]
  rw [show BF (s.fn fn).fqcfg 12 35 * 4096 + 32 * (s.fn fn).fqTail.toNat = fqNext (s.fn fn) from rfl, hh]
  rfl

/-- A record lies within one line of the ring. -/
theorem fqNext_in_line (g : FnRegs) : fqNext g % 64 + 32 ≤ 64 := by unfold fqNext; omega

/-- What writing the oldest record leaves: memory outside it, the record in memory unless its row is retired, the queue's registers and the message. -/
theorem fqWriteOne_effect {s : State} {fn : Nat} {r : BitVec 256} {rest : List (BitVec 256)} (hf : fn < 65)
    (hw : (s.fn fn).fqWaiting = r :: rest) (hr : (s.fn fn).fqRoom = true) (hh : s.heldLines (fqNext (s.fn fn)) 32 = []) :
    let a := fqNext (s.fn fn)
    let t := s.fqWriteOne fn
    (t.fn fn).fqWaiting = rest ∧ (t.fn fn).fqTail = BitVec.ofNat 16 (((s.fn fn).fqTail.toNat + 1) % (s.fn fn).fqSize)
    ∧ (s.unretired a 32 → t.mem.readN a 32 = leBytes 32 (s.stamped r.toNat).toNat)
    ∧ (∀ x, x < a ∨ a + 32 ≤ x → t.mem.read1 x = s.mem.read1 x)
    ∧ (BB (s.fn fn).msixMask 0 = false → t.outbox = if fn ∈ s.vfResetting then s.outbox else s.outbox ++ [.msix fn 0]) := by
  intro a t
  obtain ⟨bs, hbs⟩ : ∃ bs, leBytes 32 (s.stamped r.toNat).toNat = bs := ⟨_, rfl⟩
  have hlen : bs.length = 32 := hbs ▸ length_leBytes _ _
  have hne : bs ≠ [] := fun h0 => by rw [h0] at hlen; cases hlen
  have hline : a % 64 + bs.length ≤ 64 := hlen ▸ fqNext_in_line (s.fn fn)
  obtain ⟨llc, plru, fill, ro, poison, subs, pushes, hc⟩ :=
    commitWrite_in_line s hne ((List.length_replicate (n := 32) (a := false)).trans hlen.symm) hline
  obtain ⟨u, hu⟩ : ∃ u, u = (s.commitWrite a bs (List.replicate 32 false)).modFn fn (fqAdvanced rest) := ⟨_, rfl⟩
  have ht : t = u.msix fn 0 := by rw [hu, ← hbs]; exact fqWriteOne_written hw hr hh
  have hufn : u.fn fn = fqAdvanced rest (s.fn fn) := by rw [hu, fn_modFn_same _ hf, hc]; rfl
  have hmem : t.mem = if s.retiredLine (a / 64) then s.mem else s.mem.write a bs := by
    rw [ht, msix_mem, hu, Laws.modFn_mem, hc]
  obtain ⟨p, hp⟩ := msix_fn u hf 0
  have htfn : t.fn fn = { fqAdvanced rest (s.fn fn) with msixPend := p } := by rw [ht, hp, hufn]
  refine ⟨by rw [htfn]; rfl, by rw [htfn]; rfl, fun hret => ?_, fun x hx => ?_, fun hm => ?_⟩
  · have hline := hret 0 (by decide)
    rw [Nat.add_zero] at hline
    rw [hmem, hline, hbs, ← hlen]
    exact readN_write_same _ _ _
  · rw [hmem]
    split
    · rfl
    · exact Laws.memory_read_write_other _ _ _ (by rw [hlen]; exact hx)
  · have hv : u.vfResetting = s.vfResetting := by rw [hu, Laws.modFn_vfResetting, hc]
    have ho : u.outbox = s.outbox := by rw [hu, Laws.modFn_outbox, hc]
    rw [ht, msix_outbox (by rw [hufn]; exact hm), hv, ho]

/-! SURFFLUSH_COMPLETE (R36). -/

/-- Does a list of pending flushes of a function name surface i of function f? 2048 names every one. -/
def flushNames (fn : Nat) (l : List Nat) (f i : Nat) : Bool := f == fn && (l.contains 2048 || l.contains i)

theorem flushNames_iff (fn : Nat) (l : List Nat) (f i : Nat) :
    flushNames fn l f i = true ↔ f = fn ∧ (2048 ∈ l ∨ i ∈ l) := by
  simp [flushNames]

/-- The surface a pending flush names, none for all. -/
def flushIndex (i : Nat) : Option Nat := if i = 2048 then none else some i

theorem flushNames_cons (fn k : Nat) (l : List Nat) (f i : Nat) :
    flushNames fn (k :: l) f i = ((f == fn && ((flushIndex k).isNone || flushIndex k == some i)) || flushNames fn l f i) := by
  by_cases hk : k = 2048
  · cases h : f == fn <;> simp [flushNames, flushIndex, hk, h]
  · have h1 : (flushIndex k).isNone = false := by simp [flushIndex, hk]
    have h2 : (flushIndex k == some i) = (i == k) := by
      rw [flushIndex, if_neg hk, Bool.eq_iff_iff, beq_iff_eq, beq_iff_eq, Option.some.injEq]; exact eq_comm
    have h3 : (2048 == k) = false := by simpa using Ne.symm hk
    cases h : f == fn
    · simp [flushNames, h]
    · simp only [flushNames, h, h1, h2, h3, List.contains_cons, Bool.true_and, Bool.false_or]
      cases i == k <;> cases l.contains 2048 <;> rfl

/-- What the flushes of a list leave: the records and the copies that none of them names. -/
theorem flushSurf_foldl (fn : Nat) (l : List Nat) (s : State) :
    l.foldl (fun (s : State) i => s.flushSurf fn (flushIndex i)) s = { s with
      surfRecs := s.surfRecs.filter (fun r => !flushNames fn l r.fn r.index)
      apCopies := s.apCopies.filter (fun r => !flushNames fn l r.fn r.index) } := by
  induction l generalizing s with
  | nil =>
    have hk : ∀ {α : Type} (xs : List α), xs.filter (fun _ => true) = xs := fun xs => List.filter_eq_self.2 fun _ _ => rfl
    simp only [flushNames, List.contains_nil, Bool.or_false, Bool.and_false, Bool.not_false, hk, List.foldl_nil]
  | cons k l ih =>
    rw [List.foldl_cons, ih]
    simp only [State.flushSurf, List.filter_filter, flushNames_cons, Bool.not_or]
    congr 1 <;> exact List.filter_congr fun _ _ => Bool.and_comm _ _

theorem execSurfflushComplete_effect {s : State} (hp : s.powered = true) {fn : Nat} (hf : fn < 65) (hb : (s.fn fn).surfBusy = true) :
    ∃ t, execSurfflushComplete fn s = .next t ∧ (t.fn fn).surfBusy = false ∧ (t.fn fn).surfPending = []
      ∧ (∀ r, r ∈ t.surfRecs ↔ r ∈ s.surfRecs
          ∧ ¬(r.fn = fn ∧ (2048 ∈ (s.fn fn).surfPending ∨ r.index ∈ (s.fn fn).surfPending)))
      ∧ (∀ r, r ∈ t.apCopies ↔ r ∈ s.apCopies
          ∧ ¬(r.fn = fn ∧ (2048 ∈ (s.fn fn).surfPending ∨ r.index ∈ (s.fn fn).surfPending))) := by
  have hfold := flushSurf_foldl fn (s.fn fn).surfPending s
  refine ⟨_, by rw [execSurfflushComplete, State.whenOn, if_pos hp, if_pos ⟨hf, hb⟩], ?_, ?_, fun r => ?_, fun r => ?_⟩
  · rw [fn_modFn_same _ hf]
  · rw [fn_modFn_same _ hf]
  · change r ∈ ((s.fn fn).surfPending.foldl (fun (s : State) i => s.flushSurf fn (flushIndex i)) s).surfRecs ↔ _
    rw [hfold, List.mem_filter, Bool.not_eq_true', ← Bool.not_eq_true, flushNames_iff]
  · change r ∈ ((s.fn fn).surfPending.foldl (fun (s : State) i => s.flushSurf fn (flushIndex i)) s).apCopies ↔ _
    rw [hfold, List.mem_filter, Bool.not_eq_true', ← Bool.not_eq_true, flushNames_iff]

/-! XLINV_COMPLETE (R87, R155). -/

theorem execXlinvComplete_effect {s : State} (hp : s.powered = true) {fn : Nat} (hf : fn < 65) (hb : (s.fn fn).xlBusy = true)
    (hq : s.xlQuiet fn = true) (hw : (s.fn fn).xlWaiting = []) :
    ∃ t, execXlinvComplete fn s = .next t ∧ (t.fn fn).xlBusy = false
      ∧ (∀ x, x ∈ t.tlb ↔ x ∈ s.tlb ∧ ¬(x.fn = fn ∧ x.page * 2 ^ x.shift < (s.fn fn).xlRange.2
          ∧ (s.fn fn).xlRange.1 < (x.page + 1) * 2 ^ x.shift))
      ∧ (∀ x, x ∈ t.icache ↔ x ∈ s.icache ∧ ¬(x.fn = fn ∧ x.va < (s.fn fn).xlRange.2 ∧ (s.fn fn).xlRange.1 < x.va + 64)) := by
  unfold execXlinvComplete State.whenOn
  rw [if_pos hp]
  simp only [hf, hb, hq, hw, and_self, if_true]
  refine ⟨_, rfl, ?_, fun x => ?_, fun x => ?_⟩
  · rw [fn_modFn_same _ hf]
  · simp only [Laws.modFn_tlb, List.mem_filter, Bool.not_eq_true', ← Bool.not_eq_true, Bool.and_eq_true, beq_iff_eq, decide_eq_true_eq,
      Nat.shiftLeft_eq, and_assoc]
  · simp only [Laws.modFn_icache, List.mem_filter, Bool.not_eq_true', ← Bool.not_eq_true, Bool.and_eq_true, beq_iff_eq,
      decide_eq_true_eq, and_assoc]

theorem xlRange_fst (g : FnRegs) :
    g.xlRange.1 = if 45 ≤ g.xlLog2n then 0 else g.xlVA / 2 ^ g.xlLog2n * 2 ^ g.xlLog2n * 4096 := by
  unfold FnRegs.xlRange; split <;> rfl

theorem xlRange_snd (g : FnRegs) :
    g.xlRange.2 = if 45 ≤ g.xlLog2n then 2 ^ 57 else (g.xlVA / 2 ^ g.xlLog2n * 2 ^ g.xlLog2n + 2 ^ g.xlLog2n) * 4096 := by
  unfold FnRegs.xlRange; split <;> rfl

/-! MSIX_UNMASK (R71). -/

/-- The registers of a function with one vector's mask and pending bit cleared. -/
def unmasked (k : Nat) (g : FnRegs) : FnRegs :=
  { g with msixMask := g.msixMask &&& ~~~(BitVec.ofNat 16 (2 ^ k)), msixPend := g.msixPend &&& ~~~(BitVec.ofNat 16 (2 ^ k)) }

theorem BB_cleared (x : BitVec 16) (k j : Nat) : BB (x &&& ~~~(BitVec.ofNat 16 (2 ^ k))) j = (BB x j && decide (j ≠ k)) := by
  rw [BB_eq_getLsbD, BB_eq_getLsbD, BitVec.getLsbD_and, BitVec.getLsbD_not, BitVec.getLsbD_ofNat, Nat.testBit_two_pow]
  by_cases hj : j < 16
  · by_cases hk : k = j
    · simp [hk]
    · simp [hj, hk, Ne.symm hk]
  · simp [BitVec.getLsbD_of_ge x j (by omega)]

theorem execMsixUnmask_eq {s : State} (hp : s.powered = true) {fn k : Nat} (hf : fn < 65) (hk : k < 16)
    (hm : BB (s.fn fn).msixMask k = true) : execMsixUnmask fn k s
      = .next (if BB (s.fn fn).msixPend k then (s.modFn fn (unmasked k)).msix fn k else s.modFn fn (unmasked k)) :=
  congrArg Host.Outcome.next ((if_pos hp).trans (if_pos ⟨hf, hk, hm⟩))

theorem execMsixUnmask_effect {s : State} (hp : s.powered = true) {fn k : Nat} (hf : fn < 65) (hk : k < 16)
    (hm : BB (s.fn fn).msixMask k = true) : ∃ t, execMsixUnmask fn k s = .next t
      ∧ t.outbox = (if BB (s.fn fn).msixPend k = true ∧ fn ∉ s.vfResetting then s.outbox ++ [.msix fn k] else s.outbox)
      ∧ t.fn fn = unmasked k (s.fn fn) := by
  have hfn : (s.modFn fn (unmasked k)).fn fn = unmasked k (s.fn fn) := fn_modFn_same s hf _
  have hun : BB ((s.modFn fn (unmasked k)).fn fn).msixMask k = false := by rw [hfn, unmasked, BB_cleared]; simp
  refine ⟨_, execMsixUnmask_eq hp hf hk hm, ?_⟩
  cases hd : BB (s.fn fn).msixPend k with
  | false => exact ⟨by simp, hfn⟩
  | true =>
    by_cases hr : fn ∈ s.vfResetting
    · have hr' : fn ∈ (s.modFn fn (unmasked k)).vfResetting := hr
      simp only [if_true, msix_of_resetting hr']
      exact ⟨by simp [hr], hfn⟩
    · have hr' : fn ∉ (s.modFn fn (unmasked k)).vfResetting := hr
      simp only [if_true, msix_of_unmasked hr' hun]
      exact ⟨by simp [hr, State.send], hfn⟩

/-! GANGRESET (R73, R74). -/

theorem fnWrite_gangReset (s : State) (fn v : Nat) : s.fnWrite fn 0x0150 (BitVec.ofNat 64 v) = s.gangReset fn (v % 16) := by
  simp [State.fnWrite, BF_ofNat, bits]

theorem gangReset_queued {s : State} {fn line : Nat} {x : Gang}
    (hx : s.gangs.find? (fun g => g.fn == fn && g.line == some line) = some x) (hq : x.phase = .queued) :
    s.gangReset fn line = { s.complete x 7 0 0 with gangs := s.gangs.filter (fun y => y.id != x.id) }.noteHeads := by
  unfold State.gangReset
  simp only [hx, hq]

theorem gangReset_placed {s : State} {fn line : Nat} {x : Gang}
    (hx : s.gangs.find? (fun g => g.fn == fn && g.line == some line) = some x) (hq : x.phase ≠ .queued) :
    s.gangReset fn line = if s.gangHalted x.id && x.stop.isNone then s else (s.stopGang x.id 7 0).setGangBusy fn := by
  unfold State.gangReset
  simp only [hx]

end Sys2Proof.Proofs
end

section
/-! SUPPORT. Tree commands, register writes as events, and O56. -/

namespace Sys2Proof.Proofs

open Sys2Proof Sys2Proof.Machine

/-! TREESET (R54). -/

/-- The state in which a command at va starts, where no earlier one of the function waits. -/
def treeStart (s : State) (fn va : Nat) : State := (s.modFn fn (fun g => { g with treeWaiting := [va] })).retry (2 ^ 33 + fn) 0

/-- The state after a command that has ended in the state t. -/
def treeEnd (t : State) (fn : Nat) : State := (t.settle (2 ^ 33 + fn) 0).modFn fn (fun g => { g with treeWaiting := [] })

theorem treeSet_idle {s : State} {fn : Nat} (hw : (s.fn fn).treeWaiting = []) (va : Nat) :
    s.treeSet fn va = (s.modFn fn (fun g => { g with treeWaiting := [va] })).treeRun fn := by
  unfold State.treeSet
  simp only [hw, List.isEmpty_nil, if_true]
  exact congrArg (fun t : State => t.treeRun fn) (modFn_congr s fn (by rw [hw]; rfl))

section
variable {s : State} {fn va : Nat} (hf : fn < 65) (hw : (s.fn fn).treeWaiting = [])
include hf hw

theorem treeSet_ended {t : State} (h : treeCommand fn va (treeStart s fn va) = .ok () t) : s.treeSet fn va = treeEnd t fn := by
  have hq : ((s.modFn fn (fun g => { g with treeWaiting := [va] })).fn fn).treeWaiting = [va] := by rw [fn_modFn_same s hf]
  have hc : whole (treeCommand fn va) ((s.modFn fn (fun g => { g with treeWaiting := [va] })).retry (treeAcc fn).hart 0) = .ok () t :=
    whole_ok h
  rw [treeSet_idle hw]
  unfold State.treeRun
  simp only [hq, hc]
  rfl

theorem treeSet_busy {t : State} (h : treeCommand fn va (treeStart s fn va) = .error .wait t) :
    s.treeSet fn va = ((treeStart s fn va).waited t).treestat fn 0 1 := by
  have hq : ((s.modFn fn (fun g => { g with treeWaiting := [va] })).fn fn).treeWaiting = [va] := by rw [fn_modFn_same s hf]
  have hc : whole (treeCommand fn va) ((s.modFn fn (fun g => { g with treeWaiting := [va] })).retry (treeAcc fn).hart 0)
      = .error .wait ((treeStart s fn va).waited t) := whole_wait h
  rw [treeSet_idle hw]
  unfold State.treeRun
  simp only [hq, hc]

end

/-- A record that cannot be read: status 5 (R54). -/
theorem treeCommand_unread {fn va : Nat} {s t : State} (h : treeRead fn va 64 s = .ok none t) :
    treeCommand fn va s = .ok () (t.treestat fn 0 5) := by
  unfold treeCommand
  rw [M.bind_ok h]
  rfl

/-- An installation whose node list cannot be read: status 5 (R54). -/
theorem treeCommand_list_unread {fn va r : Nat} {s t u : State} (h : treeRead fn va 64 s = .ok (some r) t) (hv : bit r 8 = true)
    (hl : treeRead fn (bits r 69 52 * 32) (32 * treeNodes r) t = .ok none u) :
    treeCommand fn va s = .ok () (u.treestat fn (bits r 0 8) 5) := by
  unfold treeCommand
  rw [M.bind_ok h]
  simp only [hv, Bool.not_true, Bool.false_eq_true, if_false]
  rw [M.bind_ok (get_ok t), M.bind_ok hl]
  rfl

/-- An installation of a malformed record: status 3 (R54, R55). -/
theorem treeCommand_malformed {fn va r x : Nat} {s t u : State} (h : treeRead fn va 64 s = .ok (some r) t) (hv : bit r 8 = true)
    (hl : treeRead fn (bits r 69 52 * 32) (32 * treeNodes r) t = .ok (some x) u) (hm : treeMalformed r = true) :
    treeCommand fn va s = .ok () (u.treestat fn (bits r 0 8) 3) := by
  unfold treeCommand
  rw [M.bind_ok h]
  simp only [hv, hm, Bool.not_true, Bool.false_eq_true, if_false, if_true]
  rw [M.bind_ok (get_ok t), M.bind_ok hl]
  rfl

/-- A removal of a tree that is not there: status 0 (R54). -/
theorem treeCommand_remove_none {fn va r : Nat} {s t : State} (h : treeRead fn va 64 s = .ok (some r) t) (hv : bit r 8 = false)
    (hn : t.trees.find? (fun t => t.id == bits r 0 8) = none) : treeCommand fn va s = .ok () (t.treestat fn (bits r 0 8) 0) := by
  unfold treeCommand
  rw [M.bind_ok h]
  simp only [hv, Bool.not_false, if_true]
  rw [M.bind_ok (get_ok t)]
  simp only [hn]
  rfl

/-- A removal of a tree: its owner tears it down, another function is refused with status 2 (R54, R59). -/
theorem treeCommand_remove {fn va r : Nat} {s t : State} {x : Tree} (h : treeRead fn va 64 s = .ok (some r) t) (hv : bit r 8 = false)
    (hx : t.trees.find? (fun t => t.id == bits r 0 8) = some x) : treeCommand fn va s = .ok ()
      (if x.owner = fn then
        ({ t.teardown x.id with trees := (t.teardown x.id).trees.filter (fun y => y.id != x.id) } : State).treestat fn (bits r 0 8) 0
       else t.treestat fn (bits r 0 8) 2) := by
  have hid : bits r 0 8 = x.id := (beq_iff_eq.mp (List.find?_some (p := fun t : Tree => t.id == bits r 0 8) hx)).symm
  unfold treeCommand
  rw [M.bind_ok h]
  simp only [hv, Bool.not_false, if_true]
  rw [M.bind_ok (get_ok t)]
  simp only [hx]
  split
  · rw [hid]; rfl
  · rfl

/-- A write to a register of the physical function alone, run. -/
theorem pfEvent_of_eq {s t : State} (hp : s.powered = true) {off v : Nat} (h : s.pfWrite off (BitVec.ofNat 64 v) = t) :
    s.pfEvent off v = .next t := by rw [pfEvent_eq hp, h]

/-- A write to a register of a function's own BAR0, run. -/
theorem fnEvent_of_eq {s t : State} (hp : s.powered = true) {fn off v : Nat} (hf : fn < 65)
    (h : s.fnWrite fn off (BitVec.ofNat 64 v) = t) : s.fnEvent fn off v = .next t := by rw [fnEvent_eq hp hf, h]

/-- A change of a function's registers puts what it makes of them. -/
theorem modFn_put (s : State) (fn : Nat) (k : FnRegs → FnRegs) : s.modFn fn k = s.modFn fn (fun _ => k (s.fn fn)) := rfl

theorem modPort_put (s : State) (p : Nat) (k : Word → Word) :
    s.modPort p k = s.modPort p (fun _ => k ((s.dev.fabpstat[p]?).getD 0)) := rfl

/-- A write to a register of a function's own BAR0 that changes that function's registers, run. -/
theorem fnEvent_put {s : State} (hp : s.powered = true) {fn off v : Nat} (hf : fn < 65) {k : FnRegs → FnRegs}
    (h : s.fnWrite fn off (BitVec.ofNat 64 v) = s.modFn fn k) : s.fnEvent fn off v = .next (s.modFn fn (fun _ => k (s.fn fn))) :=
  fnEvent_of_eq hp hf (h.trans (modFn_put s fn k))

theorem execFabpstatWrite_eq {s : State} (hp : s.powered = true) {p : Nat} (h : p < 20) (v : Nat) :
    execFabpstatWrite p v s = .next (s.modPort p (fun _ =>
      w1c (w1c ((s.dev.fabpstat[p]?).getD 0) (BitVec.ofNat 64 v) 32 16) (BitVec.ofNat 64 v) 16 16)) := by
  rw [execFabpstatWrite, if_pos h]
  exact pfEvent_of_eq hp ((pfWrite_fabpstat s h _).trans (modPort_put s p _))

theorem execFabpartWrite_eq {s : State} (hp : s.powered = true) {fn : Nat} (hf : fn < 65) (v : Nat) : execFabpartWrite fn v s
    = .next (s.modFn fn (fun _ => { s.fn fn with fabpart := BitVec.ofNat 64 (min 256 (bits v 16 9) * 2 ^ 16 + bits v 0 16) })) := by
  rw [execFabpartWrite, if_pos hf]
  exact pfEvent_of_eq hp ((pfWrite_fabpart s hf v).trans (modFn_put s fn _))

theorem execQosctxWrite_eq {s : State} (hp : s.powered = true) {fn c : Nat} (hf : fn < 65) (hc : c < 4) (v : Nat) :
    execQosctxWrite fn c v s = .next (s.qosWrite fn c (BitVec.ofNat 64 v)) := by
  rw [execQosctxWrite, if_pos ⟨hf, hc⟩]
  exact pfEvent_of_eq hp (pfWrite_qosctx s hf hc _)

theorem execHrangeWrite_eq {s : State} (hp : s.powered = true) {fn i word : Nat} (hf : fn < 65) (hi : i < 4) (hw : word < 2) (v : Nat) :
    execHrangeWrite fn i word v s = .next (s.hrangeWrite fn i word (BitVec.ofNat 64 v)) := by
  rw [execHrangeWrite, if_pos ⟨hf, hi, hw⟩]
  exact pfEvent_of_eq hp (pfWrite_hrange s hf hi hw _)

theorem execVfcfgWrite_eq {s : State} (hp : s.powered = true) {vf word : Nat} (hf : vf < 64) (hw : word < 4) (v : Nat) :
    execVfcfgWrite vf word v s = .next (s.vfcfgWrite (vf + 1) word (BitVec.ofNat 64 v)) := by
  rw [execVfcfgWrite, if_pos ⟨hf, hw⟩]
  exact pfEvent_of_eq hp (pfWrite_vfcfg s hf hw _)

theorem execFaultRecordWrite_eq {s : State} (hp : s.powered = true) {fn : Nat} (hf : fn < 65) :
    execFaultRecordWrite fn s = .next (s.fqWriteOne fn) := by
  rw [execFaultRecordWrite, State.whenOn, if_pos hp, if_pos hf]

/-- Both tree events write TREESET. -/
theorem exec_treeset {s : State} (hp : s.powered = true) {fn v : Nat} (hf : fn < 65) {i : Instr}
    (hi : i = .treeInstall fn v ∨ i = .treeTeardownCommand fn v) : exec i s = .next (s.treeSet fn (bits v 6 51 * 64)) := by
  have hw : s.fnWrite fn 0x0120 (BitVec.ofNat 64 v) = s.treeSet fn (bits v 6 51 * 64) := by
    simp only [State.fnWrite, BF_ofNat, Nat.reduceAdd, Nat.reduceLeDiff]
  rcases hi with rfl | rfl
  · exact fnEvent_of_eq hp hf hw
  · exact fnEvent_of_eq hp hf hw

/-- Settles O56: register by register, the write's equation; what a register starts, by the effect of its event. -/
theorem registerWrites : Obligations.RegisterWrites := by
  unfold Obligations.RegisterWrites
  intro s v hp d dev w f
  refine ⟨?pwrctl, ?pwrstat, ?thermstat, ?memerr, ?oscnt, ?heatcfg, ?schedcfg, ?schedstat, ?fabcfg, ?launchwin, ?fabpstat, ?fns, ?vfs⟩
  case pwrctl => exact pfEvent_of_eq hp (pfWrite_pwrctl s v)
  case pwrstat => exact pfEvent_of_eq hp (pfWrite_pwrstat s v)
  case thermstat => exact pfEvent_of_eq hp (pfWrite_thermstat s v)
  case memerr => exact pfEvent_of_eq hp (pfWrite_memerr s v)
  case oscnt => exact pfEvent_of_eq hp (pfWrite_oscnt s v)
  case heatcfg => exact pfEvent_of_eq hp (pfWrite_heatcfg s v)
  case schedcfg => exact pfEvent_of_eq hp (pfWrite_schedcfg s v)
  case schedstat => exact pfEvent_of_eq hp (pfWrite_schedstat s v)
  case fabcfg => exact pfEvent_of_eq hp (pfWrite_fabcfg s v)
  case launchwin => exact fnEvent_of_eq hp (by decide) (fnWrite_launchwin s v)
  case fabpstat =>
    intro p h
    refine ⟨_, execFabpstatWrite_eq hp h v, ?_, ?_, ?_⟩
    · rw [BF_w1c_other _ _ (by decide) (by decide)]
      exact BF_w1c_same _ v (by decide)
    · refine (BF_w1c_same _ v (by decide)).trans ?_
      rw [BF_w1c_other _ _ (by decide) (by decide)]
    · rw [BF_w1c_other _ _ (by decide) (by decide), BF_w1c_other _ _ (by decide) (by decide)]
  case vfs =>
    intro vf hf old put
    refine ⟨?_, ?_, ?_, ?_⟩
    · exact (execVfcfgWrite_eq hp hf (by decide) v).trans (congrArg _ (vfcfgWrite_low s (vf + 1) v))
    · exact (execVfcfgWrite_eq hp hf (by decide) v).trans (congrArg _ (vfcfgWrite_size s (vf + 1) v))
    · exact (execVfcfgWrite_eq hp hf (by decide) v).trans (congrArg _ (vfcfgWrite_window s (vf + 1) v))
    · exact (execVfcfgWrite_eq hp hf (by decide) v).trans (congrArg _ (vfcfgWrite_control s (vf + 1) v))
  case fns =>
    intro fn hf g put
    refine ⟨?surftab, ?surfflush, ?fabpart, ?launchstat, ?frstat, ?xlinv, ?savecfg, ?kvpool, ?kvmeta, ?fq, ?qosctx, ?hrange, ?tree,
      ?ptroot, ?trapentry, ?frametab, ?byAddress, ?surfDone, ?xlDone, ?record, ?unmask, ?gangReset⟩
    case surftab => exact fnEvent_put hp hf (fnWrite_surftab s fn v)
    case surfflush => exact fnEvent_put hp hf (fnWrite_surfflush s fn v)
    case fabpart => exact execFabpartWrite_eq hp hf v
    case launchstat => exact fnEvent_put hp hf (fnWrite_launchstat s fn v)
    case frstat => exact fnEvent_put hp hf (fnWrite_frstat s fn v)
    case xlinv => exact fnEvent_put hp hf (fnWrite_xlinv s fn v)
    case savecfg =>
      refine (fnEvent_of_eq hp hf (fnWrite_savecfg s fn v)).trans ?_
      split
      · rfl
      · exact congrArg _ (modFn_put s fn _)
    case kvpool =>
      refine (fnEvent_of_eq hp hf (fnWrite_kvpool s fn v)).trans ?_
      dsimp only
      split
      · exact congrArg _ (modFn_put s fn _)
      · split
        · exact congrArg _ (modFn_put s fn _)
        · rfl
    case kvmeta =>
      refine (fnEvent_of_eq hp hf (fnWrite_kvmeta s fn v)).trans ?_
      split
      · rfl
      · exact congrArg _ (modFn_put s fn _)
    case fq => exact fun hw => ⟨fnEvent_put hp hf (fnWrite_fqptr hf hw v), fnEvent_put hp hf (fnWrite_fqcfg hf hw v)⟩
    case qosctx =>
      exact fun c hc => (execQosctxWrite_eq hp hf hc v).trans (congrArg _ ((qosWrite_eq s fn c v).trans (modFn_put s fn _)))
    case hrange =>
      intro i hi old store far kept
      refine ⟨(execHrangeWrite_eq hp hf hi (by decide) v).trans ?_, (execHrangeWrite_eq hp hf hi (by decide) v).trans ?_⟩
      · exact congrArg _ (hrangeWrite_base s fn i v)
      · exact congrArg _ (hrangeWrite_limit s fn i v)
    case tree =>
      intro i hi hw va who s0 quit ended
      have hrun := exec_treeset hp hf hi
      have hend {t : State} (h : treeCommand fn va s0 = .ok () t) : exec i s = quit t :=
        hrun.trans (congrArg _ (treeSet_ended hf hw h))
      refine ⟨fun s1 h => hend (treeCommand_unread h), fun r s1 h hv => ⟨fun s2 hl => hend (treeCommand_list_unread h hv hl),
        fun x s2 hl hm => hend (treeCommand_malformed h hv hl hm)⟩, fun r s1 h hv hn => hend (treeCommand_remove_none h hv hn),
        fun r s1 t h hv hx => ?_, fun s1 h => hend h, fun s1 h => hrun.trans (congrArg _ (treeSet_busy hf hw h))⟩
      refine (hend (treeCommand_remove h hv hx)).trans ?_
      split <;> rfl
    case ptroot =>
      refine (execRegisterWrite_eq hp hf (by decide) (by decide) v).trans (congrArg _ ?_)
      rw [barWrite_fn s fn (by decide)]
      exact (fnWrite_ptroot s fn v).trans (modFn_put s fn _)
    case trapentry =>
      refine (execRegisterWrite_eq hp hf (by decide) (by decide) v).trans (congrArg _ ?_)
      rw [barWrite_fn s fn (by decide)]
      exact (fnWrite_trapentry s fn v).trans (modFn_put s fn _)
    case frametab =>
      refine (execRegisterWrite_eq hp hf (by decide) (by decide) v).trans ?_
      rw [barWrite_pf s fn (by decide), pfWrite_frametab]
      split <;> rfl
    case byAddress => exact fun off ho ha => execRegisterWrite_eq hp hf ho ha v
    case surfDone => exact fun hb => execSurfflushComplete_effect hp hf hb
    case xlDone =>
      intro hb hq hw n lo hi
      have h := execXlinvComplete_effect hp hf hb hq hw
      rw [xlRange_fst, xlRange_snd] at h
      exact h
    case record =>
      intro r rest hw a
      refine ⟨fun hr => ?_, fun hr hh => ?_, fun hr hh => ?_⟩
      · exact (execFaultRecordWrite_eq hp hf).trans (congrArg _ (fqWriteOne_full hr))
      · exact (execFaultRecordWrite_eq hp hf).trans (congrArg _ (fqWriteOne_held hw hr hh))
      · exact ⟨_, execFaultRecordWrite_eq hp hf, fqWriteOne_effect hf hw hr hh⟩
    case unmask =>
      intro k hk hm
      obtain ⟨t, ht, ho, hfn⟩ := execMsixUnmask_effect hp hf hk hm
      refine ⟨t, ht, ho, ?_, ?_, fun j hj => ⟨?_, ?_⟩⟩
      · rw [hfn, unmasked, BB_cleared]; simp
      · rw [hfn, unmasked, BB_cleared]; simp
      · rw [hfn, unmasked, BB_cleared]; simp [hj, g]
      · rw [hfn, unmasked, BB_cleared]; simp [hj, g]
    case gangReset =>
      intro line hl hv x hx
      have hrun : exec (.gangReset fn v) s = .next (s.gangReset fn line) :=
        fnEvent_of_eq hp hf (by rw [fnWrite_gangReset, hv])
      refine ⟨fun hq => ?_, fun hq hs => ?_, fun hq hh hs => ?_⟩
      · rw [hrun, gangReset_queued hx hq]
      · have hc : (s.gangHalted x.id && x.stop.isNone) = false := by
          rcases hs with hs | hs
          · rw [hs, Bool.false_and]
          · rw [← Option.not_isSome, hs, Bool.not_true, Bool.and_false]
        rw [hrun, gangReset_placed hx hq, hc]; rfl
      · rw [hrun, gangReset_placed hx hq, hh, hs]; rfl

end Sys2Proof.Proofs
end

section
/-! SUPPORT. Reset values and sensors, O10 and O55. -/

namespace Sys2Proof.Proofs

open Sys2Proof Sys2Proof.Machine

theorem fn_reset (f : Nat) : State.reset.fn f = FnRegs.reset := by
  unfold State.fn State.reset
  simp only [Vector.getElem?_replicate]
  split <;> rfl

/-- Settles O10: each part of the reset state is its table's value, the functions' all alike. -/
theorem resetValues : Obligations.ResetValues := by
  unfold Obligations.ResetValues
  refine ⟨rfl, rfl, rfl, rfl, rfl, rfl, rfl, rfl, rfl, rfl, rfl, rfl, rfl, rfl, rfl, rfl, fun f _ => ?_⟩
  rw [fn_reset]
  exact ⟨rfl, rfl, rfl, rfl, rfl, rfl, rfl, rfl, rfl, rfl, rfl⟩

/-! Sensors (R13). -/

theorem tripIf_outbox (s : State) (tmax : Nat) : (s.tripIf tmax).outbox = s.outbox := by
  unfold State.tripIf; split <;> rfl


theorem outbox_ite {c : Prop} [Decidable c] {a b : State} {o : List Msg} (ha : a.outbox = o) (hb : b.outbox = o) :
    (if c then a else b).outbox = o := by
  split
  · exact ha
  · exact hb

/-- Where the physical function is listed as under reset, no reading sends the message of WARN. -/
theorem thermal_outbox_of_resetting {s : State} (h : 0 ∈ s.vfResetting) (tmax : Nat) : (s.thermal tmax).outbox = s.outbox := by
  have hmsix (a b : DevRegs → DevRegs) : (((s.modDev a).modDev b).msix 0 2).outbox = s.outbox := by
    rw [msix_of_resetting (s := (s.modDev a).modDev b) h 2, Laws.modDev_outbox, Laws.modDev_outbox]
  have hdev {u : State} (hu : u.outbox = s.outbox) (a : DevRegs → DevRegs) : (u.modDev a).outbox = s.outbox :=
    (Laws.modDev_outbox u a).trans hu
  unfold State.thermal
  refine (tripIf_outbox _ _).trans (outbox_ite (hdev ?_ _) (outbox_ite (hdev ?_ _) ?_))
  all_goals exact outbox_ite (outbox_ite (hmsix _ _) (hdev (hdev rfl _) _)) (hdev rfl _)

theorem execThermalWarning_eq {s : State} (hp : s.powered = true) {tmax : Nat} (ht : 95 ≤ tmax) :
    execThermalWarning tmax s = .next (s.thermal tmax) := by
  rw [execThermalWarning, State.whenOn, if_pos hp, if_pos ht]

/-- The reset state with the physical function listed as under reset. -/
def resettingPf : State := { State.reset with vfResetting := [0] }

/-- Refutes O55: its sensor clause says that a reading which crosses 95 °C upwards sends the WARN message whenever vector 2 is unmasked, and it speaks of
every state; a function listed as under reset sends nothing (R75). The counterexample is the reset state with the physical function listed there, and
a reading of 95 °C. `State.vfResetStart` never lists function 0, so the clause lacks the hypothesis that it is not listed. -/
theorem not_powerEvents : ¬ Obligations.PowerEvents := by
  unfold Obligations.PowerEvents
  intro h
  obtain ⟨-, hon⟩ := h resettingPf
  obtain ⟨-, -, -, hsensor, -⟩ := hon rfl
  obtain ⟨t, ht, -, -, -, hwarn, -⟩ := hsensor 95 (.thermalWarning 95) (.inl ⟨rfl, by decide⟩)
  obtain ⟨-, hsend⟩ := hwarn (by decide) (by decide)
  have hsent : t.outbox = [.msix 0 2] := hsend (by decide) (.inl (by decide))
  have hrun := execThermalWarning_eq (s := resettingPf) (tmax := 95) rfl (by decide)
  have hquiet := thermal_outbox_of_resetting (s := resettingPf) (by decide) 95
  rw [Host.Outcome.next.inj (hrun.symm.trans ht), hsent] at hquiet
  cases hquiet

end Sys2Proof.Proofs
end

section
/-! SUPPORT. Guards at the issue of a word and fields of its operands: what privilege, waits, FIFOs and the ranges of operands let pass. -/

namespace Sys2Proof.Proofs

open Sys2Proof Sys2Proof.Machine

/-! Fields of a word as quotients and remainders. -/

theorem BF_eq_div_mod (x : Word) (lo n : Nat) : BF x lo n = x.toNat / 2 ^ lo % 2 ^ n := by
  rw [BF, bits, Nat.shiftRight_eq_div_pow]

/-- The bits from bit n up of a word. -/
theorem BF_high {n : Nat} (hn : n ≤ 64) (x : Word) : BF x n (64 - n) = x.toNat / 2 ^ n := by
  rw [BF_eq_div_mod, Nat.mod_eq_of_lt]
  rw [Nat.div_lt_iff_lt_mul (Nat.two_pow_pos n), ← Nat.pow_add, Nat.sub_add_cancel hn]
  exact x.isLt

theorem BF_high_eq_zero_iff {n : Nat} (hn : n ≤ 64) (x : Word) : BF x n (64 - n) = 0 ↔ x.toNat < 2 ^ n := by
  rw [BF_high hn, Nat.div_eq_zero_iff_lt (Nat.two_pow_pos n)]

/-- A word whose value fits n bits passes the check of the bits above them. -/
theorem not_BF_high_ne_zero {n : Nat} {x : Word} (hn : n ≤ 64) (hx : x.toNat < 2 ^ n) : ¬ BF x n (64 - n) ≠ 0 :=
  fun hne => hne ((BF_high_eq_zero_iff hn x).mpr hx)

theorem BF_high_ne_zero {n : Nat} {x : Word} (hn : n ≤ 64) (hx : 2 ^ n ≤ x.toNat) : BF x n (64 - n) ≠ 0 :=
  mt (BF_high_eq_zero_iff hn x).mp (Nat.not_lt.mpr hx)

theorem BF_low {n : Nat} (x : Word) : BF x 0 n = x.toNat % 2 ^ n := by
  rw [BF_eq_div_mod, Nat.pow_zero, Nat.div_one]

/-! Guards: each passes and changes nothing, or the word waits (R157, R169, R209, R270). -/

theorem needLevel_ok {s : State} {h : Hart} (hc : s.curHart = some h) {n : Nat} (hn : n ≤ h.level) (w : Word) :
    needLevel n w s = .ok () s := by
  unfold needLevel
  rw [M.bind_ok (theHart_ok hc), if_neg (Nat.not_lt.mpr hn)]
  rfl

theorem drained_ok {s : State} {h : Hart} (hc : s.curHart = some h) (hw : h.wbuf = []) : drained s = .ok () s := by
  unfold drained
  rw [M.bind_ok (theHart_ok hc), hw]
  rfl

theorem released_ok {s : State} {h : Hart} (hc : s.curHart = some h) (hw : h.wbuf = []) (hp : h.performed = true) :
    released s = .ok () s := by
  unfold released
  rw [M.bind_ok (theHart_ok hc), hw, hp]
  rfl

theorem fifoRoom_ok {s : State} {h : Hart} (hc : s.curHart = some h) {f : Nat} (hf : h.hasRoom f) : fifoRoom f s = .ok () s := by
  unfold fifoRoom
  rw [M.bind_ok (theHart_ok hc), decide_eq_true (show ((h.inq[f]?).getD []).length < 16 from hf)]
  rfl

/-- A hart with one more command in an input FIFO. -/
def pushed (f : Nat) (c : RawCmd) (k : Hart) : Hart :=
  { k with inq := k.inq.setIfInBounds f (((k.inq[f]?).getD []) ++ [c]) }

theorem pushCmd_ok {s : State} {h : Hart} (hc : s.curHart = some h) {f : Nat} (hf : h.hasRoom f) (c : RawCmd) :
    pushCmd f c s = .ok () (s.modHart s.cur (pushed f c)) := by
  unfold pushCmd
  rw [M.bind_ok (fifoRoom_ok hc hf)]
  rfl

end Sys2Proof.Proofs
end

section
/-! SUPPORT. What freeing an open fault leaves of the requests parked under it (R93), and O34. -/

namespace Sys2Proof.Proofs

open Sys2Proof Sys2Proof.Machine

/-! A freed fault. -/

/-- Changing a batch load's descriptors leaves the hart's number and its park. -/
theorem batchFreed_frame (h : Hart) (fid : Nat) (conv : Bool) :
    (h.batchFreed fid conv).id = h.id ∧ (h.batchFreed fid conv).park = h.park := by
  unfold Hart.batchFreed
  generalize h.kvParked.filter (fun x => x.2.2 == fid) = l
  refine List.foldlRecOn l _ (motive := fun k : Hart => k.id = h.id ∧ k.park = h.park) ⟨rfl, rfl⟩ fun k hk x _ => ?_
  dsimp only
  split
  · exact hk
  · exact hk

theorem freed_id (h : Hart) (now fid : Nat) (conv : Bool) : (h.freed now fid conv).id = h.id :=
  (batchFreed_frame h fid conv).1

theorem freed_park (h : Hart) (now fid : Nat) (conv : Bool) : (h.freed now fid conv).park = parkFreed fid conv h.park :=
  congrArg (parkFreed fid conv) (batchFreed_frame h fid conv).2

theorem parkFreed_under {p : Park} {fid : Nat} (hf : p.fid = fid) (hp : p.conv = false) (conv : Bool) :
    parkFreed fid conv (some p) = if conv then some { p with conv := true } else none := by
  simp [parkFreed, parkAfter, hf, hp]

theorem kvRetry_of_none {s : State} (h : s.kvMarks = []) : s.kvRetry = s := by
  simp only [State.kvRetry, h, List.filter_nil, List.foldl_nil]
  rw [← h]

theorem hart?_map {s t : State} {f : Hart → Hart} (ht : t.harts = s.harts.map f) (hf : ∀ h, (f h).id = h.id) (n : Nat) :
    t.hart? n = (s.hart? n).map f := by
  rw [State.hart?, State.hart?, ht, List.find?_map]
  simp only [Function.comp_def, hf]

section
variable {s : State} (hm : s.kvMarks = []) (fid : Nat) (conv : Bool)
include hm

/-- With no marking due, the fault is gone from the list. -/
theorem freeFault_faults : (s.freeFault fid conv).faults = s.faults.filter (fun o => o.fid != fid) :=
  congrArg State.faults (kvRetry_of_none (by exact hm))

/-- With no marking due, every hart's parked requests are freed. -/
theorem freeFault_hart? (n : Nat) :
    (s.freeFault fid conv).hart? n = (s.hart? n).map (fun h => h.freed s.dev.devtime.toNat fid conv) :=
  hart?_map (congrArg State.harts (kvRetry_of_none (by exact hm))) (fun h => freed_id h _ _ _) n

end

/-! FREPLAY and FCONV. -/

/-- The state in which a command on fault entry fid has recorded its outcome in FRSTAT and its hart goes on. -/
def faultRecorded (fn fid : Nat) (stale : Bool) (s : State) : State :=
  (s.modFn fn (fun g => { g with frstat := frstatAfter g.frstat fid stale })).skip

theorem faultM_ok {s : State} {h : Hart} {a : Nat} (hc : s.curHart = some h) (hl : h.level ≠ 0) (ha : h.usable a = true)
    (hx : (h.rd a).toNat < 1024) (hw : h.wbuf = []) (conv : Bool) (fn8 : Nat) :
    faultM conv fn8 a s =
      let fid := (h.rd a).toNat
      let isOpen := s.faults.any (fun o => o.fid == fid && o.fn == h.fn)
      .ok () (faultRecorded h.fn fid (!isOpen) (if isOpen then s.freeFault fid conv else s)) := by
  have hrange : ¬ BF (h.rd a) 10 54 ≠ 0 := not_BF_high_ne_zero (n := 10) (by decide) hx
  have hfid : BF (h.rd a) 0 10 = (h.rd a).toNat := (BF_low _).trans (Nat.mod_eq_of_lt hx)
  unfold faultM
  rw [M.bind_ok (needLevel_ok hc (Nat.one_le_iff_ne_zero.mpr hl) _), M.bind_ok (rdS_ok hc (usable_owed ha))]
  simp only [if_neg hrange, usable_rdP ha]
  refine (M.bind_ok (show consume false s = .ok () s from rfl)).trans ?_
  rw [M.bind_ok (drained_ok hc hw), M.bind_ok (theHart_ok hc), M.bind_ok (get_ok s), hfid]
  rfl

theorem frstatAfter_eq (old : Word) (fid : Nat) (stale : Bool) :
    frstatAfter old fid stale = BitVec.ofNat 64 (fid + (if stale then 65536 else 0)
      + (if stale then min 65535 (old.toNat / 2 ^ 32 % 2 ^ 16 + 1) else old.toNat / 2 ^ 32 % 2 ^ 16) * 2 ^ 32) := by
  rw [frstatAfter, BF_eq_div_mod]
  cases stale <;> rfl

/-- Settles O34: either command frees an open fault of its function and records it, and records one that is not open as stale; a freed fault leaves
the list, and a hart parked under it goes on or is marked. -/
theorem faultCommands : Obligations.FaultCommands := by
  unfold Obligations.FaultCommands
  intro s h a hc hl ha hx hw fid isOpen done
  have hiff : s.faults.any (fun o => o.fid == fid && o.fn == h.fn) = true ↔ isOpen := by
    simp [isOpen]
  have hdone : ∀ (t : State) (stale : Bool), faultRecorded h.fn fid stale t = done t stale := fun t stale => by
    simp only [faultRecorded, frstatAfter_eq, done]
  have hrun := fun conv fn8 => faultM_ok hc hl ha hx hw conv fn8
  refine ⟨fun ho => ?isOpen, fun ho => ?stale, fun conv hm => ⟨fun o ho => ?gone, fun n x p hn hp hf hv => ?parked⟩⟩
  case isOpen =>
    simp only [show (h.rd a).toNat = fid from rfl, hiff.mpr ho, Bool.not_true, if_true, hdone] at hrun
    exact ⟨finish_ok (hrun false 5), finish_ok (hrun true 6)⟩
  case stale =>
    simp only [show (h.rd a).toNat = fid from rfl, (Bool.not_eq_true _).mp (mt hiff.mp ho), Bool.not_false, Bool.false_eq_true,
      if_false, hdone] at hrun
    exact ⟨finish_ok (hrun false 5), finish_ok (hrun true 6)⟩
  case gone =>
    rw [freeFault_faults hm, List.mem_filter] at ho
    simpa using ho.2
  case parked =>
    refine ⟨x.freed s.dev.devtime.toNat fid conv, ?_, ?_⟩
    · rw [freeFault_hart? hm, hn, Option.map_some]
    · rw [freed_park, hp, parkFreed_under hf hv]

end Sys2Proof.Proofs
end

section
/-! SUPPORT. The issue of Garnet commands (R122, R132, R377, R378), and O54. -/

namespace Sys2Proof.Proofs

open Sys2Proof Sys2Proof.Machine

/-! Steps that Garnet words share. -/

theorem kvAcc_ok {s : State} {h : Hart} (hc : s.curHart = some h) : kvAcc s = .ok (s.accOf h 4) s := by
  unfold kvAcc
  rw [M.bind_ok (theHart_ok hc)]
  rfl

theorem kvIdle_ok {s : State} {f : Nat} (hf : (s.fn f).kvBusy = false) : kvIdle f s = .ok () s := by
  unfold kvIdle
  rw [M.bind_ok (get_ok s), hf]
  rfl

theorem kvIdle_wait {s : State} {f : Nat} (hf : (s.fn f).kvBusy = true) : kvIdle f s = .error .wait s := by
  unfold kvIdle
  rw [M.bind_ok (get_ok s), hf]
  rfl

theorem q5Room_ok {s : State} {h : Hart} (hc : s.curHart = some h) (hq : ((h.outq[1]?).getD []).length < 16) : q5Room s = .ok () s := by
  unfold q5Room
  rw [M.bind_ok (theHart_ok hc), decide_eq_true hq]
  rfl

/-- The status word of a command is in q1, and its hart goes on. -/
def answered (s : State) (st : Nat) : State :=
  s.modHart s.cur (fun k => (pushed 1 { w := BitVec.ofNat 64 st, query := false, after := [], res := some (BitVec.ofNat 64 st) } k).advance)

theorem pushStatus_advance {s : State} (hroom : ∃ k, s.curHart = some k ∧ k.hasRoom 1) (st : Nat) :
    (pushStatus st >>= fun _ => advance) s = .ok () (answered s st) := by
  obtain ⟨k, hc, hk⟩ := hroom
  refine (M.bind_ok (pushCmd_ok hc hk _)).trans ((advance_ok _).trans (congrArg _ ?_))
  exact State.modHart_modHart s s.cur (pushed 1 _) Hart.advance (fun _ => rfl)

/-! Sequence operands (R377). -/

section
variable {s : State} {h : Hart} {b n : Nat} (hc : s.curHart = some h) (hb : h.usable b = true) (hn : n ≤ 64)
include hc hb hn

theorem seqOperand_ok (hx : (h.rd b).toNat < 2 ^ n) : seqOperand b n s = .ok (h.rd b) s := by
  unfold seqOperand
  rw [M.bind_ok (rdS_ok hc (usable_owed hb))]
  simp only [if_neg (not_BF_high_ne_zero hn hx), usable_rdP hb]
  rfl

theorem seqOperand_trap (hx : 2 ^ n ≤ (h.rd b).toNat) :
    seqOperand b n s = .error (.trap { code := 0x03, val := h.rd b }) s := by
  unfold seqOperand
  rw [M.bind_ok (rdS_ok hc (usable_owed hb))]
  simp only [if_pos (BF_high_ne_zero hn hx)]
  rfl

end

/-! A command that acts at issue (R378). -/

section
variable {s : State} {h : Hart} (hc : s.curHart = some h) (hw : h.wbuf = []) (hp : h.performed = true)
  (hq : ((h.outq[1]?).getD []).length < 16) (hr : h.hasRoom 1)
include hc hw hp hq hr

/-- With room and every earlier access performed, only the pool can hold a command up. -/
theorem kvCommand_eq (x : Acc → M Nat) :
    kvCommand x s = (kvIdle h.fn >>= fun _ => x (s.accOf h 4) >>= fun st => pushStatus st >>= fun _ => advance) s := by
  unfold kvCommand
  rw [M.bind_ok (q5Room_ok hc hq), M.bind_ok (released_ok hc hw hp), M.bind_ok (show statusRoom s = .ok () s from fifoRoom_ok hc hr),
    M.bind_ok (kvAcc_ok hc)]
  rfl

theorem kvCommand_ok {x : Acc → M Nat} {s1 : State} {st : Nat} (hi : (s.fn h.fn).kvBusy = false)
    (hx : x (s.accOf h 4) s = .ok st s1) (hroom : ∃ k, s1.curHart = some k ∧ k.hasRoom 1) :
    kvCommand x s = .ok () (answered s1 st) := by
  rw [kvCommand_eq hc hw hp hq hr, M.bind_ok (kvIdle_ok hi), M.bind_ok hx, pushStatus_advance hroom]

theorem kvCommand_busy (x : Acc → M Nat) (hi : (s.fn h.fn).kvBusy = true) : kvCommand x s = .error .wait s := by
  rw [kvCommand_eq hc hw hp hq hr, M.bind_error (kvIdle_wait hi)]

theorem kvCommand_wait {x : Acc → M Nat} (hi : (s.fn h.fn).kvBusy = false) (hx : x (s.accOf h 4) s = .error .wait s) :
    kvCommand x s = .error .wait s := by
  rw [kvCommand_eq hc hw hp hq hr, M.bind_ok (kvIdle_ok hi), M.bind_error hx]

end

/-! The commands' own parts between the pool's check and their status. -/

/-- KVMAP writes what its command answered, an address or a status with bit 63 set, and its hart goes on. -/
def mapAnswer (a : Nat) (r : Except Nat Nat) : M Unit := do
  match r with
  | .ok va => wrS a (BitVec.ofNat 64 va)
  | .error st => wrS a (BitVec.ofNat 64 (2 ^ 63 + st))
  advance

/-- The word that KVMAP writes for an answer. -/
def mapWord : Except Nat Nat → Word
  | .ok va => BitVec.ofNat 64 va
  | .error st => BitVec.ofNat 64 (2 ^ 63 + st)

theorem mapAnswer_ok {s : State} {a : Nat} (hf : ∃ k, s.curHart = some k ∧ k.owed a = false) (r : Except Nat Nat) :
    mapAnswer a r s = .ok () (s.result a (mapWord r)) := by
  obtain ⟨k, hc, hd⟩ := hf
  cases r with
  | ok va => exact wrS_advance hc hd _ _
  | error st => exact wrS_advance hc hd _ _

/-- KVREL once its pool is ready: it waits for the parked KVLDs on its sequence. -/
def relPart (q : Nat) (acc : Acc) : M Nat := do
  let s ← get
  waitUnless (!s.kvldOpen acc.fn q)
  kvStatus acc (kvRelease acc acc.fn q)

theorem relPart_closed {s : State} {acc : Acc} {q : Nat} (h : s.kvldOpen acc.fn q = false) :
    relPart q acc s = kvStatus acc (kvRelease acc acc.fn q) s := by
  unfold relPart
  rw [M.bind_ok (get_ok s), h]
  rfl

theorem relPart_open {s : State} {acc : Acc} {q : Nat} (h : s.kvldOpen acc.fn q = true) : relPart q acc s = .error .wait s := by
  unfold relPart
  rw [M.bind_ok (get_ok s), h]
  rfl

/-- KVCOW once its pool is ready: the pages that its reads found poisoned are told of. -/
def cowPart (q p : Nat) (acc : Acc) : M Nat := do
  match ← kvRun acc (kvCow acc q p) with
  | .ok bad => do
    modify (fun s => bad.foldl (fun (s : State) x => s.kvNotify x.1 x.2.1 x.2.2) s)
    pure 0
  | .error st => pure st

theorem cowPart_status {s s1 : State} {acc : Acc} {q p st : Nat} (h : kvRun acc (kvCow acc q p) s = .ok (.error st) s1) :
    cowPart q p acc s = .ok st s1 := by
  unfold cowPart
  rw [M.bind_ok h]
  rfl

theorem cowPart_done {s s0 : State} {acc : Acc} {q p : Nat} {bad : List (Nat × Nat × List Nat)}
    (h : kvRun acc (kvCow acc q p) s = .ok (.ok bad) s0) :
    cowPart q p acc s = .ok 0 (bad.foldl (fun (t : State) z => t.kvNotify z.1 z.2.1 z.2.2) s0) := by
  unfold cowPart
  rw [M.bind_ok h]
  rfl

/-- KVFORK.M once the pool of its own function is ready: it waits for the pool of its destination. -/
def forkMPart (f d q : Nat) (acc : Acc) : M Nat := do
  kvIdle f
  kvStatus acc (kvForkM acc f d q)

/-- The check of a KVFORK.M destination: bits above its fields, or no function of 1 to 64. -/
theorem badDestination_iff (x : Word) : (BF x 27 37 ≠ 0 ∨ BF x 20 7 = 0 ∨ 64 < BF x 20 7)
    ↔ 2 ^ 27 ≤ x.toNat ∨ x.toNat / 2 ^ 20 % 128 = 0 ∨ 64 < x.toNat / 2 ^ 20 % 128 := by
  rw [show BF x 20 7 = x.toNat / 2 ^ 20 % 128 from BF_eq_div_mod x 20 7, ← Nat.not_lt]
  exact or_congr (not_congr (BF_high_eq_zero_iff (n := 27) (by decide) x)) Iff.rfl

/-! The words up to their command, where their operands are in range. -/

theorem finish_congr {x y : M Unit} {s : State} (h : x s = y s) : finish x s = finish y s := by
  rw [finish, finish, h]

section
variable {s : State} {h : Hart} {b : Nat} (hc : s.curHart = some h) (hb : h.usable b = true)
include hc hb

/-- KVFORK with its destination in range goes on to its source. -/
theorem exec_kvfork_source {c : Nat} (hx : (h.rd b).toNat < 2 ^ 24) :
    exec (.kvfork b c) s = finish (seqOperand c 24 >>= fun x => kvCommand (fun acc =>
      kvStatus acc (kvFork acc ((h.rd b).toNat % 2 ^ 20) (x.toNat % 2 ^ 20)))) s := by
  refine finish_congr ((M.bind_ok (rdS_ok hc (usable_owed hb))).trans ?_)
  simp only [if_neg (not_BF_high_ne_zero (n := 24) (by decide) hx), usable_rdP hb, BF_low]
  rfl

section
variable {c : Nat} (hcu : h.usable c = true)
include hcu

theorem exec_kvmap {a : Nat} (hd : h.owed a = false) (hw : h.wbuf = []) (hp : h.performed = true) (hr : h.hasRoom 1)
    (hx : (h.rd b).toNat < 2 ^ 24) :
    exec (.kvmap a b c) s = finish (kvIdle h.fn >>= fun _ =>
      kvRun (s.accOf h 4) (kvMap (s.accOf h 4) ((h.rd b).toNat % 2 ^ 20) ((h.rd b).toNat / 2 ^ 20) (h.rd c).toNat) >>= mapAnswer a) s := by
  have hg : BF (h.rd b) 20 4 = (h.rd b).toNat / 2 ^ 20 := by rw [BF_eq_div_mod, Nat.mod_eq_of_lt (by omega)]
  refine finish_congr (x := kvmapM a b c) ?_
  unfold kvmapM
  rw [M.bind_ok (destFree_ok hc hd), M.bind_ok (seqOperand_ok hc hb (by decide) hx), M.bind_ok (useS_ok hc hcu),
    M.bind_ok (released_ok hc hw hp), M.bind_ok (fifoRoom_ok hc hr), M.bind_ok (kvAcc_ok hc), hg, BF_low]
  rfl

theorem exec_kvfork (hx : (h.rd b).toNat < 2 ^ 24) (hy : (h.rd c).toNat < 2 ^ 24) :
    exec (.kvfork b c) s = finish (kvCommand (fun acc =>
      kvStatus acc (kvFork acc ((h.rd b).toNat % 2 ^ 20) ((h.rd c).toNat % 2 ^ 20)))) s :=
  (exec_kvfork_source hc hb hx).trans (finish_congr (M.bind_ok (seqOperand_ok hc hcu (by decide) hy)))

theorem exec_kvcow (hl : h.level ≠ 0) (hx : (h.rd b).toNat < 2 ^ 24) :
    exec (.kvcow b c) s = finish (kvCommand (cowPart ((h.rd b).toNat % 2 ^ 20) (h.rd c).toNat)) s := by
  refine finish_congr (x := kvcowM b c) ?_
  unfold kvcowM
  rw [M.bind_ok (needLevel_ok hc (Nat.one_le_iff_ne_zero.mpr hl) _), M.bind_ok (seqOperand_ok hc hb (by decide) hx),
    M.bind_ok (useS_ok hc hcu), BF_low]
  rfl

/-- KVFORK.M with its destination in range goes on to its source. -/
theorem exec_kvforkM_source (hl : 2 ≤ h.level) (hx : (h.rd b).toNat < 2 ^ 27) (hf : 1 ≤ (h.rd b).toNat / 2 ^ 20)
    (hf' : (h.rd b).toNat / 2 ^ 20 ≤ 64) :
    exec (.kvforkM b c) s = finish (seqOperand c 24 >>= fun x => kvCommand
      (forkMPart ((h.rd b).toNat / 2 ^ 20) ((h.rd b).toNat % 2 ^ 20) (x.toNat % 2 ^ 20))) s := by
  have hdest : BF (h.rd b) 20 7 = (h.rd b).toNat / 2 ^ 20 := by rw [BF_eq_div_mod, Nat.mod_eq_of_lt (by omega)]
  refine finish_congr (x := kvforkMM b c) ?_
  unfold kvforkMM
  rw [M.bind_ok (needLevel_ok hc hl _), M.bind_ok (rdS_ok hc (usable_owed hb)), M.bind_ok (rdS_ok hc (usable_owed hcu))]
  simp only [if_neg (mt (badDestination_iff (h.rd b)).mp (show ¬ _ by omega))]
  simp only [usable_rdP hb, usable_rdP hcu, hdest, BF_low]
  rfl

theorem exec_kvforkM (hl : 2 ≤ h.level) (hx : (h.rd b).toNat < 2 ^ 27) (hf : 1 ≤ (h.rd b).toNat / 2 ^ 20)
    (hf' : (h.rd b).toNat / 2 ^ 20 ≤ 64) (hy : (h.rd c).toNat < 2 ^ 24) :
    exec (.kvforkM b c) s = finish (kvCommand
      (forkMPart ((h.rd b).toNat / 2 ^ 20) ((h.rd b).toNat % 2 ^ 20) ((h.rd c).toNat % 2 ^ 20))) s :=
  (exec_kvforkM_source hc hb hcu hl hx hf hf').trans (finish_congr (M.bind_ok (seqOperand_ok hc hcu (by decide) hy)))

end

theorem exec_kvrel (hx : (h.rd b).toNat < 2 ^ 24) :
    exec (.kvrel b) s = finish (kvCommand (relPart ((h.rd b).toNat % 2 ^ 20))) s := by
  refine finish_congr ((M.bind_ok (seqOperand_ok hc hb (by decide) hx)).trans ?_)
  rw [BF_low]
  rfl

end

/-! Operands out of range are the illegal-format trap (R377). -/

section
variable {s : State} {h : Hart} {b c : Nat} (hc : s.curHart = some h) (hb : h.usable b = true)
include hc hb

section
variable (hx : 2 ^ 24 ≤ (h.rd b).toNat)
include hx

theorem exec_kvmap_trap {a : Nat} (hd : h.owed a = false) : exec (.kvmap a b c) s = .next (s.trapTo 0x03 (h.rd b)) := by
  refine finish_trapTo (x := kvmapM a b c) ?_
  unfold kvmapM
  rw [M.bind_ok (destFree_ok hc hd), M.bind_error (seqOperand_trap hc hb (by decide) hx)]

theorem exec_kvfork_trap : exec (.kvfork b c) s = .next (s.trapTo 0x03 (h.rd b)) := by
  refine finish_trapTo ((M.bind_ok (rdS_ok hc (usable_owed hb))).trans ?_)
  simp only [if_pos (BF_high_ne_zero (n := 24) (by decide) hx)]
  rfl

theorem exec_kvrel_trap : exec (.kvrel b) s = .next (s.trapTo 0x03 (h.rd b)) :=
  finish_trapTo (M.bind_error (seqOperand_trap hc hb (by decide) hx))

theorem exec_kvcow_trap (hl : h.level ≠ 0) : exec (.kvcow b c) s = .next (s.trapTo 0x03 (h.rd b)) := by
  refine finish_trapTo (x := kvcowM b c) ?_
  unfold kvcowM
  rw [M.bind_ok (needLevel_ok hc (Nat.one_le_iff_ne_zero.mpr hl) _), M.bind_error (seqOperand_trap hc hb (by decide) hx)]

end

section
variable (hcu : h.usable c = true)
include hcu

theorem exec_kvfork_trap_source (hx : (h.rd b).toNat < 2 ^ 24) (hy : 2 ^ 24 ≤ (h.rd c).toNat) :
    exec (.kvfork b c) s = .next (s.trapTo 0x03 (h.rd c)) :=
  (exec_kvfork_source hc hb hx).trans (finish_trapTo (M.bind_error (seqOperand_trap hc hcu (by decide) hy)))

theorem exec_kvforkM_trap (hl : 2 ≤ h.level)
    (hx : 2 ^ 27 ≤ (h.rd b).toNat ∨ (h.rd b).toNat / 2 ^ 20 = 0 ∨ 64 < (h.rd b).toNat / 2 ^ 20 % 128 ∨ (h.rd b).toNat / 2 ^ 20 % 128 = 0) :
    exec (.kvforkM b c) s = .next (s.trapTo 0x03 (h.rd b)) := by
  refine finish_trapTo (x := kvforkMM b c) ?_
  unfold kvforkMM
  rw [M.bind_ok (needLevel_ok hc hl _), M.bind_ok (rdS_ok hc (usable_owed hb)), M.bind_ok (rdS_ok hc (usable_owed hcu))]
  simp only [if_pos ((badDestination_iff (h.rd b)).mpr (show _ by omega))]
  rfl

theorem exec_kvforkM_trap_source (hl : 2 ≤ h.level) (hx : (h.rd b).toNat < 2 ^ 27) (hf : 1 ≤ (h.rd b).toNat / 2 ^ 20)
    (hf' : (h.rd b).toNat / 2 ^ 20 ≤ 64) (hy : 2 ^ 24 ≤ (h.rd c).toNat) :
    exec (.kvforkM b c) s = .next (s.trapTo 0x03 (h.rd c)) :=
  (exec_kvforkM_source hc hb hcu hl hx hf hf').trans (finish_trapTo (M.bind_error (seqOperand_trap hc hcu (by decide) hy)))

end

end

/-- Settles O54: each word comes down to its command, which waits for the pool or answers its status; an operand out of range is the trap. -/
theorem kvCommands : Obligations.KvCommands := by
  unfold Obligations.KvCommands
  intro s h a b c hc hb hcu hw hp acc x y free room answer ready
  have hbusy {i : Instr} {part : Acc → M Nat} (hr : ready) (hi : (s.fn h.fn).kvBusy = true) (he : exec i s = finish (kvCommand part) s) :
      exec i s = .next s := he.trans (finish_wait (kvCommand_busy hc hw hp hr.1 hr.2 part hi))
  refine ⟨fun hi => ⟨fun s1 hd hr hx hf => ?mapped, fun st s1 hr hroom => ?commands⟩,
    fun hx => ⟨exec_kvfork_trap hc hb hx, exec_kvrel_trap hc hb hx, exec_kvmap_trap hc hb hx, exec_kvcow_trap hc hb hx⟩,
    exec_kvfork_trap_source hc hb hcu, exec_kvforkM_trap hc hb hcu, exec_kvforkM_trap_source hc hb hcu,
    fun hi => ⟨fun hd hr hx => ?mapBusy, fun hr hx => ⟨?relBusy, fun hy => ?forkBusy, fun hl => ?cowBusy⟩⟩,
    fun hl hr hx hf hf' hy hi => ?forkMBusy, fun hr hx hi ho => ?relOpen⟩
  case mapped =>
    have hrun {r : Except Nat Nat} (hv : kvRun acc (kvMap acc (x % 2 ^ 20) (x / 2 ^ 20) y) s = .ok r s1) :
        exec (.kvmap a b c) s = .next (s1.result a (mapWord r)) :=
      (exec_kvmap hc hb hcu hd hw hp hr hx).trans
        (finish_ok ((M.bind_ok (kvIdle_ok hi)).trans ((M.bind_ok hv).trans (mapAnswer_ok hf r))))
    exact ⟨fun va hv => hrun hv, fun st hv => hrun hv⟩
  case commands =>
    have hrun {i : Instr} {part : Acc → M Nat} {st : Nat} (he : exec i s = finish (kvCommand part) s) (hx : part acc s = .ok st s1) :
        exec i s = .next (answer s1 st) := he.trans (finish_ok (kvCommand_ok hc hw hp hr.1 hr.2 hi hx hroom))
    refine ⟨fun hx hy hv => ?_, fun hx ho hv => ?_, fun hl hx => ⟨fun hv => ?_, fun bad s0 hv hs => ?_⟩, fun hl hx hf hf' hy hi' hv => ?_⟩
    · exact hrun (exec_kvfork hc hb hcu hx hy) hv
    · exact hrun (exec_kvrel hc hb hx) ((relPart_closed ho).trans hv)
    · exact hrun (exec_kvcow hc hb hcu hl hx) (cowPart_status hv)
    · exact hrun (exec_kvcow hc hb hcu hl hx) (hs ▸ cowPart_done hv)
    · exact hrun (exec_kvforkM hc hb hcu hl hx hf hf' hy) ((M.bind_ok (kvIdle_ok hi')).trans hv)
  case mapBusy => exact (exec_kvmap hc hb hcu hd hw hp hr hx).trans (finish_wait (M.bind_error (kvIdle_wait hi)))
  case relBusy => exact hbusy hr hi (exec_kvrel hc hb hx)
  case forkBusy => exact hbusy hr hi (exec_kvfork hc hb hcu hx hy)
  case cowBusy => exact hbusy hr hi (exec_kvcow hc hb hcu hl hx)
  case forkMBusy =>
    have he := exec_kvforkM hc hb hcu hl hx hf hf' hy
    cases hown : (s.fn h.fn).kvBusy
    · have hdest := hi.resolve_left (by rw [hown]; exact Bool.false_ne_true)
      exact he.trans (finish_wait (kvCommand_wait hc hw hp hr.1 hr.2 hown (M.bind_error (kvIdle_wait hdest))))
    · exact hbusy hr hown he
  case relOpen => exact (exec_kvrel hc hb hx).trans (finish_wait (kvCommand_wait hc hw hp hr.1 hr.2 hi (relPart_open ho)))

end Sys2Proof.Proofs
end

section
/-! SUPPORT. What writes of the device's own, requests that leave it and messages of its trees leave of the harts and of memory;
HALT, YIELD, TRAP and HSTOP (R156, R386, R387, R389), and O32. -/

namespace Sys2Proof.Proofs

open Sys2Proof Sys2Proof.Machine

/-! Where the harts stand. -/

/-- What of a hart nothing changes that other units do: its number, pc and scalar registers, and whether its context is saved. -/
structure Standing where
  id : Nat
  pc : Word
  s : Vector Word 32
  saved : Bool

/-- Where a hart stands. -/
def standing (h : Hart) : Standing := { id := h.id, pc := h.pc, s := h.s, saved := h.saved }

/-- Where the harts stand, and which of them is the current one. -/
def stands (s : State) : List Standing × Nat := (s.harts.map standing, s.cur)

/-- The same, with memory. -/
def calm (s : State) : (List Standing × Nat) × Memory := (stands s, s.mem)

theorem calm_of_map {s t : State} {f : Hart → Hart} (hh : t.harts = s.harts.map f) (hc : t.cur = s.cur) (hm : t.mem = s.mem)
    (hf : ∀ h, standing (f h) = standing h) : calm t = calm s := by
  rw [calm, calm, stands, stands, hh, hc, hm, List.map_map]
  exact congrArg (fun l => ((l, s.cur), s.mem)) (List.map_congr_left fun x _ => hf x)

theorem calm_modHart (s : State) (n : Nat) {f : Hart → Hart} (hf : ∀ h, standing (f h) = standing h) :
    calm (s.modHart n f) = calm s := by
  refine calm_of_map (Laws.modHart_harts s n f) rfl rfl fun h => ?_
  split
  · exact hf h
  · rfl

theorem stands_modHart (s : State) (n : Nat) {f : Hart → Hart} (hf : ∀ h, standing (f h) = standing h) :
    stands (s.modHart n f) = stands s :=
  congrArg Prod.fst (calm_modHart s n hf)

theorem hart?_map_standing (s : State) (n : Nat) : (s.hart? n).map standing = (stands s).1.find? (fun x => x.id == n) := by
  rw [stands, List.find?_map]
  rfl

/-- A hart stands where it stood. -/
theorem hart?_of_stands {s t : State} (ht : stands t = stands s) {n : Nat} {h : Hart} (hn : s.hart? n = some h) :
    ∃ k, t.hart? n = some k ∧ standing k = standing h := by
  have hm : (t.hart? n).map standing = some (standing h) := by
    rw [hart?_map_standing, ht, ← hart?_map_standing, hn, Option.map_some]
  exact Option.map_eq_some_iff.mp hm

/-- A hart whose context is not saved has still none saved. -/
theorem unsaved_of_calm {s t : State} (ht : calm t = calm s) {n : Nat} (hs : ∀ h, s.hart? n = some h → h.saved = false) :
    ∀ k, t.hart? n = some k → k.saved = false := fun k hk => by
  obtain ⟨h, hh, hst⟩ := hart?_of_stands (congrArg Prod.fst ht).symm hk
  exact (congrArg Standing.saved hst).symm.trans (hs h hh)

/-- What each step of a loop leaves, the loop leaves. -/
theorem foldl_leaves {α β : Type} {p : State → β} {f : State → α → State} {l : List α} (hf : ∀ s, ∀ x ∈ l, p (f s x) = p s)
    (s : State) : p (l.foldl f s) = p s :=
  List.foldlRecOn l f (motive := fun t => p t = p s) rfl fun t ht x hx => (hf t x hx).trans ht

/-! Writes of the device's own (R27, R62, R101). -/

theorem stands_commitWrite (s : State) (a : Nat) (bs : List Byte) (ps : List Bool) (alloc : Bool) :
    stands (s.commitWrite a bs ps alloc) = stands s :=
  foldl_leaves (fun t x _ => by
    obtain ⟨_, _, _, _, _, _, _, h⟩ := commitLine_frame alloc t (x.1 / 64) [x]
    rw [State.commitPiece, h]
    rfl) s

theorem stands_msix (s : State) (fn v : Nat) : stands (s.msix fn v) = stands s := by
  unfold State.msix
  split
  · rfl
  · split <;> rfl

theorem stands_homeOpRun (s : State) (op : HomeOp) : stands (s.homeOpRun op) = stands s := by
  cases op with
  | bytes a bs irq =>
    cases irq with
    | none => exact stands_commitWrite s a bs _ true
    | some v => exact (stands_msix _ v.1 v.2).trans (stands_commitWrite s a bs _ true)
  | heat frame age => exact stands_commitWrite s _ _ _ true
  | farHeat a => exact stands_commitWrite s _ _ _ true

theorem stands_homeOp (s : State) (op : HomeOp) : stands (s.homeOp op) = stands s := by
  unfold State.homeOp
  dsimp only
  split
  · exact stands_homeOpRun s op
  · rfl

theorem stands_numberAccess (s : State) (die : Nat) (x : Xl) : stands (s.numberAccess die x) = stands s := by
  unfold State.numberAccess
  dsimp only
  split
  · split
    · exact stands_homeOp _ _
    · exact stands_homeOp _ _
    · rfl
  · rfl

theorem stands_numberLines (s : State) (acc : Acc) (x : Xl) (pa n : Nat) : stands (s.numberLines acc x pa n) = stands s :=
  foldl_leaves (fun t _ _ => stands_numberAccess t acc.die _) s

/-! Writing a context image (R229, R233). -/

/-- A computation that answers leaves the harts where they stand. -/
def LeavesHarts {α : Type} (x : M α) : Prop := ∀ s a t, x s = .ok a t → stands t = stands s

namespace LeavesHarts

variable {α β : Type}

theorem pure (a : α) : LeavesHarts (pure a : M α) := fun _ _ _ h => by cases h; rfl

theorem ite {c : Prop} [Decidable c] {x y : M α} (hx : LeavesHarts x) (hy : LeavesHarts y) : LeavesHarts (if c then x else y) := by
  split
  · exact hx
  · exact hy

theorem throw (e : Stop) : LeavesHarts (throw e : M α) := fun _ _ _ h => by cases h

theorem bind_throw (x : M β) (e : Stop) : LeavesHarts (x >>= fun _ => (MonadExcept.throw e : M α)) := fun s a t h => by
  obtain ⟨_, _, _, ht⟩ := M.bind_ok_inv h
  cases ht

theorem modify {f : State → State} (hf : ∀ s, stands (f s) = stands s) : LeavesHarts (modify f : M Unit) :=
  fun s _ _ h => by cases h; exact hf s

theorem bind {x : M α} {f : α → M β} (hx : LeavesHarts x) (hf : ∀ a, LeavesHarts (f a)) : LeavesHarts (x >>= f) := fun s b t h => by
  obtain ⟨a, u, hu, ht⟩ := M.bind_ok_inv h
  exact (hf a u b t ht).trans (hx s a u hu)

theorem get_bind {f : State → M β} (hf : ∀ s, LeavesHarts (f s)) : LeavesHarts (get >>= f) :=
  bind (fun _ _ _ h => by cases h; rfl) hf

theorem foldlM {f : β → α → M β} (hf : ∀ b a, LeavesHarts (f b a)) (l : List α) (b : β) : LeavesHarts (l.foldlM f b) := by
  induction l generalizing b with
  | nil => exact pure b
  | cons a l ih => rw [List.foldlM_cons]; exact bind (hf b a) ih

end LeavesHarts

theorem leavesHarts_snoopClear (a n : Nat) : LeavesHarts (snoopClear a n) := by
  unfold snoopClear
  exact .get_bind fun s => .ite (.bind_throw _ _) (.pure ())

theorem leavesHarts_homeWrite (a : Nat) (bs : List Byte) (ps : List Bool) (alloc : Bool) : LeavesHarts (homeWrite a bs ps alloc) := by
  have hrest : LeavesHarts (snoopClear a bs.length >>= fun _ => (modify (fun s => s.commitWrite a bs ps alloc) : M Unit)) :=
    .bind (leavesHarts_snoopClear _ _) fun _ => .modify fun s => stands_commitWrite s a bs ps alloc
  unfold homeWrite
  exact .ite (.bind (.throw _) fun _ => hrest) hrest

theorem leavesHarts_setAD (l : Leaf) (wr : Bool) : LeavesHarts (setAD l wr) := by
  unfold setAD
  exact .ite (.bind (leavesHarts_homeWrite _ _ _ _) fun _ => .pure _) (.pure _)

theorem leavesHarts_fresh (acc : Acc) (va : Nat) (wr : Bool) (kinds : List Nat) (ignMig : Bool) (s : State) (user : Bool) :
    LeavesHarts (xlateTry.fresh acc va wr kinds ignMig s user) := by
  unfold xlateTry.fresh
  split
  · exact .pure _
  · split
    · exact .pure _
    · exact .bind (leavesHarts_setAD _ _) fun _ => .bind (.modify fun _ => rfl) fun _ => .pure _

theorem leavesHarts_xlateTry (acc : Acc) (va : Nat) (wr : Bool) (kinds : List Nat) (ignMig : Bool) :
    LeavesHarts (xlateTry acc va wr kinds ignMig) := by
  have hfresh := leavesHarts_fresh acc va wr kinds ignMig
  unfold xlateTry
  refine .get_bind fun s => ?_
  dsimp only
  split
  · split
    · exact .pure _
    · exact .ite (.ite (.bind (leavesHarts_setAD _ _) fun _ => .bind (.modify fun _ => rfl) fun _ => .pure _) (hfresh _ _)) (.pure _)
  · exact hfresh _ _

theorem leavesHarts_xlateQuiet (acc : Acc) (va : Nat) (wr : Bool) (kinds : List Nat) : LeavesHarts (xlateQuiet acc va wr kinds) := by
  unfold xlateQuiet
  refine .ite (.pure _) (.bind (leavesHarts_xlateTry _ _ _ _ _) fun r => ?_)
  cases r <;> exact .pure _

theorem leavesHarts_saveBytes (acc : Acc) (va : Nat) (bs : List Byte) : LeavesHarts (saveBytes acc va bs) := by
  unfold saveBytes
  refine .foldlM (fun bad p => ?_) _ _
  cases bad with
  | some b => exact .pure _
  | none =>
    refine .bind (leavesHarts_xlateQuiet _ _ _ _) fun r => ?_
    cases r with
    | none => exact .pure _
    | some x =>
      dsimp only
      split
      · exact .bind (.modify fun s => (stands_numberLines _ _ _ _ _).trans (stands_homeOp s _)) fun _ => .pure _
      · exact .pure _

/-! Pushes and subscriptions (R357, R358, R360). -/

/-- A hart with other slots. -/
def reslotted (p : Push) (h : Hart) : Hart :=
  let r := slotPush h.slots p.slot p.value p.seq
  { h with
    slots := r.1
    slotPoison := match r.2 with
      | some i => slotSet h.slotPoison i 1 (b2n p.poison)
      | none => h.slotPoison }

/-- A push changes its hart's slots, and where the hart's context is saved it may write their place in the image too. -/
theorem deliverPush_cases (s : State) (p : Push) :
    s.deliverPush p = s.modHart p.hart (reslotted p)
      ∨ ∃ k acc va bs bad, (s.modHart p.hart (reslotted p)).hart? p.hart = some k ∧ k.saved = true
        ∧ saveBytes acc va bs (s.modHart p.hart (reslotted p)) = .ok bad (s.deliverPush p) := by
  generalize hu : s.deliverPush p = u
  unfold State.deliverPush at hu
  dsimp only at hu
  split at hu
  case h_1 k hk =>
    cases hsv : k.saved
    · simp only [hsv, Bool.not_false, if_true] at hu
      exact .inl hu.symm
    · simp only [hsv, Bool.not_true, Bool.false_eq_true, if_false] at hu
      split at hu
      case h_1 bad t hx =>
        subst hu
        exact .inr ⟨k, _, _, _, bad, hk, hsv, hx⟩
      case h_2 => exact .inl hu.symm
  case h_2 => exact .inl hu.symm

theorem stands_deliverPush (s : State) (p : Push) : stands (s.deliverPush p) = stands s := by
  have hm : stands (s.modHart p.hart (reslotted p)) = stands s := stands_modHart s p.hart fun _ => rfl
  obtain h | ⟨k, acc, va, bs, bad, -, -, h⟩ := deliverPush_cases s p
  · rw [h, hm]
  · exact (leavesHarts_saveBytes acc va bs _ _ _ h).trans hm

/-- A push to a hart whose context is not saved goes to its slots alone. -/
theorem calm_deliverPush {s : State} {p : Push} (hs : ∀ h, s.hart? p.hart = some h → h.saved = false) :
    calm (s.deliverPush p) = calm s := by
  have hm : calm (s.modHart p.hart (reslotted p)) = calm s := calm_modHart s p.hart fun _ => rfl
  obtain h | ⟨k, -, -, -, -, hk, hsv, -⟩ := deliverPush_cases s p
  · rw [h, hm]
  · exact absurd hsv (by rw [unsaved_of_calm hm hs k hk]; decide)

theorem stands_deliverAll (s : State) (hart : Nat) : stands (s.deliverAll hart) = stands s :=
  (foldl_leaves (fun t p _ => stands_deliverPush t p) _).trans rfl

theorem calm_deliverAll {s : State} {hart : Nat} (hs : ∀ h, s.hart? hart = some h → h.saved = false) :
    calm (s.deliverAll hart) = calm s := by
  refine List.foldlRecOn _ _ (motive := fun t => calm t = calm s) rfl fun t ht p hp => ?_
  have hph : p.hart = hart := by simpa using (List.mem_filter.mp hp).2
  exact (calm_deliverPush (unsaved_of_calm ht (hph ▸ hs))).trans ht

/-- A flit changes what the device sends out alone. -/
theorem calm_fabSend (s : State) (header : BitVec 128) (payload : Nat) : calm (s.fabSend header payload) = calm s := by
  unfold State.fabSend
  split <;> rfl

theorem calm_extSend (s : State) (acc : Acc) (q : ExtAsk) : calm (s.extSend acc q) = calm s := by
  unfold State.extSend
  dsimp only
  split
  · rfl
  · exact calm_fabSend _ _ _

theorem calm_unsubFlit (s : State) (u : Sub) : calm (s.unsubFlit u) = calm s := by
  unfold State.unsubFlit
  split
  · exact calm_extSend _ _ _
  · rfl

/-- What the end of a hart's subscriptions leaves, the pushes on their way being delivered. -/
theorem calm_unsubAll (s : State) (hart : Nat) : calm (s.unsubAll hart) = calm (s.deliverAll hart) := by
  unfold State.unsubAll
  refine (calm_modHart _ hart ?_).trans ?_
  · exact fun _ => rfl
  · exact foldl_leaves (p := calm) (fun t u _ => calm_unsubFlit t u) _

theorem unsubAll_subs (s : State) (hart : Nat) : ∀ u ∈ (s.unsubAll hart).subs, u.hart ≠ hart := fun u hu => by
  simpa using (List.mem_filter.mp hu).2

/-! Trees torn down (R59, R389). -/

theorem calm_treeSend (s : State) (kind : Nat) (t : Tree) (w : Nat) (m : TreeMsg) : calm (s.treeSend kind t w m) = calm s :=
  foldl_leaves (fun t f _ => calm_fabSend t f.1 f.2) s

theorem calm_resultAt (s : State) (tree node : Nat) (x : Nat × Nat × Nat) : calm (s.resultAt tree node x) = calm s := by
  unfold State.resultAt
  split
  · rfl
  · split
    · unfold State.leafResult
      split
      · rfl
      · exact calm_modHart _ _ fun _ => rfl
    · refine foldl_leaves (fun t c _ => ?_) s
      split
      · rfl
      · exact calm_treeSend _ _ _ _ _

theorem calm_flushDown (s : State) (tree n : Nat) : calm (s.flushDown tree n) = calm s := by
  induction n generalizing s with
  | zero => rfl
  | succ n ih =>
    unfold State.flushDown
    split
    · rfl
    · exact (ih _).trans (calm_resultAt _ _ _ _)

theorem calm_dropTree (s : State) (t : Tree) (sender : Option Nat) (all : Bool) : calm (s.dropTree t sender all) = calm s := by
  unfold State.dropTree
  dsimp only
  generalize he : List.foldl _ s _ = u
  have hu : calm u = calm s := he ▸ foldl_leaves (fun t e _ => calm_treeSend t 10 _ 1 _) s
  exact Eq.trans (calm_of_map (s := u) rfl rfl rfl fun _ => rfl) hu

theorem calm_timeoutRound (s : State) (hart tree : Nat) : calm (s.timeoutRound hart tree) = calm s := by
  unfold State.timeoutRound
  split
  · rfl
  · dsimp only
    split
    · rfl
    · split
      · exact calm_dropTree _ _ _ _
      · exact (calm_dropTree _ _ _ _).trans (calm_flushDown _ _ _)

theorem calm_timeoutRounds (s : State) (hart : Nat) : calm (s.timeoutRounds hart) = calm s := by
  unfold State.timeoutRounds
  split
  · rfl
  · exact foldl_leaves (fun t x _ => calm_timeoutRound t hart x) s

/-! A hart stopped (R73, R389). -/

/-- A hart that has stopped has nothing left to do or to wait for. -/
structure AtRest (k : Hart) : Prop where
  stopped : k.stopped = true
  queue : k.queue = []
  tokens : ∀ t ∈ k.tokens.toList, t.job = none
  park : k.park = none
  gbarWait : k.gbarWait = false
  freds : k.freds = []

/-- What a stop does to the hart itself, once its rounds and its subscriptions are gone. -/
theorem quietHart_curHart {s : State} {h : Hart} (hc : s.curHart = some h) :
    ∃ k, ((s.quietHart s.cur).modHart s.cur (fun k => { k with freds := [] })).curHart = some k ∧ standing k = standing h ∧ AtRest k := by
  unfold State.quietHart
  refine ⟨_, State.curHart_modHart (State.curHart_modHart (s := s.settleHart s.cur true) hc _ ?quietId) _ ?fredsId, rfl,
    rfl, rfl, fun t ht => ?_, rfl, rfl, rfl⟩
  case quietId => exact fun _ => rfl
  case fredsId => exact fun _ => rfl
  rw [Vector.toList_map] at ht
  obtain ⟨x, -, rfl⟩ := List.mem_map.mp ht
  rfl

/-- The current hart stopped: it stands where it stood, with nothing left to do. -/
theorem stopHart_curHart {s : State} {h : Hart} (hc : s.curHart = some h) :
    ∃ k, (s.stopHart s.cur).curHart = some k ∧ standing k = standing h ∧ AtRest k := by
  let u := (s.timeoutRounds s.cur).unsubAll s.cur
  have hu : stands u = stands s :=
    ((congrArg Prod.fst (calm_unsubAll _ _)).trans (stands_deliverAll _ _)).trans (congrArg Prod.fst (calm_timeoutRounds s s.cur))
  have hcur : u.cur = s.cur := congrArg Prod.snd hu
  obtain ⟨k, hk, hst⟩ := hart?_of_stands hu hc
  have huc : u.curHart = some k := by rw [State.curHart, hcur, hk]
  obtain ⟨x, hx, hxs, hrest⟩ := quietHart_curHart huc
  rw [hcur] at hx
  exact ⟨x, hx, hxs.trans hst, hrest⟩

/-- A hart whose context is not saved stops without a write to memory. -/
theorem stopHart_mem {s : State} {hart : Nat} (hs : ∀ h, s.hart? hart = some h → h.saved = false) : (s.stopHart hart).mem = s.mem := by
  have ht := calm_timeoutRounds s hart
  have hd : calm ((s.timeoutRounds hart).deliverAll hart) = calm (s.timeoutRounds hart) := calm_deliverAll (unsaved_of_calm ht hs)
  exact congrArg Prod.snd (((calm_unsubAll _ _).trans hd).trans ht)

theorem stopHart_subs (s : State) (hart : Nat) : ∀ u ∈ (s.stopHart hart).subs, u.hart ≠ hart :=
  unsubAll_subs (s.timeoutRounds hart) hart

/-! HALT, YIELD, TRAP, HSTOP (R156, R386, R387, R389). -/

theorem exec_yield (s : State) : exec .yield s
    = .next ({ s.modHart s.cur (fun k => { k with stamp := s.issueCtr + 1 }) with issueCtr := s.issueCtr + 1 } : State).skip :=
  finish_ok rfl

theorem exec_trap (s : State) (i : Nat) : exec (.trap i) s = .next (s.trapFrom s.skip 0x10 (BitVec.ofNat 64 i)) := by
  have hx : (advance >>= fun _ => (trapM 0x10 (BitVec.ofNat 64 i) : M Unit)) s
      = .error (.trap { code := 0x10, val := BitVec.ofNat 64 i }) s.skip := M.bind_ok (advance_ok s)
  exact finish_trap hx

section
variable {s : State} {h : Hart} (hc : s.curHart = some h)
include hc

theorem exec_halt_ends (hq : h.queue = []) (ht : ∀ t ∈ h.tokens.toList, t.job = none) :
    exec .halt s = .next (s.modHart s.cur (fun k => { k with halted := true })) := by
  have hpass : ¬(h.carry && !h.queue.isEmpty) = true := by simp [hq]
  have hidle : (h.queue.isEmpty && h.tokens.toList.all (fun t => t.job.isNone)) = true := by
    rw [hq, List.all_eq_true.mpr fun t h => Option.isNone_iff_eq_none.mpr (ht t h)]
    rfl
  refine finish_ok ((M.bind_ok (theHart_ok hc)).trans ?_)
  rw [if_neg hpass, hidle]
  exact M.bind_ok (waitUnless_true s)

theorem exec_halt_passes (hca : h.carry = true) (hq : h.queue ≠ []) : exec .halt s = .next s.skip := by
  have hpass : (h.carry && !h.queue.isEmpty) = true := by simp [hca, hq]
  refine finish_ok ((M.bind_ok (theHart_ok hc)).trans ?_)
  rw [if_pos hpass, advance_ok]

theorem exec_halt_waits (hca : h.carry = false) (hq : h.queue ≠ []) : exec .halt s = .next s := by
  have hpass : ¬(h.carry && !h.queue.isEmpty) = true := by simp [hca]
  have hbusy : (h.queue.isEmpty && h.tokens.toList.all (fun t => t.job.isNone)) = false := by simp [hq]
  refine finish_wait ((M.bind_ok (theHart_ok hc)).trans ?_)
  rw [if_neg hpass, hbusy]
  exact M.bind_error (show waitUnless false s = .error .wait s from rfl)

theorem exec_hstop (hl : h.level ≠ 0) (hm : s.mayStop h none false = true) : exec .hstop s = .next (s.stopHart s.cur) := by
  refine finish_ok ((M.bind_ok (needLevel_ok hc (Nat.one_le_iff_ne_zero.mpr hl) _)).trans ?_)
  rw [M.bind_ok (theHart_ok hc), M.bind_ok (get_ok s), hm]
  exact M.bind_ok (waitUnless_true s)

end

/-- Settles O32: each word's meaning run to its end; what a stopped hart is left with comes from what the end of its rounds and its subscriptions
leaves of the harts and of memory. -/
theorem systemWords : Obligations.SystemWords := by
  unfold Obligations.SystemWords
  intro s h i hc
  refine ⟨exec_halt_ends hc, exec_halt_passes hc, exec_halt_waits hc, exec_yield s,
    exec_trap s i, fun hl hm => ⟨exec_hstop hc hl hm, ?_⟩⟩
  obtain ⟨k, hk, hst, hrest⟩ := stopHart_curHart hc
  have hs : k.s = h.s := congrArg Standing.s hst
  refine ⟨k, hk, hrest.stopped, hrest.queue, hrest.tokens, hrest.park, hrest.gbarWait, hrest.freds, congrArg Standing.pc hst, fun n => ?_,
    stopHart_subs s s.cur, fun hsv a => ?_⟩
  · rw [Hart.rd, Hart.rd, hs]
  · rw [stopHart_mem fun x hx => ?_]
    have hxh : x = h := Option.some.inj (hx.symm.trans hc)
    rw [hxh, hsv]

end Sys2Proof.Proofs
end

section
/-! SUPPORT. Fences, VBAR, STEPINV and GBAR (R202, R206, R208, R361, R381, R382), and O33. -/

namespace Sys2Proof.Proofs

open Sys2Proof Sys2Proof.Machine

section
variable {s : State} {h : Hart} (hc : s.curHart = some h)
include hc

theorem drained_wait (hw : h.wbuf ≠ []) : drained s = .error .wait s := by
  unfold drained
  rw [M.bind_ok (theHart_ok hc), List.isEmpty_eq_false_iff.mpr hw]
  rfl

theorem released_wait (hw : h.wbuf ≠ []) : released s = .error .wait s := by
  unfold released
  rw [M.bind_ok (theHart_ok hc), List.isEmpty_eq_false_iff.mpr hw]
  rfl

/-! Fences that only wait. -/

theorem exec_fenceRel (hw : h.wbuf = []) (sc : Nat) : exec (.fenceRel sc) s = .next s.skip :=
  finish_ok ((M.bind_ok (drained_ok hc hw)).trans (advance_ok s))

/-! Fences that order vector work: each enters the queue. -/

section
variable (hq : h.queue.length < 64)
include hq

theorem enqueueFence_ok {i : Instr} (hi : captures i = (none, none, none, none)) :
    enqueueFence i s = .ok () (s.placed h { op := h.captured i }) :=
  (M.bind_ok (capture_none hc hi)).trans (enqueue_ok hc hq _)

theorem enqueueFence_advance {i : Instr} (hi : captures i = (none, none, none, none)) :
    (enqueueFence i >>= fun _ => advance) s = .ok () (s.queued h { op := h.captured i }) := by
  rw [M.bind_ok (enqueueFence_ok hc hq hi), advance_ok, State.placed_skip]

theorem exec_fenceRow (sc : Nat) : exec (.fenceRow sc) s = .next (s.queued h { op := h.captured (.fenceRow sc) }) :=
  finish_ok (enqueueFence_advance hc hq rfl)

theorem exec_vbar (sc : Nat) : exec (.vbar sc) s = .next (s.queued h { op := h.captured (.vbar sc) }) :=
  finish_ok (enqueueFence_advance hc hq rfl)

theorem exec_fenceSv (hw : h.wbuf = []) (sc : Nat) : exec (.fenceSv sc) s = .next (s.queued h { op := h.captured (.fenceSv sc) }) :=
  finish_ok ((M.bind_ok (drained_ok hc hw)).trans (enqueueFence_advance hc hq rfl))

theorem exec_fenceSvb (hw : h.wbuf = []) (hp : h.performed = true) (sc : Nat) :
    exec (.fenceSvb sc) s = .next (s.queued h { op := h.captured (.fenceSvb sc) }) :=
  finish_ok ((M.bind_ok (released_ok hc hw hp)).trans (enqueueFence_advance hc hq rfl))

theorem exec_fenceVs (hp : h.performed = true) (sc : Nat) :
    exec (.fenceVs sc) s = .next (s.queued h { op := h.captured (.fenceVs sc) }) := by
  refine finish_ok ((M.bind_ok (theHart_ok hc)).trans ?_)
  rw [hp]
  exact (M.bind_ok (waitUnless_true s)).trans (enqueueFence_advance hc hq rfl)

/-- The read-only lines of the hart's function go before the entry is placed (R361). -/
theorem exec_stepinv (hw : h.wbuf = []) (hp : h.performed = true) (hf : h.hasRoom 3) (sc : Nat) :
    exec (.stepinv sc) s = .next ((s.stepInv h.fn).queued h { op := h.captured (.stepinv sc) }) := by
  have hc' : (s.stepInv h.fn).curHart = some h := hc
  have hmod : (modify (fun s => s.stepInv h.fn) : M Unit) s = .ok () (s.stepInv h.fn) := rfl
  refine finish_ok ((M.bind_ok (released_ok hc hw hp)).trans ?_)
  rw [M.bind_ok (fifoRoom_ok hc hf), M.bind_ok (theHart_ok hc), decide_eq_true hq, M.bind_ok (waitUnless_true s), M.bind_ok hmod]
  exact enqueueI_ok hc' rfl hq

end

/-! GBAR (R382). -/

/-- The hart passes the barrier that it waits at once every other hart is there; until then nothing more happens. -/
theorem finish_gbarLeave {x : M Unit} {s0 : State} (hx : x s0 = gbarLeave s) : finish x s0 = .next (if s.allArrived h
    then s.modHart s.cur (fun k => { k with gbarWait := false, pc := k.pc + 4 }) else s) := by
  have hrun : gbarLeave s = (waitUnless (s.allArrived h) >>= fun _ =>
      modH (fun h => { h with gbarWait := false }) >>= fun _ => advance) s := by
    unfold gbarLeave
    rw [M.bind_ok (theHart_ok hc), M.bind_ok (get_ok s)]
  cases ha : s.allArrived h
  · refine finish_wait (hx.trans (hrun.trans ?_))
    rw [ha]
    rfl
  · refine finish_ok (hx.trans (hrun.trans ?_))
    rw [ha, M.bind_ok (waitUnless_true s), M.bind_ok (modH_ok _ s), advance_ok]
    exact congrArg _ (State.modHart_modHart s s.cur (fun k => { k with gbarWait := false }) Hart.advance (fun _ => rfl))

/-- A hart at the barrier goes no further than the others let it. -/
theorem exec_gbar_waiting (hg : h.gbarWait = true) (sc : Nat) : exec (.gbar sc) s = .next (if s.allArrived h
    then s.modHart s.cur (fun k => { k with gbarWait := false, pc := k.pc + 4 }) else s) := by
  refine finish_gbarLeave hc ?_
  unfold gbarM
  rw [M.bind_ok (theHart_ok hc), if_pos hg]

/-- A hart that comes to the barrier places the fence's entry and arrives, once. -/
theorem gbarM_arrives (hq : h.queue.length < 64) (hg : h.gbarWait = false) (hca : h.carry = false) (hw : h.wbuf = [])
    (hp : h.performed = true) (sc : Nat) :
    gbarM sc s = gbarLeave ((s.placed h { op := h.captured (.gbar sc) }).modHart s.cur
      (fun k => { k with gbarCount := k.gbarCount + 1, gbarWait := true })) := by
  unfold gbarM
  rw [M.bind_ok (theHart_ok hc), hg, hca]
  simp only [Bool.false_eq_true, if_false]
  rw [M.bind_ok (released_ok hc hw hp), M.bind_ok (enqueueFence_ok hc hq rfl), M.bind_ok (modH_ok _ _)]
  rfl

end

/-- Settles O33: each word's guards pass or wait as its accesses stand, then it places its entry and goes on; the barrier is passed once all have
arrived. -/
theorem fencesAndBarriers : Obligations.FencesAndBarriers := by
  unfold Obligations.FencesAndBarriers
  intro s h sc hc hq entry
  refine ⟨finish_ok (advance_ok s), exec_fenceRow hc hq sc, exec_vbar hc hq sc, fun hw => ⟨exec_fenceRel hc hw sc, exec_fenceSv hc hq hw sc⟩,
    fun hp => exec_fenceVs hc hq hp sc, fun hw hp => exec_fenceSvb hc hq hw hp sc, fun hw hp hf => exec_stepinv hc hq hw hp hf sc,
    fun hw => ?waits, fun hg => exec_gbar_waiting hc hg sc, fun hg hca hw hp => ?arrives⟩
  case waits =>
    exact ⟨finish_wait (M.bind_error (drained_wait hc hw)), finish_wait (M.bind_error (drained_wait hc hw)),
      finish_wait (M.bind_error (released_wait hc hw))⟩
  case arrives =>
    intro t k hk
    exact finish_gbarLeave hk (gbarM_arrives hc hq hg hca hw hp sc)

end Sys2Proof.Proofs
end

section
/-! SUPPORT. What a step's move does: the events of an agenda (R151), and where a fetch stops (R155, R220, R268); O5 and O6. -/

namespace Sys2Proof.Proofs

open Sys2Proof Sys2Proof.Machine

/-! A move of the agenda. -/

theorem step_agenda {s : State} {m : Move} {rest : List Move} (h : s.agenda = m :: rest) :
    step s = ({ s with agenda := rest, stalled := [] } : State).move m := by
  unfold step
  rw [h]

/-- An event but an illegal instruction or a dispatch out of turn takes place. -/
theorem event_eq {u : State} {i : Instr} (he : encode i = none) (hi : ∀ w, i ≠ .illegalInstruction w)
    (hr : ∀ hart r, i = .rowDispatch hart r → u.rowTurn hart r = true) : u.event i = exec i u := by
  have hev : ¬(!isEvent i) = true := by simp [isEvent, he]
  unfold State.event
  rw [if_neg hev]
  split
  next w => exact absurd rfl (hi w)
  next hart r => rw [if_pos (hr hart r rfl)]
  next => rfl

/-- Settles O5: the head of the agenda is the move, and its event is not one of the two that need not take place. -/
theorem stepRunsEvent : Obligations.StepRunsEvent := by
  unfold Obligations.StepRunsEvent
  intro s rest i u ha he hi hr
  exact (step_agenda ha).trans (event_eq he hi hr)

/-! The issue of a hart whose turn it is. -/

section
variable {u : State} {h : Hart} (hh : u.hart? h.id = some h)
include hh

theorem move_issue (ht : u.hartTurn h = true) : u.move (.issue h.id) = u.issue h := by
  unfold State.move
  simp only [hh, ht, if_true]

section
variable (hl : h.late = [])
include hl

theorem takeLate_none : (u.turn h.id).takeLate? h.id = none := by
  unfold State.takeLate?
  rw [show (u.turn h.id).hart? h.id = some h from hh, Option.map_some, hl]

variable (hp : h.park = none)
include hp

/-- With no committed cause left and no request parked, a hart fetches: it freezes on a miss. -/
theorem attempt_miss (hm : u.iline h h.pc.toNat = none) :
    u.attempt h = .next ((u.turn h.id).modHart h.id (fun x => x.missed h.pc.toNat)) := by
  unfold State.attempt
  simp only [takeLate_none hh hl, hp, hm]

/-- Else it runs the bytes of the line. -/
theorem attempt_fetched {l : ILine} (hline : u.iline h h.pc.toNat = some l) (hpoison : l.poison = false) :
    u.attempt h = runBytes (l.fetch h.pc.toNat) (u.turn h.id) := by
  unfold State.attempt
  simp only [takeLate_none hh hl, hp, hline, hpoison, Bool.false_eq_true, if_false]

end

end

/-! Where a fetch stops. -/

theorem leVal_lt (bs : List Byte) : leVal bs < 256 ^ bs.length := by
  induction bs with
  | nil => exact Nat.one_pos
  | cons b bs ih =>
    have hb : b.toNat < 256 := b.isLt
    rw [leVal, List.length_cons, Nat.pow_succ]
    omega

theorem word_lt (l : ILine) (va : Nat) : l.word va < 2 ^ 32 := by
  have hlen : ((l.bytes.drop (va % 64)).take 4).length ≤ 4 := List.length_take_le 4 _
  calc l.word va < 256 ^ ((l.bytes.drop (va % 64)).take 4).length := leVal_lt _
    _ ≤ 256 ^ 4 := Nat.pow_le_pow_right (by decide) hlen

/-- A trap of the scalar stream marks no row: it is taken, or nothing has happened. -/
theorem trapTo_eq (s : State) (code : Nat) (val : Word) (sub : Nat) :
    s.trapTo code val sub = (s.takeTrap? { code := code, val := val, sub := sub }).getD s := by
  unfold State.trapTo State.takeTrap State.trapWaits
  cases s.curHart <;> rfl

/-- Bytes that no table assigns are the illegal-instruction trap with TVAL their word (R220, R268). -/
theorem runBytes_undecoded {l : ILine} {va : Nat} {e : DecodeError} (he : decode (l.fetch va) = .error e) (s : State) :
    runBytes (l.fetch va) s = .next (s.trapTo 0x01 (BitVec.ofNat 64 (l.word va))) := by
  have hw : leVal (l.fetch va) % 2 ^ 32 = l.word va := Nat.mod_eq_of_lt (word_lt l va)
  unfold runBytes
  rw [he, trapTo_eq, ← hw]
  rfl

/-- A hart that waits for no line freezes, and its miss counts (R155). -/
theorem missed_eq {h : Hart} (hf : h.fetchWait = none) (va : Nat) : h.missed va = { h with
    fetchWait := some (va / 64 * 64)
    slip := if h.slip = BitVec.allOnes 32 then h.slip else h.slip + 1 } := by
  unfold Hart.missed
  rw [hf, if_neg (by simp)]
  rfl

/-- A hart that may issue, with nothing parked, waits for no line. -/
theorem fetchWait_of_ready {h : Hart} (hr : h.ready = true) (hp : h.park = none) : h.fetchWait = none := by
  simp only [Hart.ready, hp, Bool.and_eq_true, Option.isNone_iff_eq_none] at hr
  exact hr.2

/-- A hart that only waits for its line has not issued, and keeps its rank (R157). -/
theorem restamp_missed {u : State} {h : Hart} (hh : u.hart? h.id = some h) (hf : h.fetchWait = none) (hm : u.iline h h.pc.toNat = none) :
    u.restamp ((u.turn h.id).modHart h.id (fun x => x.missed h.pc.toNat)) h.id
      = (u.turn h.id).modHart h.id (fun x => x.missed h.pc.toNat) := by
  have hid : ∀ x : Hart, (x.missed h.pc.toNat).id = x.id := fun x => by
    unfold Hart.missed
    dsimp only
    split <;> rfl
  have ht : ((u.turn h.id).modHart h.id (fun x => x.missed h.pc.toNat)).hart? h.id = some (h.missed h.pc.toNat) := by
    rw [State.hart?_modHart _ _ _ _ hid, show (u.turn h.id).hart? h.id = some h from hh]
    simp
  have hb : u.atBranch h = false := by
    unfold State.atBranch
    rw [hm]
    rfl
  have hi : u.hartIssued ((u.turn h.id).modHart h.id (fun x => x.missed h.pc.toNat)) h.id = false := by
    unfold State.hartIssued
    simp only [hh, ht, missed_eq hf, hb, bne_self_eq_false, Bool.or_false]
  unfold State.restamp
  rw [hi]
  rfl

/-- Settles O6: the hart whose turn it is fetches; what does not decode is the trap, and a miss only freezes it. -/
theorem fetchStops : Obligations.FetchStops := by
  unfold Obligations.FetchStops
  intro s h rest u ha hh ht hl hp
  have hready : h.ready = true := (Bool.and_eq_true_iff.mp ht).1
  have hf := fetchWait_of_ready hready hp
  have hstep : step s = nextBy (u.attempt h) (fun t => u.restamp t h.id) := (step_agenda ha).trans (move_issue hh ht)
  refine ⟨fun l e hline hpoison he => ?undecoded, fun hm => ⟨?miss, missed_eq hf _⟩⟩
  case undecoded =>
    rw [hstep, attempt_fetched (u := u) hh hl hp hline hpoison, runBytes_undecoded he]
    rfl
  case miss =>
    rw [hstep, attempt_miss (u := u) hh hl hp hm]
    exact congrArg Host.Outcome.next (restamp_missed hh hf hm)

end Sys2Proof.Proofs
end
